-- ==== Sys2Proof/Word.lean ====
section
/-! DEFINITION. The data widths of the manual (R6): byte, dword, qword and the 36-bit Imlas-36 word. -/

namespace Sys2Proof

/-- A byte, 8 bits (R6). -/
abbrev Byte := BitVec 8

/-- A dword, 32 bits (R6). -/
abbrev Dword := BitVec 32

/-- A qword, 64 bits (R6). -/
abbrev Qword := BitVec 64

/-- An Imlas-36 word: bits [31:0] the value, bits [35:32] the quality code (R6, R316). -/
abbrev W36 := BitVec 36

end Sys2Proof
end

