-- ==== Sys2Proof/Syntax.lean ====
section
/-! DEFINITION. The commands of the block: one constructor of `Instr` per row of the operation table, with the
operands that the row's step is given. What a physical event finds (a reading, a fault class, whether a digest
verifies, whether host memory answers) is an operand; everything else is in the state. -/

namespace Sys2Proof

/-- The requester paths of R64, and the remote path on which a cascade master reaches a member (R585). -/
inductive Path where
  | host | fw | keeper | remote
deriving DecidableEq, Repr

/-- One dword access at the register bus root (R63, R84, R85): `wr` is the value of a write, none for a read. -/
structure BusAccess where
  path : Path
  off  : Nat
  wr   : Option Dword
deriving DecidableEq, Repr

/-- The size of an access (R60); any other span crosses a dword boundary (R61). -/
inductive AccessSize where
  | dword | qword | other
deriving DecidableEq, Repr

/-- An access as it arrives at the register bus root (R60, R61): its byte enables, lowest byte first, and the value of a
write, of which a dword access takes the low half. -/
structure RegAccess where
  path : Path
  off  : Nat
  size : AccessSize
  be   : BitVec 8
  wr   : Option Qword
deriving DecidableEq, Repr

/-- A read of a register pair: where it begins and its size (R60, R64). -/
structure PairRead where
  off  : Nat
  size : AccessSize
deriving DecidableEq, Repr

/-- The levels that the device takes as PWR_OK rises: of CAS_ROLE (R564) and of the VIO pads (R594). -/
structure SampledPins where
  casRole : Bool
  vioHigh : Bool
deriving DecidableEq, Repr

/-- The end of a channel's background training: the best step that it has reached, if any (R105). -/
structure TrainEnd where
  chan : Nat
  best : Option (BitVec 3)
deriving DecidableEq, Repr

/-- An NVMe command is known by its function F (R236), its submission queue and its identifier. -/
structure CmdId where
  fn  : Nat
  qid : Nat
  cid : Nat
deriving DecidableEq, Repr

/-- The data pointer of a command (R246): PRPs, or an SGL with its number of descriptors, whether a Bit Bucket is
among them, and the total of the lengths of its Data Block and Bit Bucket descriptors. -/
inductive DataPtr where
  | prp
  | sgl (count : Nat) (bucket : Bool) (total : Nat)
deriving DecidableEq, Repr

/-- An NVMe or Oreozer command: its dwords (`c0`: the reserved bits [13:10] of CDW0), its data pointer, the bytes that host memory holds for it, and whether
host memory answers (false: Unsupported Request, Completer Abort or poisoned data, R247). -/
structure NvCmd where
  id    : CmdId
  nsid  : Dword
  c2    : Dword
  c3    : Dword
  c10   : Dword
  c11   : Dword
  c12   : Dword
  c13   : Dword
  c14   : Dword
  c15   : Dword
  ptr   : DataPtr
  data  : List Byte
  memOk : Bool
  c0    : BitVec 4 := 0
deriving DecidableEq, Repr

/-- A submission queue entry as the fetch sees it: identifier and opcode (R243, R248). -/
structure SqEntry where
  cid    : Nat
  opcode : BitVec 8
  nsid   : Dword
deriving DecidableEq, Repr

/-- What DRAM training finds on one channel (R527): whether stored training verifies, whether full training
succeeds, the configuration read (density code, two ranks, RDIMM, rate code), and what identifies the installed devices. -/
structure DramFinding where
  stored  : Bool
  trains  : Bool
  density : BitVec 2
  ranks2  : Bool
  rdimm   : Bool
  rate    : BitVec 2
  ident   : Nat
deriving DecidableEq, Repr

/-- The type of a die (R95): Read ID bytes and parameter-page digest. -/
structure DieType where
  ident  : Qword
  digest : BitVec 256
deriving DecidableEq, Repr

/-- The NAND interfaces of R90. -/
inductive NandIf where
  | onfi | toggle
deriving DecidableEq, Repr

/-- What the parameter page of a die declares, as far as the device uses it (R90, R92, R93, R128, R158, R165, R170, R210):
its interface, whether it supports volume addressing, the planes of a multi-plane program. -/
structure DieParams where
  iface       : NandIf := .onfi
  volumes     : Bool := true
  planes      : Nat := 1
  blocks      : Nat
  pages       : Nat
  bits        : Nat
  pageBytes   : Nat
  rate        : BitVec 3
  endurance   : Nat
  badBlocks   : List Nat
  hasTemp     : Bool
deriving DecidableEq, Repr

/-- A die that discovery meets on a chip enable, in the order of the ENi/ENo chain (R94, R95, R101): its strapped volume
address, the bytes of Read ID, the copies of its parameter page, the copies that Read Unique ID returns, and what the
parameter page declares. -/
structure DieFinding where
  ce     : Nat
  strap  : Option Nat
  ident  : List Byte
  pages  : List (List Byte)
  uids   : List (List Byte)
  params : DieParams
deriving DecidableEq, Repr

/-- What bring-up finds on one channel (R94 to R105): the pin test's class and pins, the dies that answer, the eye that the
Read DQ Training pattern shows on each DQ pin of a die (die number, percent of the unit interval), and the best rate step
that full training reaches (none: not even 800 MT/s). -/
structure ChanFinding where
  chan   : Nat
  cls    : BitVec 4
  pin    : BitVec 5
  other  : BitVec 5
  dies   : List DieFinding
  eyes   : List (Nat × List Nat)
  best   : Option (BitVec 3)
deriving DecidableEq, Repr

/-- The engine pools of R27. -/
inductive Pool where
  | ldpc | burin | lane | comp | dec | henc | dgs
deriving DecidableEq, Repr

/-- The checkers of R147. -/
inductive Checker where
  | ldpc (group unit : Nat)
  | dramEcc (chan : Nat)
  | sramUnit (pool : Pool) (inst unit : Nat)
  | sramCore (core : Nat)
  | sramOther (macroGroup : Nat)
deriving DecidableEq, Repr

/-- What a checker answers to a test pattern (R147): it reports so many bits or symbols corrected, with an output that is the
original or is not; or it reports an error that it cannot correct. -/
inductive PatternAnswer where
  | corrected (count : Nat) (same : Bool)
  | reported
deriving DecidableEq, Repr

/-- The self-test of a checker (R147): its answers to the patterns, in the order of the manual's table; of a DRAM channel's ECC the
twelve patterns of each rank and subchannel one after the other. -/
structure CheckerRun where
  checker : Checker
  answers : List PatternAnswer
deriving DecidableEq, Repr

/-- What one start stage of R228 finds: of the boot images and the settings copies, whether they verify; the anchor pages (block
key × 8,192 + page) and the mirrors (place of the first codeword) that do not; the first journal record that fails on both dies. -/
inductive StageFinding where
  | boot (primaryOk secondaryOk copyAOk copyBOk : Bool) (dieTable : List (BitVec 256 × Bool))
  | plls (matchIn : BitVec 4)
  | dram (chans : List DramFinding)
  | checkers (runs : List CheckerRun)
  | media (chans : List ChanFinding) (badAnchors badMirrors : List Nat)
  | replay (badFrom : Option Nat)
  | root (aOk bOk : Bool) (badAnchors badMirrors : List Nat)
  | init
deriving DecidableEq, Repr

/-- Why the device reads a flash page. -/
inductive ReadFor where
  | cmd (id : CmdId)
  | job (job : Nat)
  | patrol
  | gleaner
  | mapPage (nsid : Nat) (level : Nat) (index : Nat)
deriving DecidableEq, Repr

/-- What the decoder makes of a codeword that a transfer brought (R126, R131, R133): it reaches a zero syndrome with some bits
corrected, at an output that differs from the codeword stored in the bits `flips` of its information part, or it fails with
some unsatisfied checks, and the transfer may show a lane signature. -/
inductive DecodeOutcome where
  | converged (bits : Nat) (flips : List Nat)
  | failed (checks : Nat) (signature : Bool)
deriving DecidableEq, Repr

/-- A request of a die for its channel's bus (R117, R120): whether it is the data transfer of an operation already started, and
the tenant tag of its work (R26). -/
structure BusRequest where
  die  : Nat
  data : Bool
  tag  : Nat
deriving DecidableEq, Repr

/-- A page or codeword transfer that has ended (R131). -/
structure PageRead where
  die     : Nat
  block   : Nat
  page    : Nat
  cw      : Nat
  purpose : ReadFor
  outcome : DecodeOutcome
deriving DecidableEq, Repr

/-- The rank and the subchannel that a DRAM line lies on. -/
structure LinePlace where
  rank  : Nat := 0
  subch : Nat := 0
deriving DecidableEq, Repr

/-- The errors that a read of a DRAM line meets (R139): the symbols that are wrong, each by its device (0 to 9) and its place in the
device (0 to 7). -/
structure LineFinding extends LinePlace where
  errs  : List (Nat × Nat) := []
deriving DecidableEq, Repr

/-- A line whose contents are copied into a spare (R143, R144): of a DRAM channel, or of a macro group of on-die SRAM with the
bits that were wrong in the words of it that the accesses of the present DRAM scrub pass met (R141). -/
inductive RemapLine where
  | dram (ch line : Nat)
  | sram (group line : Nat) (bits : List Nat)
deriving DecidableEq, Repr

/-- A request at a Stile arbiter (R529, R530, R541): requester, class, the address of its line (of its word in cluster memory),
its bank (bank + 32 × subchannel + 64 × rank), row, tenant tag, beats wanted, whether it writes, and
what a read of its line on DRAM finds. -/
structure ArbReq where
  requester : Nat
  cls       : Nat
  line      : Nat
  bank      : Nat
  row       : Nat
  tenant    : Nat
  beats     : Nat
  write     : Bool
  found     : LineFinding := {}
deriving DecidableEq, Repr

/-- A key and plate for one search (R340, R378, R381). -/
structure SearchKey where
  tenant : Nat
  plate  : Nat
  key    : List Byte
deriving DecidableEq, Repr

/-- What strikes the search table as a lookup runs: bits of array rows changed by soft errors (row, bit: VALUE 0 to 143, CARE 144
to 287, TENANT 288 to 298, PRIO 299 to 314, VALID 315, WIDTH 316 and 317), chain heads with an uncorrectable word in their
verification copy, and banks that stop answering (R384, R385, R397). -/
structure SearchFaults where
  upsets   : List (Nat × Nat)
  badWords : List Nat
  dead     : List Nat
deriving DecidableEq, Repr

/-- What meets a string instruction as it runs: `upTo`, when not zero, is the number of elements after which the core takes an
interruption (R464); `lost` is an element whose read of BA, or of BB where the flag is set, is uncorrectable (R142). -/
structure StrRun where
  upTo : Nat := 0
  lost : Option (Nat × Bool) := none
deriving DecidableEq, Repr

/-- A Tabfer flit (R571). -/
structure Flit where
  src     : Nat
  dst     : Nat
  seq     : Nat
  crcOk   : Bool
  ack     : Option Nat
deriving DecidableEq, Repr

/-- The digest messages of R426: a requester path, a thread (by descriptor), a digest stage of a job; and the keeper's
message on a privileged unit (R434). -/
inductive DgsOwner where
  | path (p : Path)
  | thread (d : Nat)
  | stage (job stage : Nat)
  | unit (u : Nat)
deriving DecidableEq, Repr

/-- How a stage ends when its end is not computed from its data: normally, or with an engine fault (R304). -/
inductive StageFinish where
  | normal
  | engineFault
deriving DecidableEq, Repr

/-! ### The four forms of an Imlas-36 instruction word (R448), each with the thread that issues it -/

/-- Register form. `t` is the descriptor of the issuing thread. -/
structure Rg where
  t    : Nat
  cond : BitVec 4
  rd   : BitVec 5
  ra   : BitVec 5
  rb   : BitVec 5
  fn   : BitVec 11
deriving DecidableEq, Repr

/-- Immediate form; in the B-space immediate form `imm` holds the window in [15:12] and the offset in [11:0]. -/
structure Im where
  t    : Nat
  cond : BitVec 4
  rd   : BitVec 5
  ra   : BitVec 5
  imm  : BitVec 16
deriving DecidableEq, Repr

/-- Branch form. -/
structure Br where
  t    : Nat
  cond : BitVec 4
  off  : BitVec 26
deriving DecidableEq, Repr

/-- A B-space load or store in its immediate form or its register form, op 1Fh (R460). -/
inductive Bs where
  | imm (f : Im)
  | reg (f : Rg)
deriving DecidableEq, Repr

/-- The commands: one constructor per row of the operation table. The Imlas-36 rows stand first and the rows without
operands last (Lean's runtime numbers only the first 245 constructors with operands for compiled code). -/
inductive Instr where
  -- Imlas-36 integer
  | imAdd (f : Rg)
  | imSub (f : Rg)
  | imAdc (f : Rg)
  | imSbc (f : Rg)
  | imAnd (f : Rg)
  | imOr (f : Rg)
  | imXor (f : Rg)
  | imAndn (f : Rg)
  | imShl (f : Rg)
  | imShr (f : Rg)
  | imSar (f : Rg)
  | imRor (f : Rg)
  | imMul (f : Rg)
  | imMulhu (f : Rg)
  | imMulhs (f : Rg)
  | imDivu (f : Rg)
  | imDivs (f : Rg)
  | imRemu (f : Rg)
  | imRems (f : Rg)
  | imMins (f : Rg)
  | imMaxs (f : Rg)
  | imMinu (f : Rg)
  | imMaxu (f : Rg)
  | imMov (f : Rg)
  | imClz (f : Rg)
  | imPopc (f : Rg)
  | imBswap (f : Rg)
  | imAddi (f : Im)
  | imAndi (f : Im)
  | imOri (f : Im)
  | imXori (f : Im)
  | imShli (f : Im)
  | imShri (f : Im)
  | imSari (f : Im)
  | imLui (f : Im)
  | imCmpi (f : Im)
  | imQseti (f : Im)
  | imMuli (f : Im)
  -- Imlas-36 floating point
  | imFadd (f : Rg)
  | imFsub (f : Rg)
  | imFmul (f : Rg)
  | imFdiv (f : Rg)
  | imFmin (f : Rg)
  | imFmax (f : Rg)
  | imFcmp (f : Rg)
  | imFcvtis (f : Rg)
  | imFcvtiu (f : Rg)
  | imFcvtsi (f : Rg)
  | imFabs (f : Rg)
  | imFneg (f : Rg)
  | imFsqrt (f : Rg)
  -- Imlas-36 quality and special registers
  | imQget (f : Rg)
  | imQset (f : Rg)
  | imQdrv (f : Rg)
  | imQmax (f : Rg)
  | imQcls (f : Rg)
  | imMfs (f : Rg)
  | imMts (f : Rg)
  -- Imlas-36 memory; `ue`: the word or line read is uncorrectable (R142, R516)
  | imLdw (f : Im) (ue : Bool)
  | imStw (f : Im)
  | imLdwx (f : Rg) (ue : Bool)
  | imStwx (f : Rg)
  | imCasw (f : Rg) (ue : Bool)
  | imLb (f : Bs) (ue : Bool)
  | imLbs (f : Bs) (ue : Bool)
  | imLh (f : Bs) (ue : Bool)
  | imLhs (f : Bs) (ue : Bool)
  | imL4 (f : Bs) (ue : Bool)
  | imLq (f : Bs) (ue : Bool)
  | imSb (f : Bs)
  | imSh (f : Bs)
  | imS4 (f : Bs)
  | imSq (f : Bs)
  -- Imlas-36 control; `ue`: the word popped is uncorrectable
  | imBr (f : Br)
  | imCall (f : Br)
  | imJr (f : Rg)
  | imCallr (f : Rg)
  | imRet (f : Rg) (ue : Bool)
  | imPush (f : Rg)
  | imPop (f : Rg) (ue : Bool)
  -- Imlas-36 string and move
  | imBmov (f : Rg) (run : StrRun)
  | imBfill (f : Rg) (run : StrRun)
  | imBscan (f : Rg) (run : StrRun)
  | imBcmp (f : Rg) (run : StrRun)
  | imWmov (f : Rg) (run : StrRun)
  | imQunpk (f : Rg) (run : StrRun)
  | imQpack (f : Rg) (run : StrRun)
  | imBcrc (f : Rg) (run : StrRun)
  | imBdgst (f : Rg) (run : StrRun)
  -- Imlas-36 ports; `ue`: a line of the key or of the staging block is uncorrectable
  | imSrch (f : Rg) (faults : SearchFaults) (ue : Bool)
  | imSupd (f : Rg) (ue : Bool)
  | imDgStart (f : Rg)
  | imDgUpdate (f : Rg)
  | imDgFinish (f : Rg)
  | imDgAbandon (f : Rg)
  | imDgResult (f : Rg)
  | imDgExpect (f : Rg)
  | imDgStatus (f : Rg)
  -- Imlas-36 system; `uePc`, `ueFl`: the word of PC or of FL is uncorrectable
  | imNop (f : Rg)
  | imYield (f : Rg)
  | imWait (f : Rg)
  | imSpawn (f : Rg)
  | imFtake (f : Rg)
  | imFrel (f : Rg)
  | imFence (f : Rg)
  | imTime (f : Rg)
  | imTrap (f : Rg)
  | imEret (f : Rg) (uePc ueFl : Bool)
  | imHalt (f : Rg)
  | imEnd (f : Rg)
  -- registers (R59 to R86)
  | registerWrite (a : RegAccess)
  | pairLoRead (p : Path) (r : PairRead)
  | rsqClearWrite (p : Path) (off : Nat) (v : Dword)
  | rwbWrite (p : Path) (off : Nat) (v : Dword)
  | rwbBoundaryApply (block : Nat)
  | rwgFirstWrite (p : Path) (off : Nat) (v : Dword)
  | rwgComplementWrite (p : Path) (off : Nat) (v : Dword)
  | rwgGuardTimeout (p : Path)
  | xregAccessComplete (a : BusAccess)
  | xregReadTimeout (p : Path) (off : Nat)
  | xregWriteDropped (p : Path) (off : Nat)
  -- time, pins, start
  | refclkSysLoss (present : Bool)
  | islandTimeCorrection (island : Nat) (sample : Qword)
  | ptmExchange (hostTime : Qword)
  | pwrOkRise (pins : SampledPins)
  | pwrOkFall (lowNs : Nat)
  | etchFenceRaise (rails : BitVec 6)
  | startStageEnd (tenthsMs : Nat) (f : StageFinding)
  -- media bus
  | channelBackgroundTrainEnd (e : TrainEnd)
  | eyeSample (ch : Nat) (margin pin die : Nat)
  | retrainStart (ch : Nat)
  | retrainEnd (ch : Nat) (eyes : List Nat)
  | pintestDue (ch : Nat)
  | pintestEnd (ch : Nat) (cls : BitVec 4) (pin other : BitVec 5)
  | mediaTransactionEnd (ch : Nat) (arrivals : List BusRequest)
  | mediaHoldExpiry (ch die : Nat)
  | pageReadDone (r : PageRead)
  -- page code and scrub
  | stippleDramRead (ch line : Nat) (place : LinePlace) (errs : List (Nat × Nat))
  | lineRemapCopyDone (line : RemapLine)
  | stipplePatrolRead (die block page : Nat) (o : DecodeOutcome) (rest : List DecodeOutcome)
  -- translation
  | mapPageLoaded (nsid level index : Nat)
  | pageProgramDone (swath stripe : Nat) (failed : List Nat)
  | eraseBegin (die block : Nat)
  | blockEraseDone (die block : Nat) (ok : Bool)
  -- Etch buffer
  | etchDataAck (id : CmdId)
  | admissionResume (id : CmdId)
  | completionPost (fn cqid : Nat)
  | anchorProgrammed (dies : Nat)
  | etchDieLost (die : Nat)
  | etchLineUe (slot : Nat)
  -- host interface
  | doorbellWrite (fn qid : Nat) (completion : Bool) (value : Nat) (entries : List SqEntry) (badLines : List Nat)
      (checks : List CheckerRun)
  | commandFetch (fn : Nat)
  | ccEnSet (fn : Nat)
  | ccEnClear (fn : Nat)
  | shutdownRequest (fn : Nat)
  | shutdownComplete (fn : Nat)
  | functionLevelReset (fn : Nat)
  | pcieHotReset (port : Nat)
  -- admin commands
  | createIoSq (c : NvCmd)
  | createIoCq (c : NvCmd)
  | deleteIoSq (c : NvCmd)
  | deleteIoCq (c : NvCmd)
  | getLogPage (c : NvCmd)
  | identify (c : NvCmd)
  | abort (c : NvCmd)
  | setFeatures (c : NvCmd)
  | getFeatures (c : NvCmd)
  | asyncEventRequest (c : NvCmd)
  | namespaceManagement (c : NvCmd)
  | namespaceAttachment (c : NvCmd)
  | firmwareImageDownload (c : NvCmd)
  | firmwareCommit (c : NvCmd) (signed : Bool)
  | virtualizationManagement (c : NvCmd)
  | formatNvm (c : NvCmd)
  | sanitize (c : NvCmd)
  -- I/O commands
  | flush (c : NvCmd)
  | write (c : NvCmd)
  | read (c : NvCmd)
  | compare (c : NvCmd)
  | writeZeroes (c : NvCmd)
  | datasetManagement (c : NvCmd)
  | verify (c : NvCmd)
  | reservationRegister (c : NvCmd)
  | reservationReport (c : NvCmd)
  | reservationAcquire (c : NvCmd)
  | reservationRelease (c : NvCmd)
  -- Oreozer commands and jobs
  | programLoad (c : NvCmd)
  | programUnload (c : NvCmd)
  | channelCreate (c : NvCmd)
  | channelDestroy (c : NvCmd)
  | destroyComplete (slot : Nat)
  | tenantConfigure (c : NvCmd)
  | keyImport (c : NvCmd)
  | jobSubmit (c : NvCmd) (src snk : DataPtr) (srcData : List Byte)
  | streamAppend (c : NvCmd)
  | appendRegionAssign (id : CmdId)
  | query (c : NvCmd) (src snk : DataPtr) (srcData : List Byte)
  | channelDrain (c : NvCmd)
  | drainComplete (id : CmdId)
  | jobEnter (job : Nat)
  | stageBegin (job stage : Nat)
  | stageEnd (job stage : Nat) (f : StageFinish)
  | lanePieceStart (lane : Nat)
  | lanePieceEnd (lane : Nat) (faults : SearchFaults)
  | codecPreempt (pool : Pool) (unit : Nat)
  | codecResume (pool : Pool) (unit : Nat)
  -- search
  | camInvalidate (p : Path) (index : Nat)
  | camWrite (p : Path) (index : Nat)
  | camValidate (p : Path) (index : Nat)
  | camRead (p : Path) (index : Nat)
  | camPairedWrite (p : Path) (index : Nat)
  | camStepApply (p : Path)
  | camLookup (k : SearchKey) (faults : SearchFaults)
  | matchRound (k : SearchKey) (matchIn : BitVec 16)
  -- cipher, digest, keys
  | drbgReseed (healthy : Bool)
  | cipherRequest (g : Nat) (disagreements : Nat)
  | digestStart (p : Path) (alg dest : BitVec 2)
  | digestDataWrite (p : Path) (v : Dword)
  | digestFinish (p : Path) (tail : BitVec 2)
  | digestAbandon (p : Path)
  | digestDone (o : DgsOwner) (proofFault : Bool)
  | resultEarlyRead (p : Path) (k : Nat)
  | digestRestore (ok : Bool)
  -- arbiters and DRAM
  | arbiterDecision (a subch : Nat) (arrivals : List ArbReq)
  | dramRequestAge (ch : Nat)
  | refreshDue (ch rank : Nat) (hot : Bool)
  | rhWindowEnd (ch : Nat)
  -- statistics and thermal
  | windowBoundaryReport (g island : Nat) (counts : List (Nat × Nat))
  | windowLatch (g : Nat)
  | sensorRound (readings : List Int) (outOfRange : List Nat)
  -- cascade
  | rmtRead (p : Path) (pos : Nat)
  | rmtWrite (p : Path) (pos : Nat)
  | rmtGuardedWrite (p : Path) (pos : Nat)
  | rmtAnswer (data : Dword)
  -- scheduler
  | descRead (p : Path) (index : Nat)
  | descCreate (p : Path) (index : Nat)
  | descKill (p : Path) (index : Nat)
  | descSetPrio (p : Path) (index : Nat)
  | sliceExpiry (core : Nat)
  | threadWake (d : Nat)
  | threadBlock (d : Nat)
  | threadUnblock (d : Nat)
  | timeLimit (job : Nat)
  | coreFailure (core : Nat)
  | interruptTaken (core : Nat) (code : BitVec 8)
  -- rows with operands that no code of the model builds
  | wpgStuck (g : Nat)
  | dieStatusTimeout (ch die : Nat)
  | dieResetTimeout (ch die : Nat)
  | engineUnitFailure (pool : Pool) (inst unit : Nat)
  | camArrayCheck (bank : Nat) (answers : Bool) (badWords : List Nat)
  | burinUnitStall (g unit : Nat)
  | emergencyRevoke (a : Nat)
  | emergencyEnd (a : Nat)
  | latchLate (g : Nat)
  | cascadeStartEnd (matchIn : BitVec 4)
  | tcbFrameSend (kind : BitVec 4) (winner : Option (BitVec 4 × BitVec 3)) (acked : Bool)
  | alarm (src : Nat) (code : Byte)
  | sync (src : Nat)
  | syncFollow (src : Nat) (masterTime : Qword)
  | role (src : Nat) (claim : Byte)
  | announce (src : Nat) (serial : Qword)
  | link (src : Nat) (data : BitVec 16)
  | ready (src : Nat) (stage : Nat)
  | memberLost (pos : Nat)
  | flitReceived (l : Nat) (f : Flit)
  | tabferRetrainEnd (l : Nat) (ok : Bool)
  | tabferTrainTimeout (l : Nat)
  | tabferLinkTrained (l : Nat) (serial : Qword) (pos peerLink : Nat) (rev : Bool) (polarity : BitVec 8)
  | tabferLossOfLock (l : Nat)
  | debugHalt (d : Nat)
  | dieTemperatureRead (ch die : Nat) (temp : Int)
  | ps4ExitMediaBringUp (chans : List ChanFinding)
  -- rows without operands
  | controllerReset
  | deviceReset
  | ptmLost
  | perstNAssert
  | perstNDeassert
  | etchFenceLower
  | patrolPositionSave
  | mapPrefetch
  | meadowRecompute
  | gleanerDispatch
  | fallowSweep
  | destageStart
  | healthCountersCommit
  | journalCommit
  | journalHoldRelease
  | rootCheckpoint
  | rootCheckpointDone
  | journalMirrorCopy
  | settingsUpdateStart
  | settingsCommit
  | nvmSubsystemReset
  | powerStateEntry
  | smbusBasicStatus
  | smbusVendorSerial
  | digestPreempt
  | engineSlotBoundary
  | engineFrameBoundary
  | throttleGraceExpiry
  | thermalHistoryCommit
  | syncSend
  | syncLost
  | rmtTimeout
  | keeperWatchdog
  | sanitizeComplete
  | aonTimebaseLoss
  | vaonRamp
deriving DecidableEq, Repr

end Sys2Proof
end

