-- ==== Sys2Proof/WellFormed.lean ====
section
/-! DEFINITION. Which terms are commands: every operand within the range that the manual gives it, and the operation
selector of an Imlas-36 register form equal to its row's (R448 to R469). -/

namespace Sys2Proof

/-- A register offset within BAR2 (R59). -/
def wfOff (off : Nat) : Bool := off < 0x4000000

/-- The descriptor of a thread (R478). -/
def wfThread (t : Nat) : Bool := t < 16384

/-- An NVMe command: host data bytes are finite and its identifiers are in range (R236, R242). -/
def wfCmd (c : NvCmd) : Bool := c.id.fn < 1024 && c.id.qid < 65536 && c.id.cid < 65536

/-- A register form whose selector `fn[w-1:0]` is `k`. -/
def wfSel (f : Rg) (w k : Nat) : Bool := wfThread f.t && f.fn.toNat % 2 ^ w == k

/-- A B-space form whose register-form code is `k` (R460). -/
def wfBs (f : Bs) (k : Nat) : Bool :=
  match f with
  | .imm g => wfThread g.t
  | .reg g => wfSel g 4 k

/-- Whether a term is a command. -/
def WellFormed (i : Instr) : Bool :=
  match i with
  | .registerWrite a => wfOff a.off
  | .pairLoRead _ r => wfOff r.off
  | .rsqClearWrite _ off _ | .rwbWrite _ off _ => wfOff off
  | .rwbBoundaryApply b => wfOff b
  | .rwgFirstWrite _ off _ | .rwgComplementWrite _ off _ => wfOff off
  | .rwgGuardTimeout _ => true
  | .xregAccessComplete a => wfOff a.off
  | .xregReadTimeout _ off | .xregWriteDropped _ off => wfOff off
  | .controllerReset | .deviceReset | .refclkSysLoss _ => true
  | .islandTimeCorrection i _ => i < 178
  | .ptmExchange _ | .ptmLost | .pwrOkRise _ | .pwrOkFall _ | .perstNAssert | .perstNDeassert
  | .etchFenceRaise _ | .etchFenceLower | .startStageEnd _ _ => true
  | .channelBackgroundTrainEnd e => e.chan < 128
  | .eyeSample ch m p d => ch < 128 && m ≤ 255 && p < 32 && d < 16
  | .retrainStart ch | .retrainEnd ch _ | .pintestDue ch => ch < 128
  | .pintestEnd ch _ _ _ => ch < 128
  | .wpgStuck g => g < 8
  | .dieStatusTimeout ch d | .dieResetTimeout ch d | .mediaHoldExpiry ch d => ch < 128 && d < 16
  | .mediaTransactionEnd ch l => ch < 128 && l.all (fun r => decide (r.die < 16) && decide (r.tag < 2048))
  | .pageReadDone r => r.die < 2048 && r.block < 16384 && r.page < 8192 && r.cw < 4
  | .stippleDramRead ch _ _ _ => ch < 8
  | .lineRemapCopyDone (.dram ch _) => ch < 8
  | .lineRemapCopyDone (.sram g _ _) => g < 240
  | .stipplePatrolRead d b p _ _ => d < 2048 && b < 16384 && p < 8192
  | .patrolPositionSave => true
  | .mapPageLoaded _ l _ => l < 2
  | .mapPrefetch | .meadowRecompute | .gleanerDispatch | .fallowSweep | .destageStart => true
  | .pageProgramDone _ _ _ => true
  | .eraseBegin d b | .blockEraseDone d b _ => d < 2048 && b < 16384
  | .healthCountersCommit => true
  | .etchDataAck _ | .journalCommit | .journalHoldRelease | .admissionResume _ => true
  | .completionPost f _ => f < 1024
  | .rootCheckpoint | .rootCheckpointDone | .journalMirrorCopy | .settingsUpdateStart | .settingsCommit => true
  | .anchorProgrammed n => n ≤ 4
  | .etchDieLost d => d < 2
  | .etchLineUe _ => true
  | .doorbellWrite f q _ _ _ _ _ => f < 1024 && q < 65536
  | .commandFetch f | .ccEnSet f | .ccEnClear f | .shutdownRequest f | .shutdownComplete f
  | .functionLevelReset f => f < 1024
  | .pcieHotReset p => p < 4
  | .nvmSubsystemReset => true
  | .createIoSq c | .createIoCq c | .deleteIoSq c | .deleteIoCq c | .getLogPage c | .identify c | .abort c
  | .setFeatures c | .getFeatures c | .asyncEventRequest c | .namespaceManagement c | .namespaceAttachment c
  | .firmwareImageDownload c | .firmwareCommit c _ | .virtualizationManagement c | .formatNvm c | .sanitize c
  | .flush c | .write c | .read c | .compare c | .writeZeroes c | .datasetManagement c | .verify c
  | .reservationRegister c | .reservationReport c | .reservationAcquire c | .reservationRelease c => wfCmd c
  | .powerStateEntry | .smbusBasicStatus | .smbusVendorSerial => true
  | .programLoad c | .programUnload c | .channelCreate c | .channelDestroy c => wfCmd c
  | .destroyComplete s => s < 16384
  | .tenantConfigure c | .keyImport c | .jobSubmit c _ _ _ | .streamAppend c => wfCmd c
  | .appendRegionAssign _ => true
  | .query c _ _ _ | .channelDrain c => wfCmd c
  | .drainComplete _ | .jobEnter _ | .stageBegin _ _ | .stageEnd _ _ _ | .engineUnitFailure _ _ _ => true
  | .lanePieceStart l | .lanePieceEnd l _ => l < 9
  | .codecPreempt _ _ | .codecResume _ _ => true
  | .camInvalidate _ i | .camWrite _ i | .camValidate _ i | .camRead _ i | .camPairedWrite _ i => i < 131072
  | .camStepApply _ => true
  | .camLookup k _ => k.tenant < 2048
  | .camArrayCheck b _ _ => b < 8
  | .matchRound _ _ => true
  | .drbgReseed _ => true
  | .burinUnitStall g u => g < 8 && u < 9
  | .cipherRequest g _ => g < 8
  | .digestStart _ _ _ | .digestDataWrite _ _ | .digestFinish _ _ | .digestAbandon _ | .digestDone _ _ => true
  | .resultEarlyRead _ k => k < 16
  | .digestPreempt | .digestRestore _ | .engineSlotBoundary | .engineFrameBoundary => true
  | .arbiterDecision a c l => a < 36 && (c == 0 || (c == 1 && a < 8)) && l.all (fun r => decide (r.tenant < 2048))
  | .emergencyRevoke a | .emergencyEnd a => a < 36
  | .refreshDue c r _ => c < 8 && r < 2
  | .dramRequestAge c | .rhWindowEnd c => c < 8
  | .windowBoundaryReport g i _ => g < 16 && i < 178
  | .windowLatch g | .latchLate g => g < 16
  | .sensorRound rs _ => rs.length == 64
  | .throttleGraceExpiry | .thermalHistoryCommit | .cascadeStartEnd _ | .tcbFrameSend _ _ _ => true
  | .alarm s _ | .sync s | .syncFollow s _ | .role s _ | .announce s _ | .link s _ | .ready s _ => s < 8
  | .syncSend | .syncLost => true
  | .memberLost p => p < 8
  | .flitReceived l _ | .tabferRetrainEnd l _ | .tabferTrainTimeout l => l < 4
  | .rmtRead _ p | .rmtWrite _ p | .rmtGuardedWrite _ p => p < 8
  | .rmtAnswer _ | .rmtTimeout => true
  | .descRead _ i | .descCreate _ i | .descKill _ i | .descSetPrio _ i => i < 16384
  | .sliceExpiry c | .coreFailure c | .interruptTaken c _ => c < 64
  | .threadWake d | .threadBlock d | .threadUnblock d => wfThread d
  | .timeLimit _ => true
  | .imAdd f => wfSel f 6 0x00
  | .imSub f => wfSel f 6 0x01
  | .imAdc f => wfSel f 6 0x02
  | .imSbc f => wfSel f 6 0x03
  | .imAnd f => wfSel f 6 0x04
  | .imOr f => wfSel f 6 0x05
  | .imXor f => wfSel f 6 0x06
  | .imAndn f => wfSel f 6 0x07
  | .imShl f => wfSel f 6 0x08
  | .imShr f => wfSel f 6 0x09
  | .imSar f => wfSel f 6 0x0A
  | .imRor f => wfSel f 6 0x0B
  | .imMul f => wfSel f 6 0x0C
  | .imMulhu f => wfSel f 6 0x0D
  | .imMulhs f => wfSel f 6 0x0E
  | .imDivu f => wfSel f 6 0x0F
  | .imDivs f => wfSel f 6 0x10
  | .imRemu f => wfSel f 6 0x11
  | .imRems f => wfSel f 6 0x12
  | .imMins f => wfSel f 6 0x13
  | .imMaxs f => wfSel f 6 0x14
  | .imMinu f => wfSel f 6 0x15
  | .imMaxu f => wfSel f 6 0x16
  | .imMov f => wfSel f 6 0x17
  | .imClz f => wfSel f 6 0x18
  | .imPopc f => wfSel f 6 0x19
  | .imBswap f => wfSel f 6 0x1A
  | .imAddi f | .imAndi f | .imOri f | .imXori f | .imShli f | .imShri f | .imSari f | .imLui f | .imCmpi f
  | .imQseti f | .imMuli f => wfThread f.t
  | .imFadd f => wfSel f 5 0x00
  | .imFsub f => wfSel f 5 0x01
  | .imFmul f => wfSel f 5 0x02
  | .imFdiv f => wfSel f 5 0x03
  | .imFmin f => wfSel f 5 0x04
  | .imFmax f => wfSel f 5 0x05
  | .imFcmp f => wfSel f 5 0x06
  | .imFcvtis f => wfSel f 5 0x07
  | .imFcvtiu f => wfSel f 5 0x08
  | .imFcvtsi f => wfSel f 5 0x09
  | .imFabs f => wfSel f 5 0x0A
  | .imFneg f => wfSel f 5 0x0B
  | .imFsqrt f => wfSel f 5 0x0C
  | .imQget f => wfSel f 3 0
  | .imQset f => wfSel f 3 1
  | .imQdrv f => wfSel f 3 2
  | .imQmax f => wfSel f 3 3
  | .imQcls f => wfSel f 3 4
  | .imMfs f => wfSel f 11 0
  | .imMts f => wfSel f 11 1
  | .imLdw f _ | .imStw f => wfThread f.t
  | .imLdwx f _ | .imStwx f | .imCasw f _ => wfThread f.t
  | .imLb f _ => wfBs f 0x0
  | .imLbs f _ => wfBs f 0x1
  | .imLh f _ => wfBs f 0x2
  | .imLhs f _ => wfBs f 0x3
  | .imL4 f _ => wfBs f 0x4
  | .imLq f _ => wfBs f 0x5
  | .imSb f => wfBs f 0x8
  | .imSh f => wfBs f 0xA
  | .imS4 f => wfBs f 0xC
  | .imSq f => wfBs f 0xD
  | .imBr f | .imCall f => wfThread f.t
  | .imJr f | .imCallr f | .imRet f _ | .imPush f | .imPop f _ => wfThread f.t
  | .imBmov f _ => wfSel f 4 0
  | .imBfill f _ => wfSel f 4 1
  | .imBscan f _ => wfSel f 4 2
  | .imBcmp f _ => wfSel f 4 3
  | .imWmov f _ => wfSel f 4 4
  | .imQunpk f _ => wfSel f 4 5
  | .imQpack f _ => wfSel f 4 6
  | .imBcrc f _ => wfSel f 4 7
  | .imBdgst f _ => wfSel f 4 8
  | .imSrch f _ _ | .imSupd f _ => wfThread f.t
  | .imDgStart f => wfSel f 3 1
  | .imDgUpdate f => wfSel f 3 2
  | .imDgFinish f => wfSel f 3 3
  | .imDgAbandon f => wfSel f 3 4
  | .imDgResult f => wfSel f 3 5
  | .imDgExpect f => wfSel f 3 6
  | .imDgStatus f => wfSel f 3 7
  | .imNop f => wfSel f 4 0x0
  | .imYield f => wfSel f 4 0x1
  | .imWait f => wfSel f 4 0x2
  | .imSpawn f => wfSel f 4 0x3
  | .imFtake f => wfSel f 4 0x4
  | .imFrel f => wfSel f 4 0x5
  | .imFence f => wfSel f 4 0x6
  | .imTime f => wfSel f 4 0x7
  | .imTrap f => wfSel f 4 0x8
  | .imEret f _ _ => wfSel f 4 0x9
  | .imHalt f => wfSel f 4 0xA
  | .imEnd f => wfSel f 4 0xB
  | .tabferLinkTrained l _ p q _ _ => l < 4 && p < 8 && q < 4
  | .tabferLossOfLock l => l < 4
  | .keeperWatchdog => true
  | .debugHalt d => wfThread d
  | .dieTemperatureRead ch d _ => ch < 128 && d < 16
  | .sanitizeComplete | .aonTimebaseLoss | .vaonRamp | .ps4ExitMediaBringUp _ => true

end Sys2Proof
end

