-- ==== Sys2Proof/Decode.lean ====
section
/-! DEFINITION. Decoding. The operation table gives no row any bits, so `decodeTableWord` answers none. The Imlas-36
rows have words of their own (R448, R449): `imDecode` reads one, none for a reserved op or a reserved selector, and
`imEncode` writes one. A non-zero field that an instruction does not use still decodes to its row, whose meaning raises
Illegal Instruction. -/

namespace Sys2Proof

/-- The command that a word spells by the table's bits: the table gives no row bits, so none. -/
def decodeTableWord (_nbits _w : Nat) : Option Instr := none

/-- The op of an instruction word, [31:26] (R448). -/
def imOp (w : W36) : BitVec 6 := w.extractLsb' 26 6

/-- The register form of a word (R448). -/
def imRg (t : Nat) (w : W36) : Rg :=
  { t := t, cond := w.extractLsb' 32 4, rd := w.extractLsb' 21 5, ra := w.extractLsb' 16 5, rb := w.extractLsb' 11 5,
    fn := w.extractLsb' 0 11 }

/-- The immediate form of a word (R448). -/
def imIm (t : Nat) (w : W36) : Im :=
  { t := t, cond := w.extractLsb' 32 4, rd := w.extractLsb' 21 5, ra := w.extractLsb' 16 5, imm := w.extractLsb' 0 16 }

/-- The branch form of a word (R448). -/
def imBrf (t : Nat) (w : W36) : Br := { t := t, cond := w.extractLsb' 32 4, off := w.extractLsb' 0 26 }

/-- Op 00h, by fn[5:0] (R452). -/
def aluOf (f : Rg) : Option Instr :=
  match f.fn.toNat % 2 ^ 6 with
  | 0x00 => some (.imAdd f) | 0x01 => some (.imSub f) | 0x02 => some (.imAdc f) | 0x03 => some (.imSbc f)
  | 0x04 => some (.imAnd f) | 0x05 => some (.imOr f) | 0x06 => some (.imXor f) | 0x07 => some (.imAndn f)
  | 0x08 => some (.imShl f) | 0x09 => some (.imShr f) | 0x0A => some (.imSar f) | 0x0B => some (.imRor f)
  | 0x0C => some (.imMul f) | 0x0D => some (.imMulhu f) | 0x0E => some (.imMulhs f) | 0x0F => some (.imDivu f)
  | 0x10 => some (.imDivs f) | 0x11 => some (.imRemu f) | 0x12 => some (.imRems f) | 0x13 => some (.imMins f)
  | 0x14 => some (.imMaxs f) | 0x15 => some (.imMinu f) | 0x16 => some (.imMaxu f) | 0x17 => some (.imMov f)
  | 0x18 => some (.imClz f) | 0x19 => some (.imPopc f) | 0x1A => some (.imBswap f) | _ => none

/-- Op 01h, by fn[4:0] (R455). -/
def fpOf (f : Rg) : Option Instr :=
  match f.fn.toNat % 2 ^ 5 with
  | 0x00 => some (.imFadd f) | 0x01 => some (.imFsub f) | 0x02 => some (.imFmul f) | 0x03 => some (.imFdiv f)
  | 0x04 => some (.imFmin f) | 0x05 => some (.imFmax f) | 0x06 => some (.imFcmp f) | 0x07 => some (.imFcvtis f)
  | 0x08 => some (.imFcvtiu f) | 0x09 => some (.imFcvtsi f) | 0x0A => some (.imFabs f) | 0x0B => some (.imFneg f)
  | 0x0C => some (.imFsqrt f) | _ => none

/-- Op 02h, by fn[2:0] (R456). -/
def qualOf (f : Rg) : Option Instr :=
  match f.fn.toNat % 2 ^ 3 with
  | 0 => some (.imQget f) | 1 => some (.imQset f) | 2 => some (.imQdrv f) | 3 => some (.imQmax f)
  | 4 => some (.imQcls f) | _ => none

/-- Op 03h (R457). -/
def specOf (f : Rg) : Option Instr :=
  match f.fn.toNat % 2 ^ 11 with
  | 0 => some (.imMfs f) | 1 => some (.imMts f) | _ => none

/-- Op 1Fh, by fn[3:0] (R460). -/
def bRegOf (f : Rg) : Option Instr :=
  match f.fn.toNat % 2 ^ 4 with
  | 0x0 => some (.imLb (.reg f) false) | 0x1 => some (.imLbs (.reg f) false) | 0x2 => some (.imLh (.reg f) false)
  | 0x3 => some (.imLhs (.reg f) false) | 0x4 => some (.imL4 (.reg f) false) | 0x5 => some (.imLq (.reg f) false)
  | 0x8 => some (.imSb (.reg f)) | 0xA => some (.imSh (.reg f)) | 0xC => some (.imS4 (.reg f))
  | 0xD => some (.imSq (.reg f)) | _ => none

/-- Op 30h, by fn[3:0] (R463), for a run without an interruption. -/
def stringOf (f : Rg) : Option Instr :=
  match f.fn.toNat % 2 ^ 4 with
  | 0 => some (.imBmov f {}) | 1 => some (.imBfill f {}) | 2 => some (.imBscan f {}) | 3 => some (.imBcmp f {})
  | 4 => some (.imWmov f {}) | 5 => some (.imQunpk f {}) | 6 => some (.imQpack f {}) | 7 => some (.imBcrc f {})
  | 8 => some (.imBdgst f {}) | _ => none

/-- Op 3Ah, by fn[2:0] (R468). -/
def dgOf (f : Rg) : Option Instr :=
  match f.fn.toNat % 2 ^ 3 with
  | 1 => some (.imDgStart f) | 2 => some (.imDgUpdate f) | 3 => some (.imDgFinish f) | 4 => some (.imDgAbandon f)
  | 5 => some (.imDgResult f) | 6 => some (.imDgExpect f) | 7 => some (.imDgStatus f) | _ => none

/-- Op 3Ch, by fn[3:0] (R469). -/
def sysOf (f : Rg) : Option Instr :=
  match f.fn.toNat % 2 ^ 4 with
  | 0x0 => some (.imNop f) | 0x1 => some (.imYield f) | 0x2 => some (.imWait f) | 0x3 => some (.imSpawn f)
  | 0x4 => some (.imFtake f) | 0x5 => some (.imFrel f) | 0x6 => some (.imFence f) | 0x7 => some (.imTime f)
  | 0x8 => some (.imTrap f) | 0x9 => some (.imEret f false false) | 0xA => some (.imHalt f) | 0xB => some (.imEnd f)
  | _ => none

/-- The row of an Imlas-36 word issued by thread `t` (R449); none where the op or the selector is reserved. Operands
that are findings (an uncorrectable read, an interruption) are given their plain values. -/
def imDecode (t : Nat) (w : W36) : Option Instr :=
  match (imOp w).toNat with
  | 0x00 => aluOf (imRg t w)
  | 0x01 => fpOf (imRg t w)
  | 0x02 => qualOf (imRg t w)
  | 0x03 => specOf (imRg t w)
  | 0x04 => some (.imAddi (imIm t w))
  | 0x05 => some (.imAndi (imIm t w))
  | 0x06 => some (.imOri (imIm t w))
  | 0x07 => some (.imXori (imIm t w))
  | 0x08 => some (.imShli (imIm t w))
  | 0x09 => some (.imShri (imIm t w))
  | 0x0A => some (.imSari (imIm t w))
  | 0x0B => some (.imLui (imIm t w))
  | 0x0C => some (.imCmpi (imIm t w))
  | 0x0D => some (.imQseti (imIm t w))
  | 0x0E => some (.imMuli (imIm t w))
  | 0x10 => some (.imLdw (imIm t w) false)
  | 0x11 => some (.imStw (imIm t w))
  | 0x12 => some (.imLdwx (imRg t w) false)
  | 0x13 => some (.imStwx (imRg t w))
  | 0x14 => some (.imCasw (imRg t w) false)
  | 0x15 => some (.imLb (.imm (imIm t w)) false)
  | 0x16 => some (.imLbs (.imm (imIm t w)) false)
  | 0x17 => some (.imLh (.imm (imIm t w)) false)
  | 0x18 => some (.imLhs (.imm (imIm t w)) false)
  | 0x19 => some (.imL4 (.imm (imIm t w)) false)
  | 0x1A => some (.imLq (.imm (imIm t w)) false)
  | 0x1B => some (.imSb (.imm (imIm t w)))
  | 0x1C => some (.imSh (.imm (imIm t w)))
  | 0x1D => some (.imS4 (.imm (imIm t w)))
  | 0x1E => some (.imSq (.imm (imIm t w)))
  | 0x1F => bRegOf (imRg t w)
  | 0x20 => some (.imBr (imBrf t w))
  | 0x21 => some (.imCall (imBrf t w))
  | 0x22 => some (.imJr (imRg t w))
  | 0x23 => some (.imCallr (imRg t w))
  | 0x24 => some (.imRet (imRg t w) false)
  | 0x25 => some (.imPush (imRg t w))
  | 0x26 => some (.imPop (imRg t w) false)
  | 0x30 => stringOf (imRg t w)
  | 0x38 => some (.imSrch (imRg t w) { upsets := [], badWords := [], dead := [] } false)
  | 0x39 => some (.imSupd (imRg t w) false)
  | 0x3A => dgOf (imRg t w)
  | 0x3C => sysOf (imRg t w)
  | _ => none

/-! ### The encoder -/

/-- A register form with its op (R448). -/
def encRg (op : BitVec 6) (f : Rg) : W36 := f.cond ++ op ++ f.rd ++ f.ra ++ f.rb ++ f.fn

/-- An immediate form with its op (R448). -/
def encIm (op : BitVec 6) (f : Im) : W36 := f.cond ++ op ++ f.rd ++ f.ra ++ f.imm

/-- A branch form with its op (R448). -/
def encBr (op : BitVec 6) (f : Br) : W36 := f.cond ++ op ++ f.off

/-- A B-space form: its own op, or op 1Fh (R449, R460). -/
def encBs (op : BitVec 6) (f : Bs) : W36 :=
  match f with
  | .imm g => encIm op g
  | .reg g => encRg 0x1F g

/-- The word of an Imlas-36 row; none for any other command. -/
def imEncode (i : Instr) : Option W36 :=
  match i with
  | .imAdd f | .imSub f | .imAdc f | .imSbc f | .imAnd f | .imOr f | .imXor f | .imAndn f | .imShl f | .imShr f
  | .imSar f | .imRor f | .imMul f | .imMulhu f | .imMulhs f | .imDivu f | .imDivs f | .imRemu f | .imRems f
  | .imMins f | .imMaxs f | .imMinu f | .imMaxu f | .imMov f | .imClz f | .imPopc f | .imBswap f => some (encRg 0x00 f)
  | .imFadd f | .imFsub f | .imFmul f | .imFdiv f | .imFmin f | .imFmax f | .imFcmp f | .imFcvtis f | .imFcvtiu f
  | .imFcvtsi f | .imFabs f | .imFneg f | .imFsqrt f => some (encRg 0x01 f)
  | .imQget f | .imQset f | .imQdrv f | .imQmax f | .imQcls f => some (encRg 0x02 f)
  | .imMfs f | .imMts f => some (encRg 0x03 f)
  | .imAddi f => some (encIm 0x04 f)
  | .imAndi f => some (encIm 0x05 f)
  | .imOri f => some (encIm 0x06 f)
  | .imXori f => some (encIm 0x07 f)
  | .imShli f => some (encIm 0x08 f)
  | .imShri f => some (encIm 0x09 f)
  | .imSari f => some (encIm 0x0A f)
  | .imLui f => some (encIm 0x0B f)
  | .imCmpi f => some (encIm 0x0C f)
  | .imQseti f => some (encIm 0x0D f)
  | .imMuli f => some (encIm 0x0E f)
  | .imLdw f _ => some (encIm 0x10 f)
  | .imStw f => some (encIm 0x11 f)
  | .imLdwx f _ => some (encRg 0x12 f)
  | .imStwx f => some (encRg 0x13 f)
  | .imCasw f _ => some (encRg 0x14 f)
  | .imLb f _ => some (encBs 0x15 f)
  | .imLbs f _ => some (encBs 0x16 f)
  | .imLh f _ => some (encBs 0x17 f)
  | .imLhs f _ => some (encBs 0x18 f)
  | .imL4 f _ => some (encBs 0x19 f)
  | .imLq f _ => some (encBs 0x1A f)
  | .imSb f => some (encBs 0x1B f)
  | .imSh f => some (encBs 0x1C f)
  | .imS4 f => some (encBs 0x1D f)
  | .imSq f => some (encBs 0x1E f)
  | .imBr f => some (encBr 0x20 f)
  | .imCall f => some (encBr 0x21 f)
  | .imJr f => some (encRg 0x22 f)
  | .imCallr f => some (encRg 0x23 f)
  | .imRet f _ => some (encRg 0x24 f)
  | .imPush f => some (encRg 0x25 f)
  | .imPop f _ => some (encRg 0x26 f)
  | .imBmov f _ | .imBfill f _ | .imBscan f _ | .imBcmp f _ | .imWmov f _ | .imQunpk f _ | .imQpack f _
  | .imBcrc f _ | .imBdgst f _ => some (encRg 0x30 f)
  | .imSrch f _ _ => some (encRg 0x38 f)
  | .imSupd f _ => some (encRg 0x39 f)
  | .imDgStart f | .imDgUpdate f | .imDgFinish f | .imDgAbandon f | .imDgResult f | .imDgExpect f
  | .imDgStatus f => some (encRg 0x3A f)
  | .imNop f | .imYield f | .imWait f | .imSpawn f | .imFtake f | .imFrel f | .imFence f | .imTime f | .imTrap f
  | .imEret f _ _ | .imHalt f | .imEnd f => some (encRg 0x3C f)
  | _ => none

end Sys2Proof
end

