-- ==== Sys2Proof/Machine/Bits.lean ====
section
/-! DEFINITION. Bit fields, byte order, signed readings and the cyclic checks of the manual. Numbers are Nat or Int;
a field of a register is a Nat. -/

namespace Sys2Proof.Machine

/-- The field of `w` bits from bit `lo` of a number. -/
def natFld (n lo w : Nat) : Nat := (n >>> lo) % 2 ^ w

/-- The field of `w` bits from bit `lo` of a dword. -/
def fld (v : Dword) (lo w : Nat) : Nat := natFld v.toNat lo w

/-- One bit of a dword. -/
def bitOf (v : Dword) (i : Nat) : Bool := fld v i 1 == 1

/-- A Bool as a bit. -/
def bitNat (b : Bool) : Nat := if b then 1 else 0

/-- A field placed at bit `lo`, cut to `w` bits. -/
def place (n lo w : Nat) : Nat := (n % 2 ^ w) <<< lo

/-- A dword from the sum of its fields. -/
def dwordOf (n : Nat) : Dword := BitVec.ofNat 32 n

/-- A number of `w` bits read as two's complement. -/
def signedOf (w n : Nat) : Int := if n % 2 ^ w < 2 ^ (w - 1) then (n % 2 ^ w : Nat) else ((n % 2 ^ w : Nat) : Int) - 2 ^ w

/-- A signed number as `w` bits in two's complement. -/
def bitsOf (w : Nat) (i : Int) : Nat := (i % (2 ^ w : Int)).toNat

/-- A number held within bounds, as a field that is "applied within lo to hi". -/
def within (lo hi n : Nat) : Nat := if n < lo then lo else if hi < n then hi else n

/-- Little-endian bytes (R7). -/
def leBytes (n : Nat) : Nat → List Byte
  | 0 => []
  | k + 1 => BitVec.ofNat 8 n :: leBytes (n >>> 8) k

/-- The number that little-endian bytes hold (R7). -/
def leNat : List Byte → Nat
  | [] => 0
  | b :: bs => b.toNat + 256 * leNat bs

/-- The number that big-endian bytes hold. -/
def beNat (bs : List Byte) : Nat := bs.foldl (fun a b => a * 256 + b.toNat) 0

/-- Big-endian bytes. -/
def beBytes (n k : Nat) : List Byte := (leBytes n k).reverse

/-- `n` zero bytes. -/
def zeros (n : Nat) : List Byte := List.replicate n 0

/-- The first `n` bytes, filled up with zeros. -/
def padTo (n : Nat) (bs : List Byte) : List Byte := (bs ++ zeros (n - bs.length)).take n

/-- `n` bytes of a list from offset `a`, filled up with zeros. -/
def sliceOf (bs : List Byte) (a n : Nat) : List Byte := padTo n ((bs.drop a).take n)

/-- The field of `n` little-endian bytes at offset `a`. -/
def leAt (bs : List Byte) (a n : Nat) : Nat := leNat ((bs.drop a).take n)

/-- A list with the bytes at offset `a` replaced by `new`. -/
def overlayAt (bs : List Byte) (a : Nat) (new : List Byte) : List Byte :=
  bs.take a ++ new ++ bs.drop (a + new.length)

/-- A list cut into pieces of `n` elements; the fuel is a bound on their number. -/
def chunksAux {α : Type} (n : Nat) : Nat → List α → List (List α)
  | 0, _ => []
  | k + 1, l => if l.isEmpty then [] else l.take n :: chunksAux n k (l.drop n)

/-- A list cut into pieces of `n` elements. -/
def chunks {α : Type} (n : Nat) (l : List α) : List (List α) := chunksAux n l.length l

/-- Rounded-up quotient. -/
def ceilDiv (a b : Nat) : Nat := if b = 0 then 0 else (a + b - 1) / b

/-- At-or-before on sequence numbers modulo 256 (R12). -/
def atOrBefore (s n : BitVec 8) : Bool := (n - s).toNat < 128

/-- The number of one bits among the low `w` bits. -/
def popCount (n : Nat) : Nat → Nat
  | 0 => 0
  | w + 1 => popCount n w + (if n.testBit w then 1 else 0)

/-- Insertion into a sorted list of integers. -/
def insertInt (x : Int) : List Int → List Int
  | [] => [x]
  | y :: ys => if x ≤ y then x :: y :: ys else y :: insertInt x ys

/-- A list of integers sorted. -/
def sortInts (l : List Int) : List Int := l.foldr insertInt []

/-- Insertion into a sorted list of numbers with no repeats. -/
def insertNat (x : Nat) : List Nat → List Nat
  | [] => [x]
  | y :: ys => if x < y then x :: y :: ys else if x = y then y :: ys else y :: insertNat x ys

/-- A set of numbers as a sorted list. -/
def setOfNats (l : List Nat) : List Nat := l.foldr insertNat []

/-- One shift of a reflected CRC register with polynomial `poly`. -/
def crcStep (poly : Nat) (r : Nat) : Nat := if r % 2 = 1 then (r >>> 1) ^^^ poly else r >>> 1

/-- Eight shifts for a byte that has been added in. -/
def crcByte (poly r : Nat) (b : Byte) : Nat :=
  let x := r ^^^ b.toNat
  crcStep poly (crcStep poly (crcStep poly (crcStep poly (crcStep poly (crcStep poly (crcStep poly (crcStep poly x)))))))

/-- CRC-32C (Castagnoli) over bytes from a running register (no final inversion). -/
def crc32cRun (r : Nat) (bs : List Byte) : Nat := bs.foldl (crcByte 0x82F63B78) r

/-- CRC-32C of bytes. -/
def crc32c (bs : List Byte) : Nat := crc32cRun 0xFFFFFFFF bs ^^^ 0xFFFFFFFF

/-- The CRC-32 of gzip (RFC 1952). -/
def crc32 (bs : List Byte) : Nat := bs.foldl (crcByte 0xEDB88320) 0xFFFFFFFF ^^^ 0xFFFFFFFF

end Sys2Proof.Machine
end

