-- ==== Sys2Proof/Machine/Quality.lean ====
section
/-! DEFINITION. The qualified sample (R316 to R318): its quality code, class and five-byte form, and the order of
values in their type. -/

namespace Sys2Proof.Machine

/-- The value and the quality code of a word (R316). -/
def wVal (w : W36) : Dword := w.extractLsb' 0 32
def wQ (w : W36) : Nat := (w.extractLsb' 32 4).toNat

/-- A word from a quality code and a value. -/
def mkW (q : Nat) (v : Dword) : W36 := BitVec.ofNat 36 (q % 16 * 2 ^ 32 + v.toNat)

/-- The class of a quality code: 0 good, 1 uncertain, 2 bad, 3 absent (R316). -/
def qClass (q : Nat) : Nat := q % 16 / 4

/-- The derived code of a class: 2h good, 7h uncertain, Bh bad; an absent code stays (R456). -/
def qDerived (q : Nat) : Nat := if qClass q = 0 then 2 else if qClass q = 1 then 7 else if qClass q = 2 then 11 else q

/-- A qualified sample in five bytes (R318). -/
def sampleBytes (w : W36) : List Byte := leBytes (wVal w).toNat 4 ++ [BitVec.ofNat 8 (wQ w)]

/-- The sample of five bytes; bits [7:4] of byte 4 are ignored (R318). -/
def sampleOf (bs : List Byte) : W36 := mkW ((bs[4]?).getD 0).toNat (dwordOf (leNat (bs.take 4)))

/-- Value types (R317): 0 i32, 1 u32, 2 f32. -/
abbrev VType := Nat

/-- Whether an f32 pattern is a NaN. -/
def isNan (v : Dword) : Bool := 0x7F800000 < v.toNat % 2 ^ 31

/-- A number that orders values of a type; −0.0 and +0.0 are equal. -/
def valKey (t : VType) (v : Dword) : Int :=
  if t = 0 then v.toInt
  else if t = 1 then (v.toNat : Int)
  else if v.toNat < 2 ^ 31 then (v.toNat : Int) else -((v.toNat - 2 ^ 31 : Nat) : Int)

end Sys2Proof.Machine
end

