-- ==== Sys2Proof/Machine/Flags.lean ====
section
/-! DEFINITION. FL, conditions and the flag rules of Imlas-36 (R438, R439, R450, R451). -/

namespace Sys2Proof.Machine

/-- The flags of FL (R438). -/
def flZ (fl : W36) : Bool := fl.getLsbD 0
def flN (fl : W36) : Bool := fl.getLsbD 1
def flC (fl : W36) : Bool := fl.getLsbD 2
def flV (fl : W36) : Bool := fl.getLsbD 3
def flQG (fl : W36) : Bool := fl.getLsbD 4

/-- FL with bits [4:0] replaced. -/
def setFl (fl : W36) (z n c v qg : Bool) : W36 :=
  (fl &&& ~~~(0x1F : W36)) |||
    BitVec.ofNat 36 (bitNat z + 2 * bitNat n + 4 * bitNat c + 8 * bitNat v + 16 * bitNat qg)

/-- FL with Z alone replaced. -/
def setZ (fl : W36) (z : Bool) : W36 := setFl fl z (flN fl) (flC fl) (flV fl) (flQG fl)

/-- Whether QM accepts a quality code (R439). -/
def accepts (qm : W36) (q : Nat) : Bool := qm.getLsbD (qClass q)

/-- The flags from a result value and its quality, with C and V of the instruction's own rule; none leaves one unchanged
(R451). -/
def resultFlags (fl qm : W36) (v : Dword) (q : Nat) (c o : Option Bool) : W36 :=
  setFl fl (v == 0) (v.getLsbD 31) (c.getD (flC fl)) (o.getD (flV fl)) (accepts qm q)

/-- Whether a condition holds (R450). -/
def condTrue (fl : W36) (cond : BitVec 4) : Bool :=
  match cond.toNat with
  | 0x0 => true
  | 0x1 => flZ fl
  | 0x2 => !flZ fl
  | 0x3 => flC fl
  | 0x4 => !flC fl
  | 0x5 => flN fl
  | 0x6 => !flN fl
  | 0x7 => flV fl
  | 0x8 => !flV fl
  | 0x9 => flC fl && !flZ fl
  | 0xA => !flC fl || flZ fl
  | 0xB => flN fl == flV fl
  | 0xC => flN fl != flV fl
  | 0xD => !flZ fl && flN fl == flV fl
  | 0xE => flZ fl || flN fl != flV fl
  | _ => flQG fl

end Sys2Proof.Machine
end

