-- ==== Sys2Proof/Config.lean ====
section
/-! DEFINITION. What one part, its image and its board fix, and the values the manual leaves open. An opaque constant
has no body: nothing can be proved of its value, so a statement holds whatever it is. -/

namespace Sys2Proof.Config

/-- FREE VALUE (log 3): the n-th value the manual calls undefined or does not state. -/
opaque freeValue : Nat → BitVec 64

/-- FREE VALUE (log 3): the n-th draw from the CTR_DRBG of R406 (R287, R616, R412). -/
opaque drbg : Nat → BitVec 256

/-- FREE VALUE (log 8): whether a PWR_OK low pulse of more than 1 µs and less than 10 µs resets the device (R597). -/
opaque pulseResets : Nat → Bool

/-- FREE VALUE (log 9): the RFC 1951 stream a DEFLATE compressor writes for a piece, given the history carried into
it (R362 leaves the choice of matches and codes to the device). -/
opaque deflateChoice : List (BitVec 8) → List (BitVec 8) → List (BitVec 8)

/-- FREE VALUE (log 10): the order in which the merger combines the spills of one key (R338): the n-th choice picks
which of the waiting spills comes next. -/
opaque mergeOrder : Nat → Nat

/-- FREE VALUE (log 52): the activations after which the devices of a DRAM channel require refresh management, none where
their mode registers do not (R538). -/
opaque rfmThreshold : Nat → Option Nat

/-- FREE VALUE (log 121): the values that the n-th training of a die reaches (R103). -/
opaque trained : Nat → BitVec 192

/-- FREE VALUE (log 123): the sequence of the whitening LFSR (R125), by the place that seeds it and the byte of the page. -/
opaque whiteSequence : Nat → Nat → BitVec 8

/-- FREE VALUE (log 123): the parity bytes of a code profile for an information part (R127 gives their number alone). -/
opaque pageParity : Nat → List (BitVec 8) → Nat → BitVec 8

/-- FREE VALUE (log 132): the bytes of a structure in the Etch buffer or on flash whose layout is not given: of a kind (0 to 0Dh a
section of the settings store, 80h swath records), of the SEQ of what holds it, and by their place. -/
opaque layoutByte : Nat → Nat → Nat → BitVec 8

/-- FREE VALUE (log 6): the private part of the device key pair on P-256 (*Key Import*); it never leaves the keeper. -/
opaque deviceKey : Nat

/-- FREE VALUE (log 6): the manufacturing signature over GLB_SERIAL and the public key, 64 bytes (*Key Import*). -/
opaque manufacturingSignature : Nat → BitVec 8

end Sys2Proof.Config
end

