-- ==== Sys2Proof/Machine/RegMap.lean ====
section
/-! DEFINITION. The register map (R59, R65 to R70 and the register tables of every chapter): for each BAR2 offset at
which a register is defined, its access class, island, block, and the bits under each class. -/

namespace Sys2Proof.Machine

/-- The access classes of R12; `guardPlus` is the complement address X + 4 of an RWG register (R81, R82). -/
inductive RegClass where
  | ro | rw | wo | rsq | rwb | rwg | guardPlus
deriving DecidableEq, Repr

/-- One register: its class, whether it carries /X, its island (numbered 0 to 177 in the order of the island table),
the base of its block, the bits under its class, the RO bits, the reset value, whether it is restored (R70) and whether
it exists once per requester path. Bits in neither mask are KEEP (R12). -/
structure RegDesc where
  cls      : RegClass
  x        : Bool
  island   : Nat
  block    : Nat
  mask     : Nat
  ro       : Nat
  reset    : Nat
  restored : Bool
  perPath  : Bool
deriving DecidableEq, Repr

/-- A row of a block's register table: offset in the block, class, bits, RO bits, reset value. -/
structure RegRow where
  off   : Nat
  cls   : RegClass
  mask  : Nat
  ro    : Nat := 0
  reset : Nat := 0
  rest  : Bool := false
deriving DecidableEq, Repr

/-- The register of a row in the block at `block` of `island`. -/
def rowDesc (x : Bool) (island block : Nat) (perPath : Bool) (r : RegRow) : RegDesc :=
  { cls := r.cls, x := x, island := island, block := block, mask := r.mask, ro := r.ro, reset := r.reset,
    restored := r.rest, perPath := perPath }

/-- The row of a table at offset `o`. -/
def rowAt (rows : List RegRow) (o : Nat) : Option RegRow := rows.find? (fun r => r.off == o)

/-- The islands, in the order of the table of *Architecture*: media 0 to 127, page code 128 to 135, cipher 136 to 143,
lanes 144 to 152, codec, digest, search, Sward 156 to 163, DRAM 164 to 171, fabric, host, Etch, keeper, cascade,
always-on. -/
def isMedia (n : Nat) : Nat := n
def isPageCode (g : Nat) : Nat := 128 + g
def isCipher (g : Nat) : Nat := 136 + g
def isLane (l : Nat) : Nat := 144 + l
def isCodec : Nat := 153
def isDigest : Nat := 154
def isSearch : Nat := 155
def isSward (i : Nat) : Nat := 156 + i
def isDram (c : Nat) : Nat := 164 + c
def isFabric : Nat := 172
def isHost : Nat := 173
def isEtch : Nat := 174
def isKeeper : Nat := 175
def isCascade : Nat := 176
def isAlwaysOn : Nat := 177

/-- XXX_CFG_STATUS (R69). -/
def rowCfgStatus : RegRow := { off := 4, cls := .ro, mask := 0, ro := 0xFF01 }

/-- An RO register with its named bits. -/
def rowRo (o m : Nat) : RegRow := { off := o, cls := .ro, mask := 0, ro := m }

/-- A register under one class with its named bits and reset value. -/
def rowOf (c : RegClass) (o m r : Nat) : RegRow := { off := o, cls := c, mask := m, reset := r }

/-- An RSQ register with its event bits. -/
def rowRsq (o m : Nat) : RegRow := { off := o, cls := .rsq, mask := m + 0xFF000000 }

/-- *Global registers*. -/
def glbRows : List RegRow :=
  [ rowRo 0x00 0xFFFFFFFF, rowRo 0x08 0xFFFFFFFF, rowRo 0x10 0xFFFFFFFF, rowRo 0x14 0xFFFFFFFF,
    rowRo 0x18 0xFFFFFFFF, rowRo 0x1C 0x10F, rowRo 0x20 0x17, rowRo 0x30 0xFFFFFFFF, rowRo 0x34 0xFFFFFFFF,
    rowOf .rwg 0x40 0xF 0, rowOf .guardPlus 0x44 0xFFFFFFFF 0, rowRo 0x48 0x10F, rowRsq 0x50 0x1F,
    rowRo 0x54 0x33FFFFFF, rowRsq 0x58 0x3, rowRo 0x5C 0x33FFFFFF, rowRsq 0x60 0x1F, rowRo 0x64 0x33FFFFFF,
    rowOf .rw 0x70 0xFFFFFFFF 0 ]

/-- The common STW block (*Statistics windows*). -/
def stwRows : List RegRow := [ rowCfgStatus, rowRsq 0x10 0x7, rowOf .rw 0x14 0x7 0 ]

/-- The fixed registers of a statistics group. -/
def stwGroupRows : List RegRow :=
  [ rowCfgStatus, rowRo 0x000 0x3, { off := 0x008, cls := .rwb, mask := 0xFFFF, rest := true } ]

/-- The THM block. -/
def thmRows : List RegRow :=
  [ rowCfgStatus, rowRo 0x00 0x3F1FFFFF,
    { off := 0x08, cls := .rwb, mask := 0xFFFF0001, reset := 0x00C80000, rest := true },
    rowRo 0x10 0xFFFFFFFF, rowRo 0x14 0xFFFFFFFF, rowRsq 0x18 0x1F, rowOf .rw 0x1C 0x1F 0x1B ]

/-- The common ARB block. -/
def arbRows : List RegRow :=
  [ rowCfgStatus, rowRo 0x00 0x3F, rowRsq 0x10 0x3, rowOf .rw 0x14 0x3 0x1 ]

/-- The common DRC block. -/
def drcRows : List RegRow :=
  [ rowCfgStatus, rowRo 0x00 0x03FF3FFF, rowOf .rwb 0x08 0x7FFFFF 0x1007D0, rowOf .rwb 0x0C 0xF3FF 0x1040,
    rowRsq 0x10 0x1F, rowOf .rw 0x14 0x1F 0x11 ]

/-- The block of a DRAM channel. -/
def drcChanRows : List RegRow := [ rowCfgStatus, rowRo 0x00 0x07FF007F, rowRo 0x08 0x007F7FFF ]

/-- The block of a media channel. -/
def medRows : List RegRow :=
  [ rowCfgStatus, rowRo 0x00 0x001F0377, rowOf .rwb 0x08 0x00FF0107 0x003C0106,
    rowOf .rwb 0x0C 0xFFFFFFFF 0x0064141E, rowRo 0x10 0xFF0F1FFF, rowRsq 0x18 0xFF, rowOf .rw 0x1C 0xFF 0x75,
    rowRo 0x20 0x3FFF, rowRo 0x28 0xFFFFFFFF, rowRo 0x2C 0xFFFFFFFF, rowOf .rwb 0x30 0xFFFFFFFF 0x76543210,
    rowOf .rwb 0x34 0xFFFFFFFF 0xFEDCBA98, rowOf .rwb 0x38 0xFFFF 50 ]

/-- The fixed registers of the common PCS block. T1 resets to −25, 0xE7. -/
def pcsRows : List RegRow :=
  [ rowCfgStatus, rowOf .rwb 0x10 0x77777777 0x43212100, rowOf .rwb 0x14 0x77777777 0x55447654,
    rowOf .rwb 0x18 0xFFFFFF 0x4B3219, rowOf .rwb 0x20 0xFFFFFFFF 0x02D00018, rowOf .rwb 0x24 0xFFFF 8760,
    rowOf .rwb 0x28 0xFFFFFF 0x3C19E7, rowOf .rwb 0x2C 0x3FFFFFFF 0x3D11880A, rowOf .rwb 0x40 0xFFFFFFFF 0x00A80018,
    rowOf .rwb 0x44 0xFFFFFFFF 0x005A0240, rowRo 0x48 0x3FFFF, rowOf .rwb 0x4C 0xF 3, rowRsq 0x50 0x1FF,
    rowOf .rw 0x54 0x1FF 0x1F5, rowRo 0x60 0xFFFFFF03, rowRo 0x70 0x3F3F3F3F, rowRo 0x74 0x3F3F3F3F,
    rowRo 0x78 0xFFFFFF ]

/-- The block of a page-code group. -/
def pcsGroupRows : List RegRow := [ rowCfgStatus, rowRo 0x00 0x3F, rowOf .rwb 0x08 0xFF3F3F 0x042014 ]

/-- The FTL block. -/
def ftlRows : List RegRow :=
  [ rowCfgStatus, rowRo 0x00 0xFFFF0007, rowOf .rwb 0x08 0xFFFFFF 0x5F0550, rowOf .rwb 0x0C 0xFFFFFF 0x191004,
    rowOf .rwb 0x10 0xFFFFFF 0x0A00C8, rowOf .rwb 0x14 0xFFFF 0x0A4B, rowRo 0x18 0x1FF, rowOf .rwb 0x1C 0xFFFF 0x1810,
    rowRo 0x20 0x07FFFFFF, rowRo 0x24 0x33FFF, rowRo 0x28 0x0F7F03FF, rowRsq 0x30 0x7F, rowOf .rw 0x34 0x7F 0x3B ]

/-- The ETB block. CP_MS resets to 500. -/
def etbRows : List RegRow :=
  [ rowCfgStatus, rowRo 0x00 0xFFFF7F, rowOf .rwb 0x08 0xFFFF 0x505A, rowOf .rwb 0x0C 0xFFFFFFFF 0x07D0CA00,
    rowOf .rwb 0x10 0xFF 10, rowRo 0x14 0xFFFF003F, rowRo 0x18 0xFFFFFFFF, rowRo 0x1C 0xFFFFFFFF,
    rowRo 0x20 0xFFFFFFFF, rowRo 0x24 0xFFFFFFFF, rowRsq 0x30 0x1FF, rowOf .rw 0x34 0x1FF 0x1F1,
    rowRo 0x40 0x1FFFF, rowRo 0x44 0x1FFFF, rowRo 0x48 0x1FFFF, rowRo 0x4C 0x1FFFF, rowRo 0x50 0x1FFFF,
    rowRo 0x54 0x1FFFF, rowRo 0x58 0x1FFFF, rowRo 0x5C 0x1FFFF ]

/-- The HIF block. -/
def hifRows : List RegRow :=
  [ rowCfgStatus, rowOf .rwb 0x08 0xFFFF 2048, rowRo 0x0C 0xFFFFFFFF, rowRo 0x10 0xFFF, rowRo 0x14 0xFFF,
    rowRo 0x18 0xFFF, rowRo 0x1C 0xFFF, rowOf .rwb 0x20 0x1FFFF 0x10064, rowRo 0x24 0x7, rowRo 0x28 0xFFFFFFFF,
    rowRo 0x2C 0xFFFFFFFF, rowRo 0x30 0x7F, rowRsq 0x40 0x7F, rowOf .rw 0x44 0x7F 0x31 ]

/-- The CHN block. -/
def chnRows : List RegRow := [ rowCfgStatus, rowRo 0x00 0xFFFF7FFF, rowRsq 0x10 0xF, rowOf .rw 0x14 0xF 0x4 ]

/-- The common FLN block. -/
def flnRows : List RegRow :=
  [ rowCfgStatus, rowRo 0x00 0x1FFF01FF, rowOf .rwb 0x08 0x10F 0x108, rowRo 0x10 0xFF1FFFFF, rowRsq 0x18 0x1F,
    rowOf .rw 0x1C 0x1F 0x01 ]

/-- The block of a lane. -/
def flnLaneRows : List RegRow := [ rowCfgStatus, rowRo 0x00 0xFFFF7FF7, rowRo 0x08 0xFFFF000F ]

/-- The CDC block. -/
def cdcRows : List RegRow :=
  [ rowCfgStatus, rowRo 0x00 0x1FFF7F, rowOf .rwb 0x08 0xFFFFFFFF 0x40200040, rowOf .rwb 0x0C 0xFFFF 500,
    rowRo 0x10 0xFFFFFFFF, rowRsq 0x18 0xF, rowOf .rw 0x1C 0xF 0x1 ]

/-- The CAM block but for its per-path and plate registers. -/
def camRows : List RegRow :=
  [ rowCfgStatus, rowRo 0x00 0x07F7FFFF, rowOf .rwb 0x08 0xFFFF 100, rowRsq 0x10 0x3F, rowOf .rw 0x14 0x3F 0x0A,
    rowRo 0x18 0x1FFFF, rowRo 0x1C 0xFFFFFFFF ]

/-- The CAM_UPD registers (R389). -/
def camUpdRows : List RegRow :=
  [ rowOf .wo 0x20 0x1FFFFF 0, rowRo 0x24 0xF3, { off := 0x28, cls := .rw, mask := 0xFFFFF, ro := 0x7FF00000, reset := 0xFFFE },
    rowOf .rw 0x2C 0x1FFFF 0,
    rowOf .rw 0x40 0xFFFFFFFF 0, rowOf .rw 0x44 0xFFFFFFFF 0, rowOf .rw 0x48 0xFFFFFFFF 0, rowOf .rw 0x4C 0xFFFFFFFF 0,
    rowOf .rw 0x50 0xFFFF 0, rowOf .rw 0x60 0xFFFFFFFF 0, rowOf .rw 0x64 0xFFFFFFFF 0, rowOf .rw 0x68 0xFFFFFFFF 0,
    rowOf .rw 0x6C 0xFFFFFFFF 0, rowOf .rw 0x70 0xFFFF 0 ]

/-- The common CRY block but for its per-path registers. -/
def cryRows : List RegRow :=
  [ rowCfgStatus, rowRo 0x00 0x1FFF017F, rowOf .rwb 0x08 0xFFFF 50, rowRsq 0x10 0x7F, rowOf .rw 0x14 0x7F 0x67 ]

/-- The fixed CRY_DGS and CRY_PROOF registers (R426, R431), once per requester path. -/
def dgsRows : List RegRow :=
  [ rowOf .wo 0x100 0x3F7 0, rowOf .wo 0x104 0xFFFFFFFF 0, rowRo 0x108 0x3F, rowRo 0x1C0 0xFFFF ]

/-- The block of a cipher group. -/
def cryGroupRows : List RegRow := [ rowCfgStatus, rowRo 0x00 0x03FF003F ]

/-- The SCH block but for its per-path and flow registers. -/
def schRows : List RegRow :=
  [ rowCfgStatus, rowRo 0x00 0x1FFF7FFF, rowOf .rwb 0x08 0xFFFF0F0F 0x00640204, rowOf .rwb 0x0C 0xFFFFFFFF 0x101007D0,
    rowRo 0x10 0x7FFF01FF, rowRo 0x14 0x7FFF01FF, rowRo 0x18 0x7FFF01FF, rowRo 0x1C 0x7FFF01FF, rowRo 0x20 0x7FFF01FF,
    rowRo 0x24 0x7FFF01FF, rowRo 0x28 0x7FFF01FF, rowRo 0x2C 0x7FFF01FF, rowRsq 0x30 0x7F, rowOf .rw 0x34 0x7F 0x14 ]

/-- The TNT block but for its tables. -/
def tntRows : List RegRow :=
  [ rowCfgStatus, rowRo 0x00 0x3FFF01, { off := 0x08, cls := .rwb, mask := 0x1, rest := true }, rowRsq 0x10 0x1F,
    rowOf .rw 0x14 0x1F 0x0B, rowRo 0x18 0xFFFFFF3F ]

/-- The CAS block. -/
def casRows : List RegRow :=
  [ rowCfgStatus, rowRo 0x00 0xFF7F73, rowOf .rwb 0x08 0xFFFF 10, rowRo 0x10 0xFFFF0777, rowRo 0x14 0xFFFF0777,
    rowRo 0x18 0xFFFF0777, rowRo 0x1C 0xFFFF0777, rowRo 0x20 0xFFFFFFFF, rowRo 0x24 0xFFFFFFFF, rowRsq 0x30 0x3F,
    rowOf .rw 0x34 0x3F 0x27, rowOf .wo 0x40 0x73 0, rowOf .rw 0x44 0x3FFFFFF 0, rowOf .rw 0x48 0xFFFFFFFF 0,
    rowRo 0x4C 0xF1 ]

/-- The number of requesters of a Stile arbiter, emergency excluded (R541). -/
def arbRequesters (a : Nat) : Nat := if a < 8 then 16 else if a < 16 then 21 else if a < 24 then 10 else 11

/-- The island of a Stile arbiter (R541). -/
def arbIsland (a : Nat) : Nat :=
  if a < 8 then isDram a else if a < 16 then isSearch else if a < 24 then isSward (a - 16) else isFabric

/-- The mask and the reset value of ARB_a_RANK_j: rank k for requester k (R541). -/
def arbRankMask (a j : Nat) : Nat :=
  (List.range 4).foldl (fun m k => if 4 * j + k < arbRequesters a then m + (0x1F <<< (8 * k)) else m) 0
def arbRankReset (a j : Nat) : Nat :=
  (List.range 4).foldl (fun m k => if 4 * j + k < arbRequesters a then m + ((4 * j + k) <<< (8 * k)) else m) 0

/-- Registers in the ARB window. -/
def arbDesc (o : Nat) : Option RegDesc :=
  let b := 0x300000
  if o < 0x100 then (rowAt arbRows o).map (rowDesc true isFabric b false)
  else
    let a := o / 0x100 - 1
    let p := o % 0x100
    if 36 ≤ a then none
    else if p = 0 then some (rowDesc true (arbIsland a) b false (rowRo 0 0x3F))
    else if p = 8 then some (rowDesc true (arbIsland a) b false (rowRo 8 0xFFFF003F))
    else if 0x10 ≤ p && p < 0x30 && p % 4 = 0 then
      some (rowDesc true (arbIsland a) b false
        { off := p, cls := .rwb, mask := arbRankMask a ((p - 0x10) / 4), reset := arbRankReset a ((p - 0x10) / 4) })
    else none

/-- Registers in the STW window. -/
def stwDesc (o : Nat) : Option RegDesc :=
  let b := 0x100000
  if o < 0x8000 then (rowAt stwRows o).map (rowDesc true isFabric b false)
  else
    let g := o / 0x8000 - 1
    let p := o % 0x8000
    let gb := b + 0x8000 * (g + 1)
    if 16 ≤ g then none
    else if p < 0x400 then (rowAt stwGroupRows p).map (rowDesc true isFabric gb false)
    else if p < 0x800 && p % 4 = 0 then
      some (rowDesc true isFabric gb false { off := p, cls := .rwb, mask := 0xFFFFFFFF, rest := true })
    else if 0x1000 ≤ p && p < 0x3000 && p % 4 = 0 then
      let q := p % 0x1000
      if q < 0x10 then some (rowDesc true isFabric gb false (rowRo p 0xFFFFFFFF))
      else if q = 0x10 then some (rowDesc true isFabric gb false (rowRo p 0x07FFFFFF))
      else if 0x100 ≤ q && q < 0x900 then some (rowDesc true isFabric gb false (rowRo p 0xFFFFFFFF))
      else none
    else none

/-- Registers in the THM window. -/
def thmDesc (o : Nat) : Option RegDesc :=
  if 0x100 ≤ o && o < 0x200 && o % 4 = 0 then some (rowDesc true isAlwaysOn 0x200000 false (rowRo o 0x3FF))
  else (rowAt thmRows o).map (rowDesc true isAlwaysOn 0x200000 false)

/-- Registers in the DRC window. -/
def drcDesc (o : Nat) : Option RegDesc :=
  if o < 0x10000 then (rowAt drcRows o).map (rowDesc true isFabric 0x400000 false)
  else if o / 0x10000 ≤ 8 then
    (rowAt drcChanRows (o % 0x10000)).map
      (rowDesc true (isDram (o / 0x10000 - 1)) (0x400000 + o / 0x10000 * 0x10000) false)
  else none

/-- Registers in the MED window: channel n at n × 0x1000. -/
def medDesc (o : Nat) : Option RegDesc :=
  if o / 0x1000 < 128 then
    (rowAt medRows (o % 0x1000)).map (rowDesc true (isMedia (o / 0x1000)) (0x800000 + o / 0x1000 * 0x1000) false)
  else none

/-- The reset value of PCS_RTS_SELECT_j: j ÷ 2 in each of its eight fields. -/
def rtsSelectReset (j : Nat) : Nat := j / 2 * 0x11111111

/-- Registers in the PCS window. -/
def pcsDesc (o : Nat) : Option RegDesc :=
  let d := rowDesc true isFabric 0xA00000 false
  if o < 0x80 then (rowAt pcsRows o).map d
  else if o < 0xA0 && o % 4 = 0 then some (d (rowRo o 0xFFFF))
  else if 0x100 ≤ o && o < 0x180 && o % 4 = 0 then some (d (rowOf .rwb o 0xFFFFFFFF (rtsSelectReset ((o - 0x100) / 4))))
  else if 0x1000 ≤ o && o < 0x2000 && o % 4 = 0 then
    some (d (rowOf .rw o (if o % 16 = 0 then 0xFFFFFF00 else 0xFFFFFFFF) 0))
  else if 0x10000 ≤ o && o / 0x10000 ≤ 8 then
    (rowAt pcsGroupRows (o % 0x10000)).map
      (rowDesc true (isPageCode (o / 0x10000 - 1)) (0xA00000 + o / 0x10000 * 0x10000) false)
  else none

/-- Registers in the FLN window. -/
def flnDesc (o : Nat) : Option RegDesc :=
  if o < 0x10000 then (rowAt flnRows o).map (rowDesc true isFabric 0x1400000 false)
  else if o / 0x10000 ≤ 9 then
    (rowAt flnLaneRows (o % 0x10000)).map
      (rowDesc true (isLane (o / 0x10000 - 1)) (0x1400000 + o / 0x10000 * 0x10000) false)
  else none

/-- Registers in the CAM window. -/
def camDesc (o : Nat) : Option RegDesc :=
  let b := 0x1800000
  if 0x1000 ≤ o && o < 0x1200 && o % 4 = 0 then
    some (rowDesc true isSearch b false
      { off := o, cls := .rwb, mask := if o % 8 = 0 then 0x9FFFFFFF else 0x37FFFF, rest := true })
  else match rowAt camRows o with
    | some r => some (rowDesc true isSearch b false r)
    | none => (rowAt camUpdRows o).map (rowDesc true isSearch b true)

/-- The CRY_DGS and CRY_PROOF registers at offset `o` of their layout. -/
def dgsRowAt (o : Nat) : Option RegRow :=
  if 0x140 ≤ o && o < 0x180 && o % 4 = 0 then some (rowRo o 0xFFFFFFFF)
  else if 0x180 ≤ o && o < 0x1C0 && o % 4 = 0 then some (rowOf .wo o 0xFFFFFFFF 0)
  else rowAt dgsRows o

/-- Registers in the CRY window, the keeper-only sub-window (R434) among them. -/
def cryDesc (o : Nat) : Option RegDesc :=
  let b := 0x1A00000
  if o < 0x100 then (rowAt cryRows o).map (rowDesc true isDigest b false)
  else if o < 0x10000 then (dgsRowAt o).map (rowDesc true isDigest b true)
  else if o / 0x10000 ≤ 8 then
    (rowAt cryGroupRows (o % 0x10000)).map (rowDesc true (isCipher (o / 0x10000 - 1)) (b + o / 0x10000 * 0x10000) false)
  else if 0x90000 ≤ o && o < 0x94000 && o % 4 = 0 then some (rowDesc true isKeeper b false (rowRo o 0x1FFFF))
  else if 0x100000 ≤ o && o < 0x104000 then
    if o % 0x1000 = 0x10C then some (rowDesc true isKeeper b false (rowRo o 0x1FF))
    else (dgsRowAt (o % 0x1000)).map (rowDesc true isKeeper b false)
  else none

/-- Registers in the SCH window. -/
def schDesc (o : Nat) : Option RegDesc :=
  let b := 0x1C00000
  let d := rowDesc true isFabric b false
  let dp := rowDesc true isFabric b true
  if o < 0x40 then (rowAt schRows o).map d
  else if o = 0x40 then some (dp (rowOf .wo 0x40 0x3FFFF 0))
  else if o = 0x44 then some (dp (rowRo 0x44 0xF1))
  else if 0x100 ≤ o && o < 0x300 && o % 4 = 0 then
    some (dp (rowOf .rw o (if o % 8 = 0 then 0xFFFFFFFF else 0xF) 0))
  else if 0x10000 ≤ o && o < 0x20000 && o % 4 = 0 then
    if o % 16 = 0 then some (d { off := o, cls := .rwb, mask := 0x800F3FFF, ro := 0x40000000 })
    else if o % 16 = 4 then some (d (rowOf .rwb o 0xFFFFFFFF 0))
    else some (d (rowRo o 0xFFFFFFFF))
  else none

/-- Registers in the TNT window. -/
def tntDesc (o : Nat) : Option RegDesc :=
  let d := rowDesc true isFabric 0x1E00000 false
  if o < 0x100 then (rowAt tntRows o).map d
  else if o < 0x180 && o % 4 = 0 then some (d { off := o, cls := .rwb, mask := 0x07FF07FF, rest := true })
  else if 0x420 ≤ o && o < 0xC00 && o % 4 = 0 then
    if o % 0x20 < 0x10 then some (d { off := o, cls := .rwb, mask := 0xFFFFFFFF, rest := true })
    else if o % 0x20 = 0x10 then some (d { off := o, cls := .rwb, mask := 0x7FF, rest := true })
    else none
  else if 0x10000 ≤ o && o < 0x30000 && o % 4 = 0 then
    if o % 16 = 8 then some (d (rowRo o 0x801F77FF))
    else if o % 16 < 8 then some (d (rowRo o 0xFFFFFFFF))
    else none
  else none

/-- The register at a BAR2 offset, none where no register is defined (R65, R66). The DBG window has no register that
the manual defines. -/
def regDesc (off : Nat) : Option RegDesc :=
  if off < 0x100000 then (rowAt glbRows off).map (rowDesc false isHost 0 false)
  else if off < 0x200000 then stwDesc (off - 0x100000)
  else if off < 0x300000 then thmDesc (off - 0x200000)
  else if off < 0x400000 then arbDesc (off - 0x300000)
  else if off < 0x800000 then drcDesc (off - 0x400000)
  else if off < 0xA00000 then medDesc (off - 0x800000)
  else if off < 0xC00000 then pcsDesc (off - 0xA00000)
  else if off < 0xE00000 then (rowAt ftlRows (off - 0xC00000)).map (rowDesc true isFabric 0xC00000 false)
  else if off < 0x1000000 then (rowAt etbRows (off - 0xE00000)).map (rowDesc true isEtch 0xE00000 false)
  else if off < 0x1200000 then (rowAt hifRows (off - 0x1000000)).map (rowDesc false isHost 0x1000000 false)
  else if off < 0x1400000 then (rowAt chnRows (off - 0x1200000)).map (rowDesc true isFabric 0x1200000 false)
  else if off < 0x1600000 then flnDesc (off - 0x1400000)
  else if off < 0x1800000 then (rowAt cdcRows (off - 0x1600000)).map (rowDesc true isCodec 0x1600000 false)
  else if off < 0x1A00000 then camDesc (off - 0x1800000)
  else if off < 0x1C00000 then cryDesc (off - 0x1A00000)
  else if off < 0x1E00000 then schDesc (off - 0x1C00000)
  else if off < 0x2000000 then tntDesc (off - 0x1E00000)
  else if off < 0x2200000 then (rowAt casRows (off - 0x2000000)).map (rowDesc true isCascade 0x2000000 false)
  else if off < 0x2400000 then (rowAt [rowCfgStatus] (off - 0x2200000)).map (rowDesc false isHost 0x2200000 false)
  else none

/-- The KEEP bits of a register (R12). -/
def keepMask (d : RegDesc) : Nat := (0xFFFFFFFF ^^^ (d.mask ||| d.ro)) &&& 0xFFFFFFFF

/-- Whether an offset is the _HI half of a pair (R64). The pairs are those of RO quantities; of the other registers named _LO and
_HI (MED_ARB_RANK, SCH_DESC_DATA), which their chapters do not mark as read under R64, each half answers its own value (DESIGN
CHOICE, log 116). -/
def isHiHalf (off : Nat) : Bool :=
  let p := off % 0x1000
  off = 0x14 || off = 0x34 || off = 0x200014
    || (0x800000 ≤ off && off < 0x880000 && p = 0x2C)
    || off = 0xE0001C || off = 0xE00024 || off = 0x100002C || off = 0x2000024
    || (0x108000 ≤ off && off < 0x188000 && 0x1000 ≤ off % 0x8000 && off % 0x8000 < 0x3000
        && (p = 4 || p = 0xC || (0x100 ≤ p && p % 8 = 4)))

/-- Whether an offset is the _LO half of a pair (R64). -/
def isLoHalf (off : Nat) : Bool := isHiHalf (off + 4)

end Sys2Proof.Machine
end

