-- ==== Sys2Proof/Machine/Sparse.lean ====
section
/-! DEFINITION. Sparse tables: lists of (key, value) pairs with strictly rising keys. An unlisted key has the table's
default. Byte memories are tables of bytes in which no entry equals the default byte 0 (log 11). -/

namespace Sys2Proof.Machine

/-- Whether the keys of a table rise strictly from above `lo`. -/
def risesFrom {α : Type} : Nat → List (Nat × α) → Bool
  | _, [] => true
  | lo, (k, _) :: t => decide (lo ≤ k) && risesFrom (k + 1) t

/-- The canonical form of a table: strictly rising keys. -/
def tabWf {α : Type} (t : List (Nat × α)) : Bool := risesFrom 0 t

/-- The entry of key `k`. -/
def tabGet {α : Type} : List (Nat × α) → Nat → Option α
  | [], _ => none
  | (j, v) :: t, k => if j = k then some v else tabGet t k

/-- The entry of key `k`, or `d` where the table lists none. -/
def tabAt {α : Type} (d : α) (t : List (Nat × α)) (k : Nat) : α := (tabGet t k).getD d

/-- The table with key `k` holding `v`. -/
def tabPut {α : Type} : List (Nat × α) → Nat → α → List (Nat × α)
  | [], k, v => [(k, v)]
  | (j, w) :: t, k, v =>
    if k < j then (k, v) :: (j, w) :: t
    else if k = j then (k, v) :: t
    else (j, w) :: tabPut t k v

/-- The table without key `k`. -/
def tabDel {α : Type} : List (Nat × α) → Nat → List (Nat × α)
  | [], _ => []
  | (j, w) :: t, k => if j = k then t else (j, w) :: tabDel t k

/-- The table with key `k` reading as `v` where an unlisted key reads as `d`. -/
def tabSet {α : Type} [DecidableEq α] (d : α) (t : List (Nat × α)) (k : Nat) (v : α) : List (Nat × α) :=
  if v = d then tabDel t k else tabPut t k v

/-- The table with the entry of `k` changed by `f`, from the default `d` where there is none. -/
def tabUpd {α : Type} (d : α) (t : List (Nat × α)) (k : Nat) (f : α → α) : List (Nat × α) :=
  tabPut t k (f (tabAt d t k))

/-- The keys of a table whose values meet `p`, rising. -/
def tabKeys {α : Type} (p : α → Bool) (t : List (Nat × α)) : List Nat :=
  (t.filter (fun e => p e.2)).map (·.1)

/-- The canonical form of a byte memory: rising addresses and no byte 0 listed. -/
def Memory.wf (m : List (Nat × Byte)) : Bool := tabWf m && m.all (fun e => e.2 ≠ 0)

/-- The byte at an address: 0 where nothing is listed (log 11). -/
def memByte (m : List (Nat × Byte)) (a : Nat) : Byte := tabAt 0 m a

/-- The memory with one byte written. -/
def memSet (m : List (Nat × Byte)) (a : Nat) (b : Byte) : List (Nat × Byte) := tabSet 0 m a b

/-- `n` bytes from address `a`. -/
def memRead (m : List (Nat × Byte)) (a : Nat) : Nat → List Byte
  | 0 => []
  | n + 1 => memByte m a :: memRead m (a + 1) n

/-- The memory with bytes written from address `a`. -/
def memWrite (m : List (Nat × Byte)) (a : Nat) : List Byte → List (Nat × Byte)
  | [] => m
  | b :: bs => memWrite (memSet m a b) (a + 1) bs

/-- The memory with every byte of [a, a + n) reading 0 (R52). -/
def memClear (m : List (Nat × Byte)) (a n : Nat) : List (Nat × Byte) :=
  m.filter (fun e => e.1 < a || a + n ≤ e.1)

end Sys2Proof.Machine
end

