-- ==== Sys2Proof/Machine/State.lean ====
section
/-! DEFINITION. The state of the device as plain data, its faults and refusals, and the state after reset. A sparse
table is a list of (key, value) pairs with strictly rising keys and no value equal to the default (Machine/Sparse.lean).
A field's default in a structure is its reset value. -/

namespace Sys2Proof.Machine

/-- Why the machine stops. -/
inductive Fault where
  /-- R58 calls every outcome after a rating of R595 or R610 was exceeded undefined. No command reports such stress to the
  device, so no meaning raises this. Safe. -/
  | ratingExceeded
deriving DecidableEq, Repr

/-- Why the model gives a command no meaning. -/
inductive Refusal where
  /-- Raised by an arm of `exec` whose command has no meaning yet. Safe. -/
  | notModelled (mnemonic : String)
deriving DecidableEq, Repr

/-! ### Registers and the register bus -/

/-- A pending first guard write (R81): offset X, the value and its arrival time in ticks. -/
structure GuardPend where
  off : Nat := 0
  val : Dword := 0
  at_ : Nat := 0
deriving DecidableEq, Repr

/-- An RSQ register (R73): the SEQ counter and the set event bits with their stored numbers. -/
structure Rsq where
  seq  : BitVec 8 := 0
  bits : List (Nat × BitVec 8) := []
deriving DecidableEq, Repr

/-- A write to an RWB register that waits for its block's boundary (R77). `mark` tells the boundary in progress when it came
(R80): the end of the window of its statistics group, the grants of its arbiter so far, the operations of its channel so
far; 0 in every other block. -/
structure RwbPend where
  off  : Nat
  val  : Dword
  path : Path
  mark : Nat := 0
deriving DecidableEq, Repr

/-- An access at the register bus root, with its arrival in ticks (R63, R81) and the tenant tag that it carries (R26).
`bad`: it is discarded (R61); `hi`: the higher dword of a qword access (R60); `start`: when the root started it toward
another island; `stalled`: it met a stopped clock there (R15, R84). -/
structure Arrived where
  access  : BusAccess
  at_     : Nat
  tag     : Nat := 0
  bad     : Bool := false
  hi      : Bool := false
  start   : Option Nat := none
  stalled : Bool := false
deriving DecidableEq, Repr

/-- The register bus and the register values that have no other home. `active` is keyed by BAR2 offset, plus
path number times 2^26 for registers that exist once per requester path; by path number, `waiting` are the accesses at the
root, oldest first, the first the one in progress, `late` the writes that the root has timed out and not withdrawn (R85),
and `readData` the latest answer of a read. -/
structure Bus where
  active     : List (Nat × Dword) := []
  shadow     : List (Nat × Dword) := []
  guards     : List (Nat × GuardPend) := []
  rwb        : List RwbPend := []
  applyCount : List (Nat × BitVec 8) := []
  rsq        : List (Nat × Rsq) := []
  waiting    : List (Nat × List Arrived) := []
  late       : List (Nat × List Arrived) := []
  readData   : List (Nat × Qword) := []
deriving DecidableEq, Repr

/-! ### Time -/

/-- The global timebase (R16 to R21), its alignment to host time (R274) and to a cascade master (R578). `slew` is what is
still to be corrected, `slewAge` the advances since the latest tick of a slew; `stopAt` is the copy of an island whose clock has
stopped. -/
structure TimeSt where
  master     : Qword := 0
  frac       : BitVec 6 := 0
  refclk     : Bool := false
  aonLost    : Bool := true
  copyOff    : List (Nat × Int) := []
  stopAt     : List (Nat × Nat) := []
  aligned    : Bool := false
  stepped    : Bool := false
  slew       : Int := 0
  slewAge    : Nat := 0
  ptmValid   : Bool := false
  ptmOffset  : Int := 0
  ptmAt      : Nat := 0
  syncStamp  : Nat := 0
  syncOffset : Int := 0
  syncAt     : Nat := 0
  syncLost   : Bool := false
deriving DecidableEq, Repr

/-! ### Power, pins, start -/

/-- Pins, supplies, start and power states (R39 to R45, R222 to R230, R266 to R270, R594 to R600). `bringUp`: media bring-up is
due after PS4; `vioHigh`: the VIO pads took 3.3 V (R594); `dieTable` is that of the running image, by type digest: whether the
type programs in two passes (R210). `fenceAt` is the tick of the latest dip of a rail or rise of PWR_OK (R222), `mediaAt` that at which
MEDIA_PWR_EN rose (R600). -/
structure Power where
  serial           : Qword := 0
  lifecycle        : BitVec 4 := 1
  fwVersion        : Dword := 0
  linkMode         : BitVec 2 := 0
  linkNext         : Option (BitVec 2) := none
  pwrOk            : Bool := false
  perstN           : Bool := false
  casRole          : Bool := false
  vioHigh          : Bool := false
  dieTable         : List (BitVec 256 × Bool) := []
  aonOk            : Bool := false
  mediaPwrEn       : Bool := false
  wpg              : BitVec 8 := 0
  thermN           : Bool := false
  wakeN            : Bool := false
  shutdown         : Bool := false
  stage            : Option Nat := none
  started          : Bool := false
  ready            : Bool := false
  firstStart       : Bool := true
  abandoned        : Bool := false
  recoveryStart    : Bool := false
  earlyMedia       : Bool := false
  bringUp          : Bool := false
  tested           : Bool := false
  settingsIn       : Bool := false
  settingsRecovery : Bool := false
  noImage          : Bool := false
  bootImage        : Bool := false
  newImage         : Bool := false
  cause            : BitVec 4 := 0
  unclean          : Bool := false
  ranBefore        : Bool := false
  cleanRecord      : Bool := false
  startAt          : Nat := 0
  readyDeadline    : Nat := 0
  pstate           : Nat := 0
  ptarget          : Nat := 0
  changing         : Bool := false
  lastOp           : Nat := 0
  fence            : Bool := true
  fenceAt          : Nat := 0
  mediaAt          : Nat := 0
  fenceRails       : BitVec 6 := 0
  fenceCount       : Nat := 0
deriving DecidableEq, Repr

/-! ### Media -/

/-- The parameters of no die. -/
def noParams : DieParams :=
  { blocks := 0, pages := 0, bits := 0, pageBytes := 0, rate := 0, endurance := 0, badBlocks := [], hasTemp := false }

/-- A die position of a channel (R87, R96, R102, R182): `dead` says that it has failed, whatever state its channel gives it;
`resetAt` is the tick of its latest Reset (R182), and `rts` the read-threshold set in force on it with the offsets that were applied
(R137). -/
structure Die where
  st       : BitVec 4 := 0
  dtype    : Option DieType := none
  uid      : Option (BitVec 128) := none
  params   : DieParams := noParams
  temp     : Int := 0
  silent   : Bool := false
  resets   : Nat := 0
  resetAt  : Nat := 0
  retired  : List Nat := []
  dead     : Bool := false
  rts      : Option (Nat × List Dword) := none
deriving DecidableEq, Repr

/-- The values that training sets for a die at a rate step (R103): the delays of CHnnn_DQ[7:0] in both directions, the duty-cycle
corrections of RE_T, RE_C, DQS_T and DQS_C, the receiver reference, the die's drive strength and on-die termination. -/
structure Training where
  dqIn  : List Nat
  dqOut : List Nat
  duty  : List Nat
  vref  : Nat
  drive : Nat
  odt   : Nat
deriving DecidableEq, Repr

/-- A die's request that waits for the bus since `at_` ticks. -/
structure DieWait where
  req : BusRequest
  at_ : Nat
deriving DecidableEq, Repr

/-- A media channel (R93, R103 to R120). `trained` is the highest step that training has reached; `pinAt` the tick of the latest
pin test, `eyeAt` that of the latest eye sample (R106); `ops` the operations that have begun on its bus. -/
structure Chan where
  st         : BitVec 3 := 0
  rate       : BitVec 3 := 0
  limit      : BitVec 2 := 0
  trained    : BitVec 3 := 6
  dies       : List (Nat × Die) := []
  low        : Nat := 0
  eyeAt      : Nat := 0
  due        : Bool := false
  background : Bool := false
  pinDue     : Bool := false
  pinRunning : Bool := false
  pinAt      : Nat := 0
  reqs       : List DieWait := []
  holder     : Option Nat := none
  hold       : Option Nat := none
  ops        : Nat := 0
deriving DecidableEq, Repr

/-- An entry of log page 0xC4 (R121); `fresh`: it was added since the latest start (R122). -/
structure FaultEntry where
  chan   : Nat
  die    : Nat
  kind   : Nat
  pin    : Nat
  st     : Nat
  first  : Nat
  last   : Nat
  ident  : Dword
  digest : Dword
  fresh  : Bool := true
deriving DecidableEq, Repr

/-- The media (R87 to R122). `training` is keyed by device-wide die × 8 + rate step. `present` are the dies that answered at the
latest start, `away` those of them that were not active when the settings were last written (R100, R112, R115). -/
structure Media where
  chans        : List (Nat × Chan) := []
  training     : List (Nat × Training) := []
  present      : List Nat := []
  away         : List Nat := []
  faults       : List FaultEntry := []
  faultsTotal  : Nat := 0
  faultsAt     : Nat := 0
  excluded     : BitVec 8 := 0
  accepted     : List DieType := []
  acceptedNext : Option (List DieType) := none
deriving DecidableEq, Repr

/-! ### Page code, remap, scrub, engine pools -/

/-- An instance of an engine pool (R27): retired units, and whether the spare is in service. -/
structure Engine where
  retired   : List Nat := []
  spareUsed : Bool := false
  lost      : Nat := 0
deriving DecidableEq, Repr

/-- ECC marks, remap tables, self-test and the Stipple (R139 to R153). `devLines` holds, per rank, subchannel and
device, the distinct lines with errors confined to it in this pass; `lineErrs` the correctable errors per line. `patrol` is the
place at which the flash patrol goes on, `savedAt` the tick at which it was saved and `patrolAt` that of its latest read; `dramPos` the line of DRAM that the walk reads
next, `dramAt` the tick of its latest read, `dramStart` that of the first read of the pass. -/
structure Pcs where
  marks      : List (Nat × Nat) := []
  remapDram  : List (Nat × Nat) := []
  remapSram  : List (Nat × Nat) := []
  remapFull  : List Nat := []
  devLines   : List (Nat × List Nat) := []
  lineErrs   : List (Nat × Nat) := []
  copying    : List Nat := []
  engines    : List (Nat × Engine) := []
  patrol     : Nat := 0
  patrolSaved : Nat := 0
  savedAt    : Nat := 0
  patrolAt   : Nat := 0
  dramPos    : Nat := 0
  dramAt     : Nat := 0
  dramStart  : Nat := 0
  dramLag    : Bool := false
  flashLag   : Bool := false
  uePending  : List Nat := []
deriving DecidableEq, Repr

/-! ### Translation -/

/-- A namespace (R154, R252): size in LBAs, LBA data size, grain, codec, cipher, owner, controllers attached. -/
structure Namespace where
  nsze    : Nat
  lbaSize : Nat
  coarse  : Bool
  codec   : Nat
  cipher  : Nat
  keySlot : Nat
  owner   : Nat
  chset   : Nat
  attach  : List Nat
  home    : Nat
deriving DecidableEq, Repr

/-- A block record (R165); `overrideBin` is the age bin in which its override was found (R135), and `byRead` says that a failing block failed under R181. -/
structure BlockRec where
  erases   : Nat := 0
  st       : BitVec 4 := 0
  family   : BitVec 2 := 0
  reads    : Nat := 0
  progTime : Nat := 0
  progTemp : Int := 0
  profile  : Nat := 0
  override : Option Nat := none
  overrideBin : Nat := 0
  valid    : Nat := 0
  byRead   : Bool := false
deriving DecidableEq, Repr

/-- A swath (R166): 32 blocks of one family. `next` is the next stripe to program, `done` the stripes whose programs
have been verified, `safe` the stripes that are safe (R168). -/
structure Swath where
  id       : Nat
  family   : BitVec 2
  members  : List (Nat × Nat)
  opened   : Bool
  next     : Nat
  done     : List Nat
  safe     : List Nat
  fallow   : Bool
  chset    : Nat
deriving DecidableEq, Repr

/-- A codeword on flash (R123): its metadata, PROG_TEMP as its byte, and its user bytes (ciphertext where the namespace is
encrypted), with the CRC field as it was written. `white` is the place (die, block and page) with whose sequence its bits were
whitened (R125). -/
structure Codeword where
  unit     : Nat
  part     : Nat
  nsid     : Nat
  tenant   : Nat
  kind     : Nat
  profile  : Nat
  progTime : Nat
  progTemp : Nat
  stamp    : Nat
  user     : List Byte
  crc      : Nat := 0
  white    : Nat := 0
deriving DecidableEq, Repr

/-- A codeword read in flight (R131, R138): for whom, the ladder step under way, the set that R137 chose as it started, the set
with which step 1 ran and that of the sense under way, the sets of step 3 still to try, the unsatisfied checks that steps 1 and
3 left with each set tried, whether step 5 waits for a pin test (R133), the registers of its die type's sets that were not 0 as it
started, by offset, and what its entry says it is: NSID, TENANT, UNIT and PART (R192). -/
structure ReadReq where
  key     : Nat
  owner   : ReadFor
  step    : Nat := 1
  chosen  : Nat
  base    : Nat
  cur     : Nat
  left    : List Nat := []
  tried   : List (Nat × Nat) := []
  pinWait : Bool := false
  sets    : List (Nat × Dword) := []
  nsid    : Nat
  tenant  : Nat
  unit    : Nat
  part    : Nat
deriving DecidableEq, Repr

/-- Gleaner work (R174). -/
structure Work where
  prio  : Nat
  die   : Nat
  block : Nat
  whole : Bool
deriving DecidableEq, Repr

/-- A copy of a unit or a map page on its way to a new place (R169, R191): the record type it will issue (04h destage,
05h relocate, 06h map page), the record KEY, the entry expected, the new entry, and the swath and last stripe of it. -/
structure Copy where
  rtype  : Nat
  key    : Nat
  expect : Qword
  new    : Qword
  swath  : Nat
  stripe : Nat
deriving DecidableEq, Repr

/-- A rebuild (R184, R185). -/
structure Rebuild where
  chan    : Nat
  die     : Option Nat
  total   : Nat
  cleared : Nat
  active  : Bool
deriving DecidableEq, Repr

/-- The counters of log page 0xC0 (R198). -/
structure Health where
  hostWritten      : Nat := 0
  mediaProgrammed  : Nat := 0
  relocated        : Nat := 0
  erases           : Nat := 0
  retiredErase     : Nat := 0
  retiredProgram   : Nat := 0
  retiredRead      : Nat := 0
  ladder           : List (Nat × Nat) := []
  unrecovered      : Nat := 0
  dramCorrected    : Nat := 0
  dramUe           : Nat := 0
  sramCorrected    : Nat := 0
  sramUe           : Nat := 0
  deferred         : Nat := 0
  unrepaired       : List (Nat × Option Nat) := []
  warn             : Nat := 0
  tempHist         : List (Nat × Nat) := []
deriving DecidableEq, Repr

/-- Translation and media management (R154 to R199). Map and overlay are keyed by NSID × 2^48 + UNIT; a map page by
(NSID × 2 + level) × 2^47 + index; blocks by die × 16,384 + block; codewords by ((block key) × 8,192 + page) × 4 + cw. `dirty`
holds the SEQ of the oldest change of a map page that is not written back; `since`, while a copy of the page is under way, that of
the first change after the copy was made, 0 for none (R213). `shortLow` and `shortHigh` are the families short of FREE_LOW and
FREE_HIGH free swaths, the first to be so first (R174). `meadowAt` and `healthAt` are the ticks at which M was computed and page 0xC0
committed last (R172, R199). -/
structure Ftl where
  namespaces : List (Nat × Namespace) := []
  map        : List (Nat × Qword) := []
  mapLoc     : List (Nat × Qword) := []
  overlay    : List (Nat × Qword) := []
  resident   : List Nat := []
  dirty      : List (Nat × Nat) := []
  since      : List (Nat × Nat) := []
  wanted     : List Nat := []
  accessed   : List Nat := []
  mapFull    : Bool := false
  blocks     : List (Nat × BlockRec) := []
  swaths     : List Swath := []
  nextSwath  : Nat := 0
  flash      : List (Nat × Codeword) := []
  work       : List Work := []
  shortLow   : List (BitVec 2) := []
  shortHigh  : List (BitVec 2) := []
  copies     : List Copy := []
  rebuild    : Option Rebuild := none
  /-- Places (channel, die) whose rebuilds wait for the one in progress, oldest first. -/
  rebuilds   : List (Nat × Option Nat) := []
  readHolds  : List (Nat × Nat) := []
  reads      : List ReadReq := []
  exported   : Nat := 0
  spareFirst : Nat := 0
  spareLeft  : Nat := 10000
  mode       : BitVec 2 := 0
  meadowTarget : Nat := 0
  meadowShare  : Nat := 0
  meadowAt   : Nat := 0
  healthAt   : Nat := 0
  fallowAt   : Nat := 0
  stopped    : Bool := false
  health     : Health := {}
deriving DecidableEq, Repr

/-! ### Tenants -/

/-- A tenant's record (R508) with the quotas of R511 as defaults. -/
structure Tenant where
  enabled  : Bool := true
  prio     : Nat := 32
  channels : Nat := 64
  programs : Nat := 16
  keySlots : Nat := 16
  dramMib  : Nat := 1024
  jobs     : Nat := 256
  etchPct  : Nat := 10
deriving DecidableEq, Repr

/-- An enabled entry of the region table (R512): units of 4 KiB in DRAM, of 64 words in cluster memory. -/
structure Region where
  base   : Nat
  last   : Nat
  tenant : Nat
  read   : Bool
  write  : Bool
  exec   : Bool
  space  : Nat
  named  : Bool
deriving DecidableEq, Repr

/-- Tenants and the Hedgerow (R504 to R525). `slot` is the slot in progress, `frameNo` the number of the frame in progress
since time 0, `frames` the frame boundaries since start (R520, R521). -/
structure Tenants where
  recs      : List (Nat × Tenant) := []
  bind      : List (Nat × Nat) := []
  regions   : List (Nat × Region) := []
  slot      : Nat := 0
  frames    : Nat := 0
  frameNo   : Nat := 0
  badLines  : List Nat := []
deriving DecidableEq, Repr

/-! ### Keys -/

/-- A key slot (R411) with its committed marks (R417). `key` is the raw key, which no path returns. -/
structure KeySlot where
  st       : BitVec 2 := 0
  kind     : BitVec 2 := 0
  origin   : BitVec 2 := 0
  owner    : Nat := 0
  fixed    : Dword := 0
  limit    : Nat := 0
  used     : Nat := 0
  next     : Nat := 0
  key      : List Byte := []
  usedMark : Nat := 0
  nextMark : Nat := 0
deriving DecidableEq, Repr

/-- A key-import assembly (R422): the function, slot, parts so far and the arrival of the latest part. -/
structure Assembly where
  slot  : Nat
  bytes : List Byte
  parts : Nat
  at_   : Nat
deriving DecidableEq, Repr

/-- The event history of log page 0xC3 (R562). -/
structure ThermEntry where
  time   : Nat
  kind   : Nat
  temp   : Int
  sensor : Nat
  level  : Nat
deriving DecidableEq, Repr

/-- Log page 0xC3 (R562): entries and extremes. -/
structure ThermLog where
  entries   : List ThermEntry := []
  total     : Nat := 0
  shutdowns : Nat := 0
  maxEver   : Int := -128
  changed   : Nat := 0
  mins      : List (Nat × Int) := []
  maxs      : List (Nat × Int) := []
deriving DecidableEq, Repr

/-! ### Etch buffer -/

/-- An entry of a journal record (R206). -/
structure JEntry where
  key : Qword
  old : Qword
  new : Qword
deriving DecidableEq, Repr

/-- A journal record (R206), with its length and its offset in the journal region (R208). -/
structure JRec where
  type    : Nat
  seq     : Nat
  stamp   : Nat
  tenant  : Nat
  entries : List JEntry
  len     : Nat
  off     : Nat := 0
deriving DecidableEq, Repr

/-- A record built and not yet committed, with the command that waits for it (R203 step 5, R204). `last`: the
command's last piece. -/
structure Built where
  type    : Nat
  tenant  : Nat
  entries : List JEntry
  cmd     : Option CmdId
  job     : Option Nat
  last    : Bool
deriving DecidableEq, Repr

/-- A root image (R211): what it holds of the map root: block records, swath records, and of the map the places of the directory
pages. `cpOffset` is the journal offset of the record after CP_SEQ; `ok` says that its header has been written. -/
structure RootImg where
  seq        : Nat := 0
  cpSeq      : Nat := 0
  cpOffset   : Nat := 0
  ok         : Bool := false
  blocks     : List (Nat × BlockRec) := []
  swaths     : List Swath := []
  mapLoc     : List (Nat × Qword) := []
deriving DecidableEq, Repr

/-- The body of the settings store, by its sections (R217). -/
structure Settings where
  training   : List (Nat × Training) := []
  present    : List Nat := []
  away       : List Nat := []
  dramTrained : Bool := false
  dramPop    : List (Nat × Nat) := []
  accepted   : List DieType := []
  marks      : List (Nat × Nat) := []
  remapDram  : List (Nat × Nat) := []
  remapSram  : List (Nat × Nat) := []
  namespaces : List (Nat × Namespace) := []
  tenants    : List (Nat × Tenant) := []
  bind       : List (Nat × Nat) := []
  keys       : List (Nat × KeySlot) := []
  nsKeys     : List (Nat × KeySlot) := []
  features   : List (Nat × Dword) := []
  linkMode   : BitVec 2 := 0
  snapshots  : List (Nat × Dword) := []
  patrol     : Nat := 0
  health     : Health := {}
  faults     : List FaultEntry := []
  faultsTotal : Nat := 0
  faultsAt   : Nat := 0
  therm      : ThermLog := {}
  sanitize   : Option Bool := none
  sanitized  : Bool := false
deriving DecidableEq, Repr

/-- A settings copy in an Etch die (R217). `ok` says that its digest verifies. -/
structure SetCopy where
  seq   : Nat := 0
  ok    : Bool := false
  stamp : Nat := 0
  body  : Settings := {}
deriving DecidableEq, Repr

/-- What takes effect at the commit of a settings update and not before, so that a cut leaves the old record with its data (R44): a
namespace deleted; one formatted with an LBA size, with a new key when its old one is erased; a sanitize (true: crypto erase) that
begins, or ends. -/
inductive SavedAct where
  | deleteNs (nsid : Nat)
  | formatNs (nsid lbaSize : Nat) (key : Option KeySlot)
  | sanitize (crypto : Bool)
  | sanitizeEnd
deriving DecidableEq, Repr

/-- A settings update asked for or in progress (R218): its new body, the commands that complete with it, whether the event of a
fault is raised at its commit (R199), and what its commit brings into effect. -/
structure SetUpdate where
  body   : Settings
  cmds   : List CmdId
  events : Bool
  acts   : List SavedAct := []
deriving DecidableEq, Repr

/-- A mirror of the settings store, of a root checkpoint, and of some journal records in family 3 swaths (R215, R218): what it
holds, and the places of its codewords in order; none is left where a program of it has failed. -/
structure SetMirror where
  copy  : SetCopy
  words : List Nat
deriving DecidableEq, Repr
structure RootMirror where
  img   : RootImg
  words : List Nat
deriving DecidableEq, Repr
structure RecMirror where
  recs  : List JRec
  words : List Nat
deriving DecidableEq, Repr

/-- A mirror as an anchor record names it (R221): its SEQ, the place of its first codeword, and its length in pages. -/
structure MirrorName where
  seq   : Nat := 0
  at_   : Nat := 0
  pages : Nat := 0
deriving DecidableEq, Repr

/-- An anchor record (R221): KIND (false settings, true root), the mirror it names and the one before of that kind, and the commands
that complete when it has been programmed. -/
structure Anchor where
  root    : Bool
  cur     : MirrorName
  before_ : MirrorName := {}
  cmds    : List CmdId := []
deriving DecidableEq, Repr

/-- A page of an anchor block, by block key × 8,192 + page, with the anchor record that fills it. -/
structure AnchorPage where
  key    : Nat
  anchor : Anchor
deriving DecidableEq, Repr

/-- An entry of log page 0xC1 (R264), with the LBA ranges overwritten, zeroed or deallocated since. -/
structure DefEntry where
  nsid     : Nat
  first    : Nat
  count    : Nat
  cause    : Nat
  overflow : Bool
  stamp    : Nat
  cover    : List (Nat × Nat)
deriving DecidableEq, Repr

/-- Who uses an extent of `n` data slots (R202, R258): the unit, the tenant, the reads that hold it, and whether it has
been freed. -/
structure SlotUse where
  n       : Nat
  key     : Nat
  tenant  : Nat
  readers : Nat
  freed   : Bool
deriving DecidableEq, Repr

/-- The Etch buffer (R200 to R227). `deliveries` holds, per function and namespace, the fetch order from which a command
qualifies for a Deferred Write Error (R262). `mem` is the data regions as bytes, at slot × 4,096 + offset; `lastStamp` is the stamp of the latest journal record, discarded
or not (R20). `cpAt` is the tick at which the latest
checkpoint began, `cpMirror` its mirror while an Etch die is lost (R227); `shutRoot`: the checkpoint of a
shutdown has been begun and nothing has run since (R270). `anchorSet` holds the anchor blocks, `anchorNext`, by die,
the next page among them as index × 8,192 + page (R221). -/
structure Etch where
  mem         : List (Nat × Byte) := []
  slots       : List (Nat × SlotUse) := []
  live        : List JRec := []
  moving      : List Built := []
  built       : List Built := []
  seq         : Nat := 0
  tail        : Nat := 0
  lastStamp   : Nat := 0
  mirrorLog   : List RecMirror := []
  mirrorRoots : List RootMirror := []
  rootA       : RootImg := {}
  rootB       : RootImg := {}
  rootActive  : Bool := false
  cpOpen      : Option RootImg := none
  cpMirror    : Option RootMirror := none
  cpAt        : Nat := 0
  shutRoot    : Bool := false
  setA        : SetCopy := {}
  setB        : SetCopy := {}
  setActive   : Bool := false
  setSeq      : Nat := 0
  update      : Option SetUpdate := none
  wanted      : Option SetUpdate := none
  mirrors     : List SetMirror := []
  anchors     : List AnchorPage := []
  anchorsDue  : List Anchor := []
  anchorNext  : List (Nat × Nat) := []
  anchorSet   : List Nat := []
  lost0       : Bool := false
  lost1       : Bool := false
  admitHold   : Bool := false
  jrnlHold    : Bool := false
  badLines0   : Nat := 0
  badLines1   : Nat := 0
  deferred    : List DefEntry := []
  defTotal    : Nat := 0
  defAt       : Nat := 0
  deliveries  : List (Nat × Nat × Nat) := []
deriving DecidableEq, Repr

/-! ### Host interface -/

/-- A completion (R288): status code type and code, DW0, DW1, and the bytes transferred to the host. -/
structure Completion where
  id   : CmdId
  sct  : Nat
  sc   : Nat
  dw0  : Dword
  dw1  : Dword
  data : List Byte
deriving DecidableEq, Repr

/-- Where a command stands between its fetch and its completion (R244, R255); `forwarded`: another device of the cascade has
its data and runs it (R579). -/
inductive Phase where
  | fetched
  | waitOrder
  | waitMap
  | held
  | moving
  | built
  | reading
  | waitEnter
  | running
  | executed
  | aborted
  | forwarded
deriving DecidableEq, Repr

/-- A command in execution (R244), with its LBA range for R256, the order of its fetch, and the LBAs done of a
command that runs in pieces (R205), the codewords still to be read, the bytes gathered for its completion, the blocks
and Etch extents that its read holds (R194, R258), and whether an append has its region (R312). -/
structure ExecCmd where
  cmd    : NvCmd
  opcode : Nat
  order  : Nat
  nsid   : Nat
  slba   : Nat
  nlb    : Nat
  phase  : Phase
  tenant : Nat
  isIo   : Bool
  job    : Option Nat
  done   : Nat
  pend   : Nat
  data   : List Byte
  status : Option (Nat × Nat)
  blocks : List Nat
  slots  : List Nat
  assigned : Bool
deriving DecidableEq, Repr

/-- A submission queue. -/
structure Sq where
  size    : Nat
  cqid    : Nat
  entries : List SqEntry
  tail    : Nat
deriving DecidableEq, Repr

/-- A completion queue with the entries that host software has not freed. -/
structure Cq where
  size   : Nat
  head   : Nat
  vector : Nat
  ien    : Bool
  posted : List Completion
deriving DecidableEq, Repr

/-- The NVMe controller of one function (R241, R242, R250, R270). `cmds` counts the commands fetched; `lastQ` is the
submission queue fetched from last. -/
structure Ctrl where
  en        : Bool := false
  rdy       : Bool := false
  shn       : Bool := false
  shst      : BitVec 2 := 0
  sqs       : List (Nat × Sq) := []
  cqs       : List (Nat × Cq) := []
  features  : List (Nat × Dword) := []
  aers      : List CmdId := []
  aborts    : Nat := 0
  flexQ     : Nat := 0
  flexI     : Nat := 0
  online    : Bool := false
  changedNs : List Nat := []
  masked    : List Nat := []
  cmds      : Nat := 0
  lastQ     : Nat := 0
deriving DecidableEq, Repr

/-- A port of the host link (R234). -/
structure Port where
  speed    : BitVec 4 := 0
  width    : BitVec 5 := 0
  pm       : BitVec 2 := 0
  vfEnable : Bool := false
deriving DecidableEq, Repr

/-- The reservation of a namespace (R249): registrants with their keys, the holder and the type. -/
structure Reservation where
  regs   : List (Nat × Qword) := []
  holder : Option Nat := none
  rtype  : Nat := 0
  ptpl   : Bool := false
  gen    : Nat := 0
deriving DecidableEq, Repr

/-- The host interface (R234 to R274). `sanitizing` is a sanitize in progress (true: crypto erase), `sanitized` that one has
ended. -/
structure HostIf where
  ctrls        : List (Nat × Ctrl) := []
  ports        : List (Nat × Port) := []
  exec         : List ExecCmd := []
  waiting      : List Completion := []
  order        : Nat := 0
  lastFn       : Nat := 0
  reservations : List (Nat × Reservation) := []
  fwImage      : List Byte := []
  fwSlots      : List (Nat × Nat) := []
  fwNext       : Option Nat := none
  sanitizing   : Option Bool := none
  sanitized    : Bool := false
  features     : List (Nat × Dword) := []
  smbus        : List Byte := []
  asyncEvents  : List (Nat × Dword) := []
deriving DecidableEq, Repr

/-! ### Compute channels and jobs -/

/-- A stage of a channel (R278). -/
structure StageDef where
  kind  : Nat
  param : Nat
deriving DecidableEq, Repr

/-- A compute channel (R275, R276). `ctx` are the codec histories carried between its jobs, by stage (R369), `ctxBytes` the
original bytes since the last member with CONT 0; `flows` the channel flows that its program stages hold (R499). -/
structure Channel where
  tenant    : Nat
  fn        : Nat
  src       : Nat
  srcParam  : Nat
  snk       : Nat
  snkParam  : Nat
  stages    : List StageDef
  qdepth    : Nat
  down      : Option Nat := none
  up        : Option Nat := none
  jobs      : List Nat := []
  waitJobs  : List Nat := []
  pool      : Option Nat := none
  areas     : List Nat := []
  ctx       : List (Nat × List Byte) := []
  ctxBytes  : List (Nat × Nat) := []
  items     : Nat := 0
  flows     : List (Nat × Nat) := []
  dying     : Option Bool := none
  temp      : Bool := false
deriving DecidableEq, Repr

/-- A loaded program (R286, R289, R290). -/
structure Program where
  tenant : Nat
  kind   : Nat
  gen    : Nat
  image  : List Byte
  loaded : Nat
  runs   : Nat
  faults : Nat
deriving DecidableEq, Repr

/-- The job descriptor (R295). -/
structure JobDesc where
  flags  : Dword := 0
  iv     : Qword := 0
  src0   : Qword := 0
  src8   : Dword := 0
  snk0   : Qword := 0
  snk8   : Dword := 0
  inLen  : List Nat := []
  outLen : List Nat := []
deriving DecidableEq, Repr

/-- Where an Imlas stage of a job runs (R443, R480): its program and island, the first words of its segments in cluster
memory (a STACK per thread index), its output buffer, its windows (window, region, WRITE), the descriptors reserved for
it by thread index, its core time, its regions, and whether its entry thread has ended. -/
structure ImStage where
  prog     : Nat
  island   : Nat
  codeBase : Nat
  codeLen  : Nat
  dataBase : Nat
  dataLen  : Nat
  stackLen : Nat
  stackBases   : List Nat
  outCap   : Nat
  exactOut : Bool
  out      : List (Nat × Byte)
  windows  : List (Nat × Nat × Bool)
  descs    : List Nat
  limitMs  : Nat
  coreUs   : Nat
  regions  : List Nat
  done     : Bool
deriving DecidableEq, Repr

/-- The cipher stage of a job (R404, R405, R409, R413): the slot with the key as the stage took it, direction and mode, the
next data unit to be requested, the requests out, the units' outputs, and why it fails. -/
structure CipherRun where
  slot    : Nat
  key     : List Byte
  owner   : Nat
  fixed   : Dword
  gcm     : Bool
  encrypt : Bool
  count   : Bool
  next    : Nat
  out     : Nat
  parts   : List (Nat × List Byte)
  failed  : Option (Nat × Nat)
deriving DecidableEq, Repr

/-- A job (R300, R301). `slot` is the channel it is in, `head` the one its command named; `input` is what the stage in turn
takes, `output` what it has given, `cap` the capacity of the sink. A stage is `running`, then `ended` until its output is
released (R500); then the next stage, or the sink. `derives` are the keys that its digest stages derive (R429), `windows`
the windows that its program stages bound at its start (R515). -/
structure Job where
  cmd       : CmdId
  slot      : Nat
  head      : Nat
  tenant    : Nat
  desc      : JobDesc
  entered   : Bool := false
  begun     : Bool := false
  stage     : Nat := 0
  running   : Bool := false
  ended     : Bool := false
  sinking   : Bool := false
  input     : List Byte := []
  output    : List Byte := []
  cap       : Option Nat := none
  rerun     : Bool := false
  item      : Nat := 0
  segs      : Nat := 0
  failed    : Option (Nat × Nat) := none
  failStage : Nat := 15
  chainPos  : Nat := 0
  im        : Option ImStage := none
  cipher    : Option CipherRun := none
  regions   : List Nat := []
  inline    : List Byte := []
  append    : Bool := false
  derives   : List (Nat × Nat × List Byte) := []
  windows   : List (Nat × List (Nat × Nat × Bool)) := []
  sinkLba   : Nat := 0
  sinkPend  : Nat := 0
  pend      : Nat := 0
  blocks    : List Nat := []
  slots     : List Nat := []
deriving DecidableEq, Repr

/-- A drain that waits for jobs (R293). -/
structure Drain where
  id     : CmdId
  slot   : Nat
  jobs   : List Nat
  exp    : Option Nat
  zero   : Bool
deriving DecidableEq, Repr

/-- A Channel Destroy in progress (R292, R310). -/
structure Destroy where
  id    : CmdId
  slots : List Nat
  done  : Nat
  bad   : Bool
deriving DecidableEq, Repr

/-- The channel table and the job queues (R275 to R315). -/
structure Chn where
  slots     : List (Nat × Channel) := []
  gens      : List (Nat × Nat) := []
  epoch     : Nat := 0
  freed     : List Nat := []
  used      : Nat := 0
  programs  : List (Nat × Program) := []
  pgens     : List (Nat × Nat) := []
  pepoch    : Nat := 0
  pfreed    : List Nat := []
  pused     : Nat := 0
  jobs      : List (Nat × Job) := []
  nextJob   : Nat := 0
  drains    : List Drain := []
  destroys  : List Destroy := []
deriving DecidableEq, Repr

/-! ### Lanes and codecs -/

/-- A piece of a lane stage (R320, R321): the job, the piece's number and its bytes, and the offset of its first byte. -/
structure Piece where
  job    : Nat
  index  : Nat
  base   : Nat
  bytes  : List Byte
  tenant : Nat
deriving DecidableEq, Repr

/-- An accumulator of a group, or what the lanes have spilled of it (R337, R338). `sum` is the f64 pattern for f32
values. -/
structure Acc where
  bucket : Nat := 0
  count  : Nat := 0
  sum    : Int := 0
  min    : Dword := 0
  max    : Dword := 0
  worst  : Nat := 0
deriving DecidableEq, Repr

/-- A lane (R321): the piece it runs, that piece's program ID, its resident programs (the latest used last), its loads. -/
structure Lane where
  piece     : Option Piece := none
  prog      : Nat := 0
  residents : List Nat := []
  loads     : Nat := 0
deriving DecidableEq, Repr

/-- The lane stage of a job: its program and program ID, FLN_CFG as the stage began, outputs of its pieces, pieces still
to end, the merge table (the spills of each key, which the merger combines, R302, R338), the failure with the first piece
in source order that failed. -/
structure LaneJob where
  image    : List Byte
  prog     : Nat
  maxLanes : Nat
  skip     : Bool
  outs     : List (Nat × List Byte)
  left     : Nat
  table    : List (Nat × List Acc)
  failed   : Option (Nat × Nat)
  failAt   : Nat
deriving DecidableEq, Repr

/-- Filter lanes (R316 to R346). -/
structure Lanes where
  lanes : List (Nat × Lane) := []
  queue : List Piece := []
  jobs  : List (Nat × LaneJob) := []
deriving DecidableEq, Repr

/-- A codec unit in use by a stage, or a piece that waits for one; `saved` when it was preempted (R371, R372). -/
structure CodecUse where
  pool   : Pool
  unit   : Option Nat
  job    : Nat
  stage  : Nat
  since  : Nat
  tenant : Nat
  saved  : Bool
deriving DecidableEq, Repr

/-- The codec island (R347 to R375): units in use, waiting pieces oldest first, saves since start. -/
structure Codec where
  uses   : List CodecUse := []
  saves  : Nat := 0
deriving DecidableEq, Repr

/-! ### Search -/

/-- An entry of the table (R377). -/
structure CamEntry where
  value  : BitVec 144
  care   : BitVec 144
  tenant : Nat
  prio   : BitVec 16
  valid  : Bool
  width  : BitVec 2
  pos    : BitVec 2
deriving DecidableEq, Repr

/-- A step that waits for its banks (R390), by the path that issued it, with the tenant tag that it carries (R26). -/
structure CamStep where
  path   : Path
  op     : Nat
  index  : Nat
  tag    : Nat := 0
deriving DecidableEq, Repr

/-- The search table (R376 to R401): match array and verification copy by local index, steps waiting, and the
answer of the latest lookup (the full index, none for a miss) with whether it failed under R385; `checkedAt` is the tick of the latest
check of each bank (R386). -/
structure Cam where
  array     : List (Nat × CamEntry) := []
  copy      : List (Nat × CamEntry) := []
  steps     : List CamStep := []
  banksOk   : BitVec 8 := 0xFF
  epoch     : BitVec 8 := 0
  answer    : Option Nat := none
  answerBad : Bool := false
  matchOut  : BitVec 16 := 0xFFFF
  winner    : Option (Nat × Nat) := none
  checkedAt : List (Nat × Nat) := []
deriving DecidableEq, Repr

/-! ### Cipher and digest -/

/-- A request at a cipher island (R409): the job and its data unit, whose key, mode, direction and sequence number or IV its
stage holds; its tenant tag and its data. -/
structure CipherReq where
  job     : Nat
  index   : Nat
  iv      : BitVec 128
  tenant  : Nat
  data    : List Byte
deriving DecidableEq, Repr

/-- A digest message (R426 to R433); `region` is the context area of a path's message (R432). -/
structure Msg where
  alg      : BitVec 2
  dest     : BitVec 2
  bytes    : List Byte
  tenant   : Nat
  opened   : Bool
  finished : Bool
  done     : Bool
  waiting  : Bool
  saved    : Bool
  unit     : Option Nat
  since    : Nat
  order    : Nat
  ctxErr   : Bool
  lenErr   : Bool
  result   : List Byte
  region   : Option Nat := none
deriving DecidableEq, Repr

/-- A cipher island (R402, R407 to R409): the units that hold requests for want of a reseed, its queue, and the slots whose
keys it caches. -/
structure Burin where
  stalled : List Nat := []
  queue   : List CipherReq := []
  cache   : List Nat := []
deriving DecidableEq, Repr

/-- Cipher, digest and key store (R402 to R434). -/
structure Cry where
  slots      : List (Nat × KeySlot) := []
  nsKeys     : List (Nat × KeySlot) := []
  assemblies : List (Nat × Assembly) := []
  drbgOk     : Bool := false
  draws      : Nat := 0
  reseedAt   : Nat := 0
  burin      : List (Nat × Burin) := []
  msgs       : List (DgsOwner × Msg) := []
  msgOrder   : Nat := 0
  expect     : List (DgsOwner × List Byte) := []
  verdicts   : List (DgsOwner × Nat) := []
  early      : List DgsOwner := []
deriving DecidableEq, Repr

/-! ### Threads -/

/-- A thread descriptor (R482) with the thread's registers: the saved context, and while the thread runs the live one.
`g` holds G1 to G31. `wait` names what an instruction waits for (R487): 0 nothing, 1 a digest unit, 2 a flow's window, 3 the
search banks; `waitAt` is the tick at which its latest wait began;
`halted` is a thread in HALT, `flowFail` an FTAKE that clearing EN ends (R503). -/
structure Desc where
  st       : BitVec 4 := 0
  prio     : BitVec 6 := 0
  sup      : Bool := false
  island   : Nat := 0
  lastCore : Option Nat := none
  tenant   : Nat := 0
  flow     : Nat := 0
  flowEn   : Bool := false
  index    : Nat := 0
  job      : Option Nat := none
  restart  : Dword := 0
  wake     : Qword := 0
  runtime  : Nat := 0
  wins     : List (Nat × Nat × Bool) := []
  g        : List (Nat × W36) := []
  pc       : Dword := 0
  sp       : Dword := 0
  fl       : W36 := 0
  bn       : Dword := 0
  ba       : W36 := 0
  bb       : W36 := 0
  qm       : W36 := 1
  timeHi   : Dword := 0
  wait     : Nat := 0
  waitAt   : Nat := 0
  flowFail : Bool := false
  halted   : Bool := false
deriving DecidableEq, Repr

/-- A core (R484 to R492): its thread and the time of its dispatch, the thread in its prefetch slot, and a preemption
that waits for FL.IE. -/
structure Core where
  run    : Option Nat := none
  since  : Nat := 0
  failed : Bool := false
  pf     : Option Nat := none
  pend   : Bool := false
deriving DecidableEq, Repr

/-- A Furrow flow (R496): NEXT, REL, the done items, and the channel that holds it. -/
structure Flow where
  next : Nat := 0
  rel  : Nat := 0
  done : List Nat := []
  chan : Option Nat := none
deriving DecidableEq, Repr

/-- A CODE segment that is resident on an island (R443, R480): its region, its first word, and the jobs that run on it. -/
structure CodeSeg where
  region : Nat
  base   : Nat
  jobs   : List Nat
deriving DecidableEq, Repr

/-- Scheduler and cores (R478 to R503). Ready queues are keyed by island × 64 + priority; cores by island × 8 + core;
cluster words by island × 2^20 + word; local words by core × 2^17 + word; CODE segments by program ID × 8 + island.
`skips` counts, per thread at the head of a queue, the dispatches in a row that passed over it (R484). `created` holds the
supervisor descriptors as CREATE wrote them (R492); `sched11` is an interrupt 11h that waits (R495). -/
structure Sch where
  descs   : List (Nat × Desc) := []
  queues  : List (Nat × List Nat) := []
  skips   : List (Nat × Nat) := []
  cores   : List (Nat × Core) := []
  flows   : List (Nat × Flow) := []
  cluster : List (Nat × W36) := []
  locals  : List (Nat × W36) := []
  codes   : List (Nat × CodeSeg) := []
  created : List (Nat × Desc) := []
  sched11 : Bool := false
deriving DecidableEq, Repr

/-! ### DRAM and arbiters -/

/-- The activation count of a bank in the window, with the tracked pairs (port, tag, count) (R536), the leader whose requests
are held, whether every request is (R537), and the rolling activation count (R538). -/
structure RhBank where
  count : Nat := 0
  pairs : List (Nat × Nat × Nat) := []
  held  : Option (Nat × Nat) := none
  all   : Bool := false
  raa   : Nat := 0
deriving DecidableEq, Repr

/-- A DRAM channel (R526 to R540). `refreshAt` is the tick at which a rank's refresh fell due last,
`postponed` and `pulled` are refreshes put off and done early, by rank (R535); `windowAt` is the start of the window of R536; banks are
numbered bank + 32 × subchannel + 64 × rank; `early` are the values of DRC registers that the channel has taken at its
refresh interval ahead of other channels (R80). -/
structure DChan where
  st        : BitVec 3 := 1
  density   : BitVec 2 := 0
  ranks2    : Bool := false
  rdimm     : Bool := false
  rate      : BitVec 2 := 0
  twox      : Bool := false
  refreshAt : List (Nat × Nat) := []
  windowAt  : Nat := 0
  postponed : List (Nat × Nat) := []
  pulled    : List (Nat × Nat) := []
  banks     : List (Nat × RhBank) := []
  checkLine : Nat := 0
  early     : List (Nat × Dword) := []
deriving DecidableEq, Repr

/-- A request that waits at an arbiter, with its arrival and whether it has aged (R532). -/
structure Waiting where
  req  : ArbReq
  at_  : Nat
  aged : Bool
deriving DecidableEq, Repr

/-- A Stile arbiter (R541 to R546): the grants that run, one in each subchannel of a DRAM channel, with their beats; the
requester of the latest grant; the rank whose refresh waits as the emergency requester (R535), whether an emergency requester
has the resource; the requests that wait,
and those that wait at their port for a credit (R529), oldest first; the grants so far, each a frame (R541). -/
structure Arb where
  grants    : List (Nat × ArbReq) := []
  lastHold  : Nat := 0
  emergency : Option Nat := none
  suspended : Bool := false
  waiting   : List Waiting := []
  atPort    : List ArbReq := []
  frames    : Nat := 0
deriving DecidableEq, Repr

/-- DRAM and arbiters (R526 to R546). `dram` is the bytes of regions. -/
structure Drc where
  chans : List (Nat × DChan) := []
  /-- The population that the training results belong to: a number for each channel. -/
  population : List (Nat × Nat) := []
  arbs  : List (Nat × Arb) := []
  dram  : List (Nat × Byte) := []
deriving DecidableEq, Repr

/-! ### Statistics and thermal -/

/-- A snapshot bank (R550). -/
structure Bank where
  start   : Nat := 0
  stop    : Nat := 0
  index   : Nat := 0
  short   : Bool := false
  stepped : Bool := false
  gap     : Bool := false
  ctrs    : List (Nat × Nat) := []
deriving DecidableEq, Repr

/-- A window group (R547 to R551): the period of the open window in ms (0: the group is stopped), its start and its end, the
flags it will carry, where the next window opens when not at that end, the islands that have reported, those that contribute to
it, and the counts added up. -/
structure Group where
  latest   : Bool := false
  valid    : Bool := false
  bank0    : Bank := {}
  bank1    : Bank := {}
  period   : Nat := 0
  openAt   : Nat := 0
  boundary : Nat := 0
  nextOpen : Option Nat := none
  short    : Bool := false
  stepped  : Bool := false
  gap      : Bool := false
  reported : List Nat := []
  sources  : List Nat := []
  counts   : List (Nat × Nat) := []
deriving DecidableEq, Repr

/-- A sensor (R553, R554). -/
structure Sensor where
  temp    : Int := 0
  suspect : Bool := false
  rounds  : Nat := 0
  broken  : Bool := false
deriving DecidableEq, Repr

/-- Thermal control (R553 to R563). `level` is the pause level without the floor of R559; `hot` the rounds in a row at 120 °C;
`crossed` the feature 04h thresholds crossed, as function × 4 + sensor × 2 + under; `held` the entries that the always-on island
keeps until a start can record them. `roundAt` and `commitAt` are the ticks of the latest round and of the latest commit; `urgent`: an
entry of KIND 06h to 08h is not committed yet (R563). -/
structure Therm where
  sensors   : List (Nat × Sensor) := []
  tjMax     : Int := 0
  tjMedian  : Int := 0
  hotSensor : Nat := 0
  warning   : Bool := false
  throttle  : Bool := false
  level     : Nat := 0
  rounds    : Nat := 0
  fallRounds : Nat := 0
  raising   : Bool := false
  graceAt   : Nat := 0
  hot       : Nat := 0
  held      : List ThermEntry := []
  roundAt   : Nat := 0
  commitAt  : Nat := 0
  urgent    : Bool := false
  tmt1      : Nat := 0
  tmt2      : Nat := 0
  crossed   : List Nat := []
  log       : ThermLog := {}
deriving DecidableEq, Repr

/-! ### Cascade -/

/-- A Tabfer link (R569 to R573); `trainAt` is the tick at which its training began (R570); `asleep`: it was up when a power state
took it down (R584). -/
structure Link where
  st       : BitVec 3 := 0
  peerPos  : Nat := 0
  peerLink : Nat := 0
  peerSerial : Qword := 0
  trainAt  : Nat := 0
  rev      : Bool := false
  polarity : BitVec 8 := 0
  replays  : Nat := 0
  inRow    : Nat := 0
  retry    : List Flit := []
  asleep   : Bool := false
deriving DecidableEq, Repr

/-- The TCB frame a device is sending, with its tries (R575, R576). -/
structure TcbFrame where
  kind  : BitVec 4
  data  : List Byte
  tries : Nat
deriving DecidableEq, Repr

/-- A remote access in progress (R585). -/
structure Remote where
  op   : Nat
  pos  : Nat
  at_  : Nat
deriving DecidableEq, Repr

/-- The cascade (R564 to R585). `roleCode`: 0 alone, 1 master, 2 member, 3 role conflict. `opened`: cascade start has begun, at tick `startAt`,
`settled`: it has ended. Claims, serial numbers, stages and the time of the latest sign of life are by position; `topo` holds
what LINK frames report of the links of others, by position × 4 + link: far end and whether it is up. `recvSeq` is the next
sequence number of each source, `joining` the devices whose links the master trains (R568). -/
structure Cas where
  roleCode   : BitVec 2 := 0
  pos        : Nat := 0
  count      : Nat := 0
  conflict   : BitVec 3 := 0
  ready      : BitVec 8 := 0
  opened     : Bool := false
  startAt    : Nat := 0
  settled    : Bool := false
  roles      : List (Nat × Byte) := []
  serials    : List (Nat × Qword) := []
  dupPos     : Bool := false
  chainFault : Bool := false
  heard      : List (Nat × Nat) := []
  stages     : List (Nat × Nat) := []
  links      : List (Nat × Link) := []
  topo       : List (Nat × (Nat × Bool)) := []
  recvSeq    : List (Nat × Nat) := []
  heldFlits  : List Flit := []
  delivered  : Nat := 0
  tcbQueue   : List TcbFrame := []
  remote     : Option Remote := none
  rmtResult  : BitVec 4 := 0
  joining    : List Nat := []
  lost       : List Nat := []
deriving DecidableEq, Repr

/-! ### The whole device -/

/-- The device's state, and the queue of commands that wait, first in first out. `freeCount` counts the free values
taken (the model's own, log 3). -/
structure State where
  pending   : List Instr := []
  freeCount : Nat := 0
  bus       : Bus := {}
  time      : TimeSt := {}
  power     : Power := {}
  media     : Media := {}
  pcs       : Pcs := {}
  ftl       : Ftl := {}
  etch      : Etch := {}
  host      : HostIf := {}
  tenants   : Tenants := {}
  chn       : Chn := {}
  lanes     : Lanes := {}
  codec     : Codec := {}
  cam       : Cam := {}
  cry       : Cry := {}
  sch       : Sch := {}
  drc       : Drc := {}
  stw       : List (Nat × Group) := []
  therm     : Therm := {}
  cas       : Cas := {}
deriving DecidableEq, Repr

/-- Tenant 1 at the first start: every maximum of R508 and THREAD_PRIO 16 (R511). -/
def tenantOne : Tenant :=
  { enabled := true, prio := 16, channels := 16384, programs := 4096, keySlots := 4096, dramMib := 524288,
    jobs := 65535, etchPct := 100 }

/-- The settings store as manufactured: no records but tenant 1 (log 47). -/
def factorySettings : SetCopy := { ok := true, body := { tenants := [(1, tenantOne)] } }

/-- The device right after reset: the first start after manufacture, before PWR_OK rises. Every register has the value
of its Reset column; a value that the manual does not give is named in the assumption log (entries 3 to 7 and 47). -/
def State.reset : State :=
  { tenants := { recs := [(1, tenantOne)] }
    etch := { setA := factorySettings, setB := factorySettings, rootA := { ok := true }, rootB := { ok := true } } }

end Sys2Proof.Machine
end

