-- ==== Sys2Proof/Machine/Ops.lean ====
section
/-! DEFINITION. The operations that the meanings share: time, free values, register values, event bits, completions. -/

namespace Sys2Proof.Machine

/-- The outcome of a command. -/
abbrev Out := Host.Outcome State Fault Refusal

/-! ### Time (R16 to R18) -/

/-- The master time counter, in ticks of 1 ns. -/
def now (s : State) : Nat := s.time.master.toNat

/-- The time copy of an island (R18): the master value plus the island's offset, and where its clock has stopped what the copy
then was. -/
def islandTime (s : State) (i : Nat) : Nat := (tabGet s.time.stopAt i).getD ((now s : Int) + tabAt 0 s.time.copyOff i).toNat

/-- An island's clock stops: its copy stands still. It runs again: its copy is corrected to the master value (R18). -/
def stopCopy (s : State) (i : Nat) : State :=
  { s with time := { s.time with stopAt := tabPut s.time.stopAt i (islandTime s i) } }
def startCopy (s : State) (i : Nat) : State :=
  { s with time := { s.time with stopAt := tabDel s.time.stopAt i, copyOff := tabDel s.time.copyOff i } }

/-- Ticks in a microsecond, a millisecond, a second. -/
def usTicks : Nat := 1000
def msTicks : Nat := 1000000
def secTicks : Nat := 1000000000

/-- Whether a time that began at `since` has passed. -/
def elapsed (s : State) (since ticks : Nat) : Bool := decide (since + ticks ≤ now s)

/-- Whether what happens once every period is due: it has not happened yet, or a period ago; a counter that has restarted (R20) holds
nothing back (log 142). -/
def isDue (s : State) (last period : Nat) : Bool := last == 0 || decide (now s < last) || elapsed s last period

/-! ### Free values (log 3) -/

/-- The next free value. -/
def freeNow (s : State) : BitVec 64 := Config.freeValue s.freeCount

/-- The state with the next free value taken. -/
def takeFree (s : State) : State := { s with freeCount := s.freeCount + 1 }

/-- The next draw from the CTR_DRBG. -/
def drawNow (s : State) : BitVec 256 := Config.drbg s.cry.draws

/-- The state with a draw taken. -/
def takeDraw (s : State) : State := { s with cry := { s.cry with draws := s.cry.draws + 1 } }

/-! ### Register values -/

/-- The number of a requester path, as GLB_GUARD_ADDR.PATH codes it; a cascade master's path is 3 (log 12). -/
def pathNo : Path → Nat
  | .host => 0
  | .fw => 1
  | .keeper => 2
  | .remote => 3

/-- The key of a register's value: its offset, with the path for a register that exists once per path (R389, R426,
R502). -/
def regKey (d : RegDesc) (p : Path) (off : Nat) : Nat := if d.perPath then off + pathNo p * 2 ^ 26 else off

/-- The reset value of the register at an offset. -/
def resetValue (off : Nat) : Dword :=
  match regDesc (off % 2 ^ 26) with
  | some d => dwordOf d.reset
  | none => 0

/-- The active value stored under a key. -/
def regAt (s : State) (key : Nat) : Dword := tabAt (resetValue key) s.bus.active key

/-- The state with the active value under a key replaced; a value equal to the reset value is not listed. -/
def setReg (s : State) (key : Nat) (v : Dword) : State :=
  { s with bus := { s.bus with active := tabSet (resetValue key) s.bus.active key v } }

/-- The answer of a read on a path (R63): of a dword, or of the lower half of a qword. -/
def answerRead (s : State) (p : Path) (v : Dword) : State :=
  { s with bus := { s.bus with readData := tabPut s.bus.readData (pathNo p) (v.setWidth 64) } }

/-- The answer of the higher half of a qword read on a path (R60). -/
def answerHigh (s : State) (p : Path) (v : Dword) : State :=
  { s with bus := { s.bus with
      readData := tabUpd 0 s.bus.readData (pathNo p) (fun q => v ++ q.setWidth 32) } }

/-- A field of an active value. -/
def regFld (s : State) (key lo w : Nat) : Nat := fld (regAt s key) lo w

/-- A dword with one field replaced. -/
def putFld (v : Dword) (lo w n : Nat) : Dword :=
  dwordOf (v.toNat - place (fld v lo w) lo w + place n lo w)

/-- The state with a field of a register's value replaced. -/
def setRegFld (s : State) (key lo w n : Nat) : State := setReg s key (putFld (regAt s key) lo w n)

/-! ### Status with sequence (R73 to R76) -/

/-- The numbers stored after SEQ advances to `q`: one that would fall outside the window becomes q − 127 (R75). -/
def rsqAge (q : BitVec 8) (bs : List (Nat × BitVec 8)) : List (Nat × BitVec 8) :=
  bs.map (fun e => if 128 ≤ (q - e.2).toNat then (e.1, q - 127) else e)

/-- Event bits set in one cycle: SEQ advances by one and they all take that number (R73). -/
def rsqSet (r : Rsq) (bits : List Nat) : Rsq :=
  let q := r.seq + 1
  { seq := q, bits := bits.foldl (fun t b => tabPut t b q) (rsqAge q r.bits) }

/-- A write of SEQ = n: every bit whose number is at or before n clears (R74). -/
def rsqClear (r : Rsq) (n : BitVec 8) : Rsq := { r with bits := r.bits.filter (fun e => !atOrBefore e.2 n) }

/-- The value an RSQ register reads as. -/
def rsqValue (r : Rsq) : Dword := dwordOf (r.bits.foldl (fun a e => a + 2 ^ e.1) 0 + r.seq.toNat * 2 ^ 24)

/-- The RSQ register at an offset. Each register has a SEQ counter of its own, in a block with several as well: the rule
says one counter without saying whose (DESIGN CHOICE, log 117). -/
def rsqAt (s : State) (off : Nat) : Rsq := tabAt {} s.bus.rsq off

/-- Event bits set in one cycle in the RSQ register at an offset (R73). -/
def raiseBits (s : State) (off : Nat) (bits : List Nat) : State :=
  { s with bus := { s.bus with rsq := tabUpd {} s.bus.rsq off (rsqSet · bits) } }

/-- One event bit set. -/
def raise (s : State) (off bit : Nat) : State := raiseBits s off [bit]

/-- The event bits that a boundary sets, if any (R73, R77). -/
def raiseAll (s : State) (off : Nat) (bits : List Nat) : State := if bits.isEmpty then s else raiseBits s off bits

/-- One event bit set where a condition holds. -/
def raiseIf (c : Bool) (s : State) (off bit : Nat) : State := if c then raise s off bit else s

/-- An uncorrectable word of on-die SRAM (R142): PCS_EVENT.SRAM_UE and its counter. -/
def sramWordLost (s : State) : State :=
  let h := s.ftl.health
  raise { s with ftl := { s.ftl with health := { h with sramUe := h.sramUe + 1 } } } 0xA00050 6

/-- The offsets of the event registers. -/
def evGuard : Nat := 0x50
def evXerr : Nat := 0x58
def evAccess : Nat := 0x60
def evMed (ch : Nat) : Nat := 0x800018 + ch * 0x1000
def evPcs : Nat := 0xA00050
def evFtl : Nat := 0xC00030
def evEtb : Nat := 0xE00030
def evHif : Nat := 0x1000040
def evChn : Nat := 0x1200010
def evFln : Nat := 0x1400018
def evCdc : Nat := 0x1600018
def evCam : Nat := 0x1800010
def evCry : Nat := 0x1A00010
def evSch : Nat := 0x1C00030
def evTnt : Nat := 0x1E00010
def evDrc : Nat := 0x400010
def evArb : Nat := 0x300010
def evStw : Nat := 0x100010
def evThm : Nat := 0x200018
def evCas : Nat := 0x2000030

/-- An address register of GLB: the offset and the path of an access (GLB_GUARD_ADDR, GLB_XERR_ADDR,
GLB_ACCESS_ADDR). -/
def addrValue (p : Path) (off : Nat) : Dword := dwordOf (off % 2 ^ 26 + pathNo p % 4 * 2 ^ 28)

/-- A GLB_ACCESS_STATUS bit set for an access, with GLB_ACCESS_ADDR (R61, R66 to R68, R72). -/
def accessError (s : State) (p : Path) (off bit : Nat) : State :=
  setReg (raise s evAccess bit) 0x64 (addrValue p off)

/-- The power state whose resources new work may use: while a transition waits, the resources being stopped take none (R268). -/
def powerFor (s : State) : Nat := if s.power.changing then Nat.max s.power.pstate s.power.ptarget else s.power.pstate

/-! ### Free running helpers on lists -/

/-- The list with its first element that meets `p` changed by `f`. -/
def updFirst {α : Type} (p : α → Bool) (f : α → α) : List α → List α
  | [] => []
  | x :: xs => if p x then f x :: xs else x :: updFirst p f xs

/-- The tenant tag of a path: firmware and the keeper act with tag 0, BAR2 with the administrator's (R504, R518). -/
def pathTenant : Path → Nat
  | .host => 1
  | .remote => 1
  | .fw => 0
  | .keeper => 0

end Sys2Proof.Machine
end

