-- ==== Sys2Proof/Machine/Pools.lean ====
section
/-! DEFINITION. The engine pools (R27): active units, retired units, spares. -/

namespace Sys2Proof.Machine

/-- The number of a pool, and its active units per instance (R27). The spare is the unit numbered after them. -/
def poolNo : Pool → Nat
  | .ldpc => 0
  | .burin => 1
  | .lane => 2
  | .comp => 3
  | .dec => 4
  | .henc => 5
  | .dgs => 6
def poolUnits : Pool → Nat
  | .ldpc => 16
  | .burin => 8
  | .lane => 8
  | .comp => 32
  | .dec => 64
  | .henc => 8
  | .dgs => 32

/-- Instances of a pool: one per media group for decoders and Burin units (R27). -/
def poolInsts : Pool → Nat
  | .ldpc => 8
  | .burin => 8
  | _ => 1

/-- The record of a pool's instance. -/
def engineKey (p : Pool) (inst : Nat) : Nat := poolNo p * 8 + inst
def engineAt (s : State) (p : Pool) (inst : Nat) : Engine := tabAt {} s.pcs.engines (engineKey p inst)

/-- Whether a unit of an instance is in service. -/
def unitUsable (s : State) (p : Pool) (inst u : Nat) : Bool :=
  let e := engineAt s p inst
  !e.retired.contains u && (decide (u < poolUnits p) || (u == poolUnits p && e.spareUsed))

/-- The units in service, rising. -/
def usableUnits (s : State) (p : Pool) (inst : Nat) : List Nat :=
  (List.range (poolUnits p + 1)).filter (unitUsable s p inst)

/-- Active units of an instance: the count of the pool less the units lost without a spare. -/
def activeUnits (s : State) (p : Pool) (inst : Nat) : Nat := (usableUnits s p inst).length

/-- A failed unit retired, and the spare put in its place where the instance still has one (R27, R148). -/
def retireUnit (s : State) (p : Pool) (inst u : Nat) : State :=
  let e := engineAt s p inst
  let spare := poolUnits p
  let free := !e.spareUsed && !e.retired.contains spare
  let e1 : Engine :=
    if u = spare then { e with retired := e.retired ++ [u], lost := if e.spareUsed then e.lost + 1 else e.lost }
    else { retired := e.retired ++ [u], spareUsed := e.spareUsed || free, lost := if free then e.lost else e.lost + 1 }
  if e.retired.contains u then s
  else { s with pcs := { s.pcs with engines := tabPut s.pcs.engines (engineKey p inst) e1 } }

end Sys2Proof.Machine
end

