-- ==== Sys2Proof/Machine/Aes.lean ====
section
/-! DEFINITION. AES-256 and its modes as the manual uses them: XTS with ciphertext stealing (R403, R404), GCM with a
96-bit IV and no additional data (R405), key wrap KW (R412, R420). The algorithms are those of FIPS 197, IEEE 1619,
SP 800-38D and SP 800-38F (log 16). -/

namespace Sys2Proof.Machine

/-- The AES substitution as one number, byte i at bits [8i+7:8i]. -/
def aesSbox : Nat := 0x16bb54b00f2d99416842e6bf0d89a18cdf2855cee9871e9b948ed9691198f8e19e1dc186b95735610ef6034866b53e708a8bbd4b1f74dde8c6b4a61c2e2578ba08ae7a65eaf4566ca94ed58d6d37c8e779e4959162acd3c25c2406490a3a32e0db0b5ede14b8ee4688902a22dc4f816073195d643d7ea7c41744975fec130ccdd2f3ff1021dab6bcf5389d928f40a351a89f3c507f02f94585334d43fbaaefd0cf584c4a39becb6a5bb1fc20ed00d153842fe329b3d63b52a05a6e1b1a2c830975b227ebe28012079a059618c323c7041531d871f1e5a534ccf73f362693fdb7c072a49cafa2d4adf04759fa7dc982ca76abd7fe2b670130c56f6bf27b777c63
/-- The inverse substitution. -/
def aesInvSbox : Nat := 0x7d0c2155631469e126d677ba7e042b17619953833cbbebc8b0f52aae4d3be0a0ef9cc9939f7ae52d0d4ab519a97f51605fec8027591012b131c7078833a8dd1ff45acd78fec0db9a2079d2c64b3e56fc1bbe18aa0e62b76f89c5291d711af1476edf751ce837f9e28535ade72274ac9673e6b4f0cecff297eadc674f4111913a6b8a130103bdafc1020f3fca8f1e2cd00645b3b80558e4f70ad3bc8c00abd890849d8da75746155edab9edfd5048706c92b6655dcc5ca4d41698688664f6f87225d18b6d49a25b76b224d92866a12e084ec3fa420b954cee3d23c2a632947b54cbe9dec444438e3487ff2f9b8239e37cfbd7f3819ea340bf38a53630d56a0952

/-- The substitution of a byte. -/
def aesSub (b : Nat) : Nat := natFld aesSbox (8 * b) 8
def aesInvSub (b : Nat) : Nat := natFld aesInvSbox (8 * b) 8

/-- Doubling in GF(2^8). -/
def gfDouble (b : Nat) : Nat := if b < 128 then 2 * b else (2 * b) ^^^ 0x11B

/-- Product in GF(2^8) by a factor below 16. -/
def gfMul (b k : Nat) : Nat :=
  let b2 := gfDouble b
  let b4 := gfDouble b2
  let b8 := gfDouble b4
  (if k.testBit 0 then b else 0) ^^^ (if k.testBit 1 then b2 else 0) ^^^ (if k.testBit 2 then b4 else 0)
    ^^^ (if k.testBit 3 then b8 else 0)

/-- Bytewise exclusive or of two lists of byte values. -/
def xorNats (a b : List Nat) : List Nat := List.zipWith (· ^^^ ·) a b

/-- The element of a list of numbers at an index, 0 past its end. -/
def natAt (l : List Nat) (i : Nat) : Nat := (l[i]?).getD 0

/-- Words of the AES-256 key schedule after the `n`-th, newest first, from the words so far. -/
def aesExpand : Nat → Nat → List (List Nat) → List (List Nat)
  | 0, _, ws => ws
  | n + 1, i, ws =>
    let prev := (ws[0]?).getD []
    let back := (ws[7]?).getD []
    let t :=
      if i % 8 = 0 then
        let r := (prev.drop 1 ++ prev.take 1).map aesSub
        xorNats r [2 ^ (i / 8 - 1), 0, 0, 0]
      else if i % 8 = 4 then prev.map aesSub
      else prev
    aesExpand n (i + 1) (xorNats back t :: ws)

/-- The 15 round keys of a 32-byte key, as byte values. -/
def aesKeys (key : List Byte) : List (List Nat) :=
  let ks := key.map (·.toNat)
  let w0 := (chunks 4 ks).reverse
  let ws := (aesExpand 52 8 w0).reverse
  (chunks 4 ws).map (fun q => q.foldl (· ++ ·) [])

/-- ShiftRows on 16 byte values in column order; `d` is 1 forward and 3 inverse. -/
def aesShift (d : Nat) (s : List Nat) : List Nat :=
  (List.range 16).map (fun i => natAt s ((i + 4 * d * (i % 4)) % 16))

/-- MixColumns on one column with the coefficients of its first row. -/
def aesMixCol (c : List Nat) (k0 k1 k2 k3 : Nat) : List Nat :=
  (List.range 4).map (fun r =>
    gfMul (natAt c r) k0 ^^^ gfMul (natAt c ((r + 1) % 4)) k1 ^^^ gfMul (natAt c ((r + 2) % 4)) k2
      ^^^ gfMul (natAt c ((r + 3) % 4)) k3)

def aesMix (k0 k1 k2 k3 : Nat) (s : List Nat) : List Nat :=
  ((chunks 4 s).map (fun c => aesMixCol c k0 k1 k2 k3)).foldl (· ++ ·) []

/-- One block encrypted under expanded keys. -/
def aesEncBlock (ks : List (List Nat)) (b : List Nat) : List Nat :=
  let s0 := xorNats b ((ks[0]?).getD [])
  let s1 := ((ks.drop 1).take 13).foldl
    (fun s k => xorNats (aesMix 2 3 1 1 (aesShift 1 (s.map aesSub))) k) s0
  xorNats (aesShift 1 (s1.map aesSub)) ((ks[14]?).getD [])

/-- One block decrypted under expanded keys. -/
def aesDecBlock (ks : List (List Nat)) (b : List Nat) : List Nat :=
  let s0 := xorNats b ((ks[14]?).getD [])
  let s1 := ((ks.drop 1).take 13).reverse.foldl
    (fun s k => aesMix 14 11 13 9 (xorNats ((aesShift 3 s).map aesInvSub) k)) s0
  xorNats ((aesShift 3 s1).map aesInvSub) ((ks[0]?).getD [])

/-- Byte values of bytes, and back. -/
def natsOf (bs : List Byte) : List Nat := bs.map (·.toNat)
def bytesOf (ns : List Nat) : List Byte := ns.map (BitVec.ofNat 8)

/-- The number of a little-endian list of byte values. -/
def leNum (ns : List Nat) : Nat := ns.foldr (fun b a => b + 256 * a) 0
/-- The `k` little-endian byte values of a number. -/
def leNums (n k : Nat) : List Nat := (leBytes n k).map (·.toNat)

/-! ### XTS (IEEE 1619) -/

/-- The next tweak: the product by the primitive element. -/
def xtsNext (t : Nat) : Nat := if t < 2 ^ 127 then 2 * t else (2 * t - 2 ^ 128) ^^^ 0x87

/-- One XTS block. -/
def xtsBlock (enc : Bool) (ks : List (List Nat)) (t : Nat) (b : List Nat) : List Nat :=
  let tb := leNums t 16
  xorNats (if enc then aesEncBlock ks (xorNats b tb) else aesDecBlock ks (xorNats b tb)) tb

/-- The blocks of a data unit from tweak `t`; `enc` false decrypts. The last partial block steals from the one before. -/
def xtsRun (enc : Bool) (ks : List (List Nat)) : Nat → Nat → List Nat → List Nat
  | 0, _, _ => []
  | n + 1, t, l =>
    if l.length < 16 then []
    else if 16 < l.length && l.length < 32 then
      let a := l.take 16
      let tail := l.drop 16
      let t1 := if enc then t else xtsNext t
      let t2 := if enc then xtsNext t else t
      let cc := xtsBlock enc ks t1 a
      xtsBlock enc ks t2 (tail ++ cc.drop tail.length) ++ cc.take tail.length
    else xtsBlock enc ks t (l.take 16) ++ xtsRun enc ks n (xtsNext t) (l.drop 16)

/-- A data unit of at least 16 bytes under a 64-byte XTS-256 key, with its sequence number. -/
def xtsUnit (enc : Bool) (key : List Byte) (seq : Nat) (data : List Byte) : List Byte :=
  let k1 := aesKeys (key.take 32)
  let k2 := aesKeys ((key.drop 32).take 32)
  let t := leNum (aesEncBlock k2 (leNums seq 16))
  bytesOf (xtsRun enc k1 data.length t (natsOf data))

/-! ### GCM (SP 800-38D) -/

/-- Product in GF(2^128), bit 127 of the number being the coefficient of x^0. -/
def ghashMul : Nat → Nat → Nat → Nat → Nat
  | 0, _, _, z => z
  | n + 1, x, v, z =>
    let z' := if x.testBit n then z ^^^ v else z
    let v' := if v % 2 = 1 then (v / 2) ^^^ (0xE1 <<< 120) else v / 2
    ghashMul n x v' z'

/-- GHASH over 16-byte blocks. -/
def ghash (h : Nat) (blocks : List (List Byte)) : Nat :=
  blocks.foldl (fun y b => ghashMul 128 (y ^^^ beNat (padTo 16 b)) h 0) 0

/-- Counter mode from counter block `iv ‖ ctr`. -/
def ctrRun (ks : List (List Nat)) (iv : List Byte) : Nat → Nat → List Byte → List Byte
  | 0, _, _ => []
  | n + 1, ctr, l =>
    if l.isEmpty then []
    else
      let k := aesEncBlock ks (natsOf (iv ++ beBytes ctr 4))
      bytesOf (xorNats (natsOf (l.take 16)) k) ++ ctrRun ks iv n (ctr + 1) (l.drop 16)

/-- The tag of a ciphertext. -/
def gcmTag (key iv ct : List Byte) : List Byte :=
  let ks := aesKeys key
  let h := beNat (bytesOf (aesEncBlock ks (List.replicate 16 0)))
  let s := ghash h (chunks 16 ct ++ [beBytes 0 8 ++ beBytes (8 * ct.length) 8])
  bytesOf (xorNats (natsOf (beBytes s 16)) (aesEncBlock ks (natsOf (iv ++ beBytes 1 4))))

/-- GCM encryption: the ciphertext and the tag after it. -/
def gcmEncrypt (key iv pt : List Byte) : List Byte :=
  let ct := ctrRun (aesKeys key) iv pt.length 2 pt
  ct ++ gcmTag key iv ct

/-- GCM decryption of a ciphertext and the tag after it; none where the tag does not verify. -/
def gcmDecrypt (key iv l : List Byte) : Option (List Byte) :=
  if l.length < 16 then none
  else
    let ct := l.take (l.length - 16)
    if gcmTag key iv ct = l.drop (l.length - 16) then some (ctrRun (aesKeys key) iv ct.length 2 ct) else none

/-! ### Key wrap (SP 800-38F KW) -/

/-- One step of the unwrap: the integrity register and the semiblocks, at step `t` for semiblock `i`. -/
def kwStep (ks : List (List Nat)) (n t : Nat) (ar : List Byte × List (List Byte)) : List Byte × List (List Byte) :=
  let i := (t - 1) % n
  let a := beBytes (beNat ar.1 ^^^ t) 8
  let b := bytesOf (aesDecBlock ks (natsOf (a ++ (ar.2[i]?).getD [])))
  (b.take 8, ar.2.set i (b.drop 8))

/-- The unwrap of a wrapped key; none where the integrity check fails. -/
def kwUnwrap (kek c : List Byte) : Option (List Byte) :=
  let n := c.length / 8 - 1
  let ks := aesKeys kek
  let r := (List.range (6 * n)).reverse.foldl (fun ar t => kwStep ks n (t + 1) ar) (c.take 8, chunks 8 (c.drop 8))
  if r.1 = List.replicate 8 (0xA6 : Byte) then some (r.2.foldl (· ++ ·) []) else none

end Sys2Proof.Machine
end

