-- ==== Sys2Proof/Machine/Channel.lean ====
section
/-! DEFINITION. Media channels and their dies: which serve, how their data is read, the rate step and its training (R87 to R93,
R103, R108, R110). -/

namespace Sys2Proof.Machine

/-! ### Channels and dies -/

def chanOff : BitVec 3 := 0
def chanBringUp : BitVec 3 := 1
def chanActive : BitVec 3 := 2
def chanRetraining : BitVec 3 := 3
def chanFenced : BitVec 3 := 4

def dieAbsent : BitVec 4 := 0
def dieActive : BitVec 4 := 1
def dieStranger : BitVec 4 := 2
def dieCollision : BitVec 4 := 3
def dieFailed : BitVec 4 := 4
def dieFencedWith : BitVec 4 := 5

/-- The channel n. -/
def chanAt (s : State) (n : Nat) : Chan := tabAt {} s.media.chans n

/-- A channel changed. -/
def updChan (s : State) (n : Nat) (g : Chan → Chan) : State :=
  { s with media := { s.media with chans := tabUpd {} s.media.chans n g } }

/-- A die by its device-wide number (R87). -/
def dieAt (s : State) (die : Nat) : Die := tabAt {} (chanAt s (die / 16)).dies (die % 16)

/-- A die changed. -/
def updDie (s : State) (die : Nat) (g : Die → Die) : State :=
  updChan s (die / 16) (fun c => { c with dies := tabUpd {} c.dies (die % 16) g })

/-- Whether a channel has finished bring-up and serves its dies, if not at this moment (R105, R108). -/
def chanServes (c : Chan) : Bool := c.st == chanActive || c.st == chanRetraining

/-- Whether new stripe pages may be placed on a die (R116, R166). -/
def dieUsable (s : State) (die : Nat) : Bool :=
  (dieAt s die).st == dieActive && chanServes (chanAt s (die / 16)) && !s.media.excluded.getLsbD (die / 256)

/-- Whether a die can take a command now: its channel's bus is neither retraining nor under a pin test (R108, R111). -/
def dieOpen (s : State) (die : Nat) : Bool :=
  let c := chanAt s (die / 16)
  (dieAt s die).st == dieActive && c.st == chanActive && !c.pinRunning

/-- Whether a die may start a program or an erase now: its WPGg_N is high besides (R89, R108). -/
def dieWritable (s : State) (die : Nat) : Bool := dieOpen s die && s.power.wpg.getLsbD (die / 256)

/-- Every channel fenced. -/
def fencedChans (s : State) : List Nat := tabKeys (fun c => c.st == chanFenced) s.media.chans

/-- How the data of a die is read: at its place; by stripe reconstruction, where the die is lost, its channel waits for its
background training, or retrains while no channel is fenced; or not before its channel is at hand again, nor before the checkers
have passed their tests (R97, R102, R105, R108, R111, R147). -/
inductive ReadWay where
  | direct
  | stripe
  | held
deriving DecidableEq, Repr

def readWay (s : State) (die : Nat) : ReadWay :=
  let c := chanAt s (die / 16)
  if !s.power.tested then .held
  else if c.st = chanFenced || c.background then .stripe
  else if c.st = chanRetraining then (if (fencedChans s).isEmpty then .stripe else .held)
  else if c.st ≠ chanActive then .held
  else if (dieAt s die).st ≠ dieActive then .stripe
  else if c.pinRunning then .held
  else .direct

/-- Whether a die can be read at its place, as a member of a stripe to be reconstructed. -/
def dieReadable (s : State) (die : Nat) : Bool :=
  let c := chanAt s (die / 16)
  c.st == chanActive && !c.background && (dieAt s die).st == dieActive

/-! ### Rate (R93, R103, R110) -/

/-- The base of a channel's registers. -/
def medBase (ch : Nat) : Nat := 0x800000 + ch * 0x1000

/-- RATE_MAX as it applies, the highest rate every active die declares, and the cap of a power state. -/
def rateMax (s : State) (ch : Nat) : Nat := min 6 (regFld s (medBase ch + 8) 0 3)
def dieRate (c : Chan) : Nat :=
  c.dies.foldl (fun m d => if d.2.st = dieActive then min m d.2.params.rate.toNat else m) 6
def powerRate (p : Nat) : Nat := if p = 1 then 4 else if p = 2 then 2 else 6

/-- The rate step that R93 gives in a power state. -/
def rateStep (s : State) (ch p : Nat) : Nat :=
  let c := chanAt s ch
  min (min (rateMax s ch) (dieRate c)) (min (powerRate p) c.trained.toNat)

/-- The rate step in force and what set it: the first of training, power state, dies, RATE_MAX. -/
def settleRate (s : State) (ch : Nat) : State :=
  let c := chanAt s ch
  let r := rateStep s ch s.power.pstate
  let why : Nat :=
    if c.trained.toNat = r then 3 else if powerRate s.power.pstate = r then 2 else if dieRate c = r then 1 else 0
  updChan s ch (fun c => { c with rate := BitVec.ofNat 3 r, limit := BitVec.ofNat 2 why })

/-- The active dies of a channel, device-wide. -/
def activeOf (s : State) (ch : Nat) : List Nat :=
  ((chanAt s ch).dies.filter (fun d => d.2.st == dieActive)).map (fun d => ch * 16 + d.1)

/-- Whether a channel's training for a step is stored. -/
def hasTraining (s : State) (ch step : Nat) : Bool :=
  (activeOf s ch).all (fun d => (tabGet s.media.training (d * 8 + step)).isSome)

/-- The values that a training reaches, which the manual does not give (FREE VALUE, log 121). -/
def trainingOf (n : Nat) : Training :=
  let v := (Config.trained n).toNat
  let byte (i : Nat) : Nat := natFld v (8 * i) 8
  { dqIn := (List.range 8).map byte, dqOut := (List.range 8).map (fun i => byte (8 + i))
    duty := (List.range 4).map (fun i => byte (16 + i)), vref := byte 20, drive := byte 21, odt := byte 22 }

/-- A die trained at a step (R103). -/
def trainDie (step : Nat) (s : State) (die : Nat) : State :=
  let s1 := takeFree s
  { s1 with media := { s1.media with training := tabPut s1.media.training (die * 8 + step) (trainingOf s.freeCount) } }

/-- A channel trained at a step: every active die. -/
def trainChan (s : State) (ch step : Nat) : State := (activeOf s ch).foldl (trainDie step) s

/-- The three steps for which the settings store keeps training (R103). -/
def keptSteps (s : State) (ch : Nat) : List Nat := [rateStep s ch 0, 4, 2]

/-- The training that the settings store keeps. -/
def keptTraining (s : State) : List (Nat × Training) :=
  s.media.training.filter (fun e => (keptSteps s (e.1 / 128)).contains (e.1 % 8))

/-- The step in force settled anew (R110): one whose training is stored is taken at once and costs no training; for another a
retraining becomes due, which runs at that step. -/
def changeRate (s : State) (ch : Nat) : State :=
  let c := chanAt s ch
  let r := rateStep s ch s.power.pstate
  if !chanServes c then s
  else if c.st = chanActive && hasTraining s ch r then settleRate s ch
  else if r = c.rate.toNat then settleRate s ch
  else updChan s ch (fun c => { c with due := true })


/-- The dies that answer and are not active. -/
def awayDies (s : State) : List Nat :=
  (s.media.chans.map (fun c => (c.2.dies.filter (fun d => d.2.st ≠ dieActive && d.2.st ≠ dieAbsent)).map
    (fun d => c.1 * 16 + d.1))).foldl (· ++ ·) []

end Sys2Proof.Machine
end

