-- ==== Sys2Proof/Machine/HostOps.lean ====
section
/-! DEFINITION. What the commands of host software share: functions and tenants, statuses, the life of a command in
execution, completions, asynchronous events. Status codes are those of the NVMe specifications (log 13). -/

namespace Sys2Proof.Machine

/-! ### Functions (R234 to R236) -/

/-- Functions per port in the mode in force (R234). -/
def fnsPerPort (s : State) : Nat :=
  if s.power.linkMode = 0 then 1024 else if s.power.linkMode = 1 then 512 else 256

/-- Ports in the mode in force (R234). -/
def portCount (s : State) : Nat := if s.power.linkMode = 0 then 1 else if s.power.linkMode = 1 then 2 else 4

/-- The port of a function (R236). -/
def fnPort (s : State) (f : Nat) : Nat := f / fnsPerPort s

/-- Whether a function is a physical function (R236). -/
def isPhysical (s : State) (f : Nat) : Bool := f % fnsPerPort s = 0

/-- The tenant that a function belongs to (R236): bound by Tenant Configure, otherwise 1 for a physical function and
F + 1 for a virtual one. -/
def fnTenant (s : State) (f : Nat) : Nat :=
  match tabGet s.tenants.bind f with
  | some t => t
  | none => if isPhysical s f then 1 else f + 1

/-! ### Statuses (status code type, status code) -/

abbrev Status := Nat × Nat

def stSuccess : Status := (0, 0x00)
def stInvalidOpcode : Status := (0, 0x01)
def stInvalidField : Status := (0, 0x02)
def stDataTransfer : Status := (0, 0x04)
def stInternal : Status := (0, 0x06)
def stAbortRequested : Status := (0, 0x07)
def stInvalidNs : Status := (0, 0x0B)
def stSequence : Status := (0, 0x0C)
def stSglCount : Status := (0, 0x0E)
def stSglLength : Status := (0, 0x0F)
def stSglType : Status := (0, 0x11)
def stSanitizing : Status := (0, 0x1D)
def stWriteProtected : Status := (0, 0x20)
def stLbaRange : Status := (0, 0x80)
def stCapacity : Status := (0, 0x81)
def stNotReady : Status := (0, 0x82)
def stReservation : Status := (0, 0x83)
def stCqInvalid : Status := (1, 0x00)
def stInvalidQid : Status := (1, 0x01)
def stInvalidQsize : Status := (1, 0x02)
def stAbortLimit : Status := (1, 0x03)
def stAerLimit : Status := (1, 0x05)
def stInvalidSlot : Status := (1, 0x06)
def stInvalidImage : Status := (1, 0x07)
def stInvalidVector : Status := (1, 0x08)
def stInvalidLog : Status := (1, 0x09)
def stInvalidFormat : Status := (1, 0x0A)
def stFwReset : Status := (1, 0x0B)
def stQueueDeletion : Status := (1, 0x0C)
def stNotSaveable : Status := (1, 0x0D)
def stFwOverlap : Status := (1, 0x14)
def stNsCapacity : Status := (1, 0x15)
def stNsUnavailable : Status := (1, 0x16)
def stNsAttached : Status := (1, 0x18)
def stNsNotAttached : Status := (1, 0x1A)
def stCtrlList : Status := (1, 0x1C)
def stCtrlId : Status := (1, 0x1F)
def stSecState : Status := (1, 0x20)
def stResCount : Status := (1, 0x21)
def stResId : Status := (1, 0x22)
def stUnrecovered : Status := (2, 0x81)
def stCompareFail : Status := (2, 0x85)
def stAccessDenied : Status := (2, 0x86)
def stDeferred : Status := (7, 0x80)
def stInvalidHandle : Status := (7, 0x81)
def stChanDestroyed : Status := (7, 0x82)
def stLengthMismatch : Status := (7, 0x83)
def stOutputSpace : Status := (7, 0x84)
def stIllegalCode : Status := (7, 0x85)
def stDistance : Status := (7, 0x86)
def stOverrun : Status := (7, 0x87)
def stCheckValue : Status := (7, 0x88)
def stKeyLimit : Status := (7, 0x89)
def stResultEarly : Status := (7, 0x8A)
def stProgramFault : Status := (7, 0x8B)
def stQuota : Status := (7, 0x8C)
def stEngineFault : Status := (7, 0x8D)

/-! ### Controllers -/

/-- The controller of a function. -/
def ctrlAt (s : State) (f : Nat) : Ctrl := tabAt {} s.host.ctrls f

/-- The state with a function's controller changed. -/
def updCtrl (s : State) (f : Nat) (g : Ctrl → Ctrl) : State :=
  { s with host := { s.host with ctrls := tabUpd {} s.host.ctrls f g } }

/-! ### Commands in execution (R244) -/

/-- The command in execution with an identifier. -/
def findCmd (s : State) (id : CmdId) : Option ExecCmd := s.host.exec.find? (fun e => e.cmd.id == id)

/-- The state with a command in execution changed. -/
def updCmd (s : State) (id : CmdId) (g : ExecCmd → ExecCmd) : State :=
  { s with host := { s.host with exec := updFirst (fun e => e.cmd.id == id) g s.host.exec } }

/-- A fresh record of a command in execution. -/
def newExec (s : State) (c : NvCmd) (opcode : Nat) (isIo : Bool) : ExecCmd :=
  { cmd := c, opcode := opcode, order := s.host.order, nsid := c.nsid.toNat, slba := 0, nlb := 0, phase := .fetched,
    tenant := fnTenant s c.id.fn, isIo := isIo, job := none, done := 0, pend := 0, data := [], status := none,
    blocks := [], slots := [], assigned := false }

/-- The command is in execution: as fetched, or recorded now when its fetch has not been (log 14). Its dwords are those
of the row. -/
def intake (s : State) (c : NvCmd) (opcode : Nat) (isIo : Bool) : State :=
  match findCmd s c.id with
  | some _ => updCmd s c.id (fun e => { e with cmd := c, opcode := opcode, nsid := c.nsid.toNat, isIo := isIo })
  | none =>
    { s with host := { s.host with exec := s.host.exec ++ [newExec s c opcode isIo], order := s.host.order + 1 } }

/-- The completion queue of a submission queue. -/
def cqOf (s : State) (f qid : Nat) : Nat := ((tabGet (ctrlAt s f).sqs qid).map (·.cqid)).getD qid

/-- Whether a completion queue has no free entry (R245). -/
def cqFull (s : State) (f cqid : Nat) : Bool :=
  match tabGet (ctrlAt s f).cqs cqid with
  | some q => decide (q.size ≤ q.posted.length + 1)
  | none => false

/-- A command executed: its completion waits to be posted (R244, R245). A completion for a full queue sets
HIF_EVENT.CQ_HOLD. -/
def completeWith (s : State) (id : CmdId) (st : Status) (dw0 dw1 : Dword) (data : List Byte) : State :=
  let s1 := updCmd s id (fun e => { e with phase := .executed, status := some st, data := data })
  let c : Completion := { id := id, sct := st.1, sc := st.2, dw0 := dw0, dw1 := dw1, data := data }
  let s2 := { s1 with host := { s1.host with waiting := s1.host.waiting ++ [c] } }
  raiseIf (cqFull s id.fn (cqOf s id.fn id.qid)) s2 evHif 1

/-- A command completed with a status and nothing else. -/
def complete (s : State) (id : CmdId) (st : Status) : State := completeWith s id st 0 0 []

/-- A command completed with a status that is never a success. -/
def failCmd (s : State) (id : CmdId) (st : Status) : State := complete s id st

/-- Commands dropped without completion (R86, R239). -/
def dropCmds (s : State) (p : CmdId → Bool) : State :=
  { s with host := { s.host with
      exec := s.host.exec.filter (fun e => !p e.cmd.id)
      waiting := s.host.waiting.filter (fun c => !p c.id) } }

/-! ### Features (R250) -/

/-- The key of a feature of a controller: the feature identifier, with the selector of a threshold or a vector above it. -/
def featKey (fid sel : Nat) : Nat := fid + 256 * sel

/-- The key of a saved value: the function, and the key within it. -/
def savedKey (f key : Nat) : Nat := f * 2 ^ 24 + key

/-- The value in force: the current one, else the saved one, else the default. -/
def featureAt (s : State) (f key : Nat) (d : Dword) : Dword :=
  match tabGet (ctrlAt s f).features key with
  | some v => v
  | none => tabAt d s.host.features (savedKey f key)

/-! ### Asynchronous events -/

/-- DW0 of an asynchronous event: type, information, log page identifier. -/
def asyncDword (ty info log : Nat) : Dword := dwordOf (place ty 0 3 + place info 8 8 + place log 16 8)

/-- Whether feature 0Bh lets an event through: the SMART warnings and the notices have a bit each (log 13). -/
def asyncEnabled (s : State) (f : Nat) (dw : Dword) : Bool :=
  let info := fld dw 8 8
  let cfg := featureAt s f 0x0B 0xFFFFFFFF
  if fld dw 0 3 = 1 then bitOf cfg (if info = 0 then 2 else if info = 1 then 1 else 0)
  else if fld dw 0 3 = 2 then bitOf cfg (8 + info)
  else true

/-- An asynchronous event for one controller: it completes an outstanding request, or waits for one. An event type
stays masked until its log page is read. -/
def asyncEvent (s : State) (f : Nat) (dw : Dword) : State :=
  let c := ctrlAt s f
  if !asyncEnabled s f dw then s else
  match c.aers with
  | id :: rest =>
    if c.masked.contains (fld dw 0 3) then
      { s with host := { s.host with asyncEvents := s.host.asyncEvents ++ [(f, dw)] } }
    else
      completeWith (updCtrl s f (fun k => { k with aers := rest, masked := k.masked ++ [fld dw 0 3] })) id stSuccess dw 0 []
  | [] =>
    if s.host.asyncEvents.contains (f, dw) then s
    else { s with host := { s.host with asyncEvents := s.host.asyncEvents ++ [(f, dw)] } }

/-- An asynchronous event for each of several controllers. -/
def asyncAll (s : State) (fs : List Nat) (dw : Dword) : State := fs.foldl (fun t f => asyncEvent t f dw) s

/-- The functions whose controllers are enabled. -/
def enabledFns (s : State) : List Nat := tabKeys (·.en) s.host.ctrls

/-- The asynchronous event of a fault of R46, to every enabled controller, with log page 0xC0 (R49, log 15). -/
def faultEvent (s : State) : State := asyncAll s (enabledFns s) (asyncDword 7 0 0xC0)

/-! ### The checks of a command (R10, R246) -/

/-- Whether a list of reserved masks and dwords are all zero (R10). -/
def reservedOk (l : List (Dword × Nat)) : Bool := l.all (fun e => e.1.toNat &&& e.2 == 0)

/-- What an NVMe command always reserves here: CDW0 bits [13:10], CDW2 and CDW3. -/
def c23 (c : NvCmd) : List (Dword × Nat) := [(dwordOf c.c0.toNat, 0xF), (c.c2, 0xFFFFFFFF), (c.c3, 0xFFFFFFFF)]

/-- CDW12 to CDW15, of a command that does not use them. -/
def c12on (c : NvCmd) : List (Dword × Nat) :=
  [(c.c12, 0xFFFFFFFF), (c.c13, 0xFFFFFFFF), (c.c14, 0xFFFFFFFF), (c.c15, 0xFFFFFFFF)]

/-- The SGL checks of R246 for a transfer of `len` bytes, toward the device or not. -/
def sglCheck (p : DataPtr) (toDevice : Bool) (len : Nat) : Option Status :=
  match p with
  | .prp => none
  | .sgl count bucket total =>
    if 4096 < count then some stSglCount
    else if bucket && toDevice then some stSglType
    else if total ≠ len then some stSglLength
    else none

/-- Whether a namespace is attached to the controller of a function. -/
def attachedTo (n : Namespace) (f : Nat) : Bool := n.attach.contains f

/-- The namespace of an I/O command: it exists and is attached to the issuing controller (R615). -/
def nsFor (s : State) (f nsid : Nat) : Option Namespace :=
  match tabGet s.ftl.namespaces nsid with
  | some n => if attachedTo n f then some n else none
  | none => none

/-- Whether a namespace's data lies on another device of the cascade, and whether that device is not there (R579, R581). -/
def homeAway (s : State) (n : Namespace) : Bool := n.home ≠ s.cas.pos
def homeLost (s : State) (n : Namespace) : Bool := homeAway s n && !s.cas.ready.getLsbD n.home

/-- A command that runs on another device of the cascade: `done` keeps that device's position. -/
def forwardCmd (s : State) (id : CmdId) (home : Nat) : State :=
  updCmd s id (fun e => { e with phase := .forwarded, done := home })

/-! ### The run of a command -/

/-- The first check that fails (R298). -/
def firstBad : List (Option Status) → Option Status
  | [] => none
  | some st :: _ => some st
  | none :: t => firstBad t

/-- A check: its status where a condition holds. -/
def badIf (c : Bool) (st : Status) : Option Status := if c then some st else none

/-- A command that has been fetched: it is admitted, fails its first failing check, or runs (R244). A command that is already
past its fetch is left as it is. -/
def cmdRun (s : State) (c : NvCmd) (op : Nat) (isIo : Bool) (check : State → Option Status) (run : State → State) : State :=
  let s1 := intake s c op isIo
  match findCmd s1 c.id with
  | none => s1
  | some e =>
    if e.phase ≠ .fetched then s
    else
      match check s1 with
      | some st => failCmd s1 c.id st
      | none => run s1

/-- A command answered with data for the host: Data Transfer Error where host memory does not answer (R247). -/
def answerData (s : State) (c : NvCmd) (dw0 : Dword) (data : List Byte) : State :=
  if !data.isEmpty && !c.memOk then failCmd s c.id stDataTransfer else completeWith s c.id stSuccess dw0 0 data

/-- The checks that every admin command but those of R45 begins with: settings recovery, reserved fields (R10), a data pointer
of PRPs (R246). -/
def adminChecks (s : State) (c : NvCmd) (reserved : List (Dword × Nat)) : Option Status :=
  firstBad [badIf s.power.settingsRecovery stNotReady, badIf (!reservedOk reserved) stInvalidField,
    badIf (c.ptr ≠ .prp) stInvalidField]

end Sys2Proof.Machine
end

