-- ==== Sys2Proof/Machine/Storage.lean ====
section
/-! DEFINITION. The map, the Etch buffer and the journal: the operations that writes, reads, the Gleaner and the start
share (R154 to R164, R189 to R216). -/

namespace Sys2Proof.Machine

/-! ### Map entries (R157) -/

def eKind (e : Qword) : Nat := natFld e.toNat 62 2
def eComp (e : Qword) : Bool := natFld e.toNat 61 1 == 1
def eLen (e : Qword) : Nat := natFld e.toNat 57 4 + 1
def eDie (e : Qword) : Nat := natFld e.toNat 46 11
def eBlock (e : Qword) : Nat := natFld e.toNat 32 14
def ePage (e : Qword) : Nat := natFld e.toNat 19 13
def eCw (e : Qword) : Nat := natFld e.toNat 17 2
def ePoison (e : Qword) : Nat := natFld e.toNat 1 16
def eSlot (e : Qword) : Nat := natFld e.toNat 36 21

/-- An entry of KIND 01b. -/
def flashEntry (comp : Bool) (len die block page cw poison : Nat) : Qword :=
  BitVec.ofNat 64 (place 1 62 2 + place (bitNat comp) 61 1 + place (len - 1) 57 4 + place die 46 11 + place block 32 14
    + place page 19 13 + place cw 17 2 + place poison 1 16)

/-- An entry of KIND 10b. -/
def etchEntry (len slot poison : Nat) : Qword :=
  BitVec.ofNat 64 (place 2 62 2 + place (len - 1) 57 4 + place slot 36 21 + place poison 1 16)

/-- The entries of KIND 00b and 11b. -/
def unmappedEntry : Qword := 0
def zeroesEntry : Qword := BitVec.ofNat 64 (3 * 2 ^ 62)

/-- An entry with its POISON field replaced. -/
def withPoison (e : Qword) (p : Nat) : Qword :=
  BitVec.ofNat 64 (e.toNat - place (ePoison e) 1 16 + place p 1 16)

/-! ### Keys -/

/-- The key of a unit in the map, and its parts. -/
def unitKey (nsid unit : Nat) : Nat := nsid * 2 ^ 48 + unit
def keyNsid (k : Nat) : Nat := k / 2 ^ 48
def keyUnit (k : Nat) : Nat := k % 2 ^ 48

/-- The key of a map page: level 0 leaf, 1 directory (R160). -/
def pageKey (nsid level index : Nat) : Nat := (nsid * 2 + level) * 2 ^ 47 + index
def leafOf (k : Nat) : Nat := pageKey (keyNsid k) 0 (keyUnit k / 512)
def dirOf (k : Nat) : Nat := pageKey (keyNsid k) 1 (keyUnit k / 262144)

/-- The KEY of a journal entry (R206): classes unit, map page, block, swath. -/
def jUnitKey (k : Nat) : Qword := BitVec.ofNat 64 (place (keyNsid k - 1) 48 12 + keyUnit k)
def jPageKey (k : Nat) : Qword :=
  BitVec.ofNat 64 (2 ^ 62 + place (k / 2 ^ 48 - 1) 48 12 + place (k / 2 ^ 47 % 2) 47 1 + k % 2 ^ 47)
def jBlockKey (die block : Nat) : Qword := BitVec.ofNat 64 (2 * 2 ^ 62 + place die 14 11 + place block 0 14)
def jSwathKey (swath member : Nat) : Qword := BitVec.ofNat 64 (3 * 2 ^ 62 + place member 20 5 + place swath 0 20)

/-- The class of a journal KEY, and the map keys of the first two classes. -/
def jClass (q : Qword) : Nat := natFld q.toNat 62 2
def jUnit (q : Qword) : Nat := unitKey (natFld q.toNat 48 12 + 1) (natFld q.toNat 0 48)
def jPage (q : Qword) : Nat := pageKey (natFld q.toNat 48 12 + 1) (natFld q.toNat 47 1) (natFld q.toNat 0 47)
def jDie (q : Qword) : Nat := natFld q.toNat 14 11
def jBlock (q : Qword) : Nat := natFld q.toNat 0 14

/-- The keys of a block and of a codeword on flash, and the die and block of a block's key. -/
def blockKey (die block : Nat) : Nat := die * 16384 + block
def keyDie (k : Nat) : Nat := k / 16384
def keyBlock (k : Nat) : Nat := k % 16384
def cwKey (die block page cw : Nat) : Nat := (blockKey die block * 8192 + page) * 4 + cw

/-! ### Units of a namespace -/

/-- Bytes of a map unit, codewords of an uncompressed unit, and blocks in a unit (R154). -/
def unitBytes (n : Namespace) : Nat := if n.coarse then 65536 else 4096
def unitCws (n : Namespace) : Nat := if n.coarse then 16 else 1
def lbasPerUnit (n : Namespace) : Nat := unitBytes n / n.lbaSize

/-- The units that the LBAs [a, a + c) touch. -/
def unitsOf (n : Namespace) (a c : Nat) : List Nat :=
  if c = 0 then []
  else
    let u0 := a / lbasPerUnit n
    let u1 := (a + c - 1) / lbasPerUnit n
    (List.range (u1 - u0 + 1)).map (· + u0)

/-- Whether a unit lies wholly inside the LBAs [a, a + c). -/
def unitInside (n : Namespace) (u a c : Nat) : Bool :=
  decide (a ≤ u * lbasPerUnit n) && decide ((u + 1) * lbasPerUnit n ≤ a + c)

/-! ### The map (R160 to R164, R232) -/

/-- The entry of a unit: the replay overlay overrides the map (R232). -/
def entryAt (s : State) (k : Nat) : Qword :=
  match tabGet s.ftl.overlay k with
  | some e => e
  | none => tabAt 0 s.ftl.map k

/-- The map pages that a command on a unit must wait for, none when its entry is at hand (R162, R232). -/
def pagesWanted (s : State) (k : Nat) : List Nat :=
  if (tabGet s.ftl.overlay k).isSome || s.ftl.resident.contains (leafOf k) then []
  else if (tabGet s.ftl.mapLoc (dirOf k)).isSome && !s.ftl.resident.contains (dirOf k) then [dirOf k]
  else if (tabGet s.ftl.mapLoc (leafOf k)).isSome then [leafOf k]
  else []

/-- The map pages that a command on several units must wait for. -/
def pagesFor (s : State) (ks : List Nat) : List Nat := setOfNats ((ks.map (pagesWanted s)).foldl (· ++ ·) [])

/-- A block record changed. -/
def updBlock (s : State) (k : Nat) (g : BlockRec → BlockRec) : State :=
  { s with ftl := { s.ftl with blocks := tabUpd {} s.ftl.blocks k g } }

/-- VALID of a block, the codewords that mapped units occupy (R165), changed for one entry. -/
def countValid (s : State) (e : Qword) (up : Bool) : State :=
  if eKind e = 1 then
    updBlock s (blockKey (eDie e) (eBlock e)) (fun b =>
      { b with valid := if up then b.valid + eLen e else b.valid - eLen e })
  else s

/-- A map page marked dirty by a change of record `seq`: it keeps the SEQ of its oldest unwritten change, and while a copy of it is
under way that of the first change after the copy was made (R213). -/
def markDirty (s : State) (page seq : Nat) : State :=
  let first (t : List (Nat × Nat)) : List (Nat × Nat) := if (tabGet t page).isSome then t else tabPut t page seq
  let after (t : List (Nat × Nat)) : List (Nat × Nat) := if tabGet t page = some 0 then tabPut t page seq else t
  { s with ftl := { s.ftl with dirty := first s.ftl.dirty, since := after s.ftl.since } }

/-- A map page that has been changed is in the cache: a new one joins it (R162). -/
def joinCache (s : State) (page : Nat) : State :=
  if s.ftl.resident.contains page then s else { s with ftl := { s.ftl with resident := s.ftl.resident ++ [page] } }

/-! ### Etch extents (R201, R202, R258) -/

/-- The data regions of the two dies: first slot and slot past the end. -/
def dataRegion0 : Nat × Nat := (401408, 1048576)
def dataRegion1 : Nat × Nat := (1449984, 2097152)

/-- The number of data slots of both regions (R201). -/
def dataSlots : Nat := 1294336

/-- The data slots in use. -/
def slotsUsed (s : State) : Nat := s.etch.slots.foldl (fun a e => a + e.2.n) 0

/-- Data-region occupancy in percent (R216). -/
def occupancyPct (s : State) : Nat := slotsUsed s * 100 / dataSlots

/-- The data slots that a tenant's units hold. -/
def tenantSlots (s : State) (t : Nat) : Nat :=
  s.etch.slots.foldl (fun a e => if e.2.tenant = t then a + e.2.n else a) 0

/-- The lowest free extent of `n` slots at or after `c` in a region, past the extents in use (log 17). -/
def freeFrom (n stop : Nat) : Nat → List (Nat × SlotUse) → Option Nat
  | c, [] => if c + n ≤ stop then some c else none
  | c, (a, u) :: t =>
    if c + n ≤ a then (if c + n ≤ stop then some c else none)
    else if a + u.n ≤ c then freeFrom n stop c t
    else freeFrom n stop (ceilDiv (a + u.n) n * n) t

/-- A free extent of `n` slots on a die that is not lost. -/
def freeExtent (s : State) (n : Nat) : Option Nat :=
  let r0 := if s.etch.lost0 then none else freeFrom n dataRegion0.2 dataRegion0.1 s.etch.slots
  match r0 with
  | some a => some a
  | none => if s.etch.lost1 then none else freeFrom n dataRegion1.2 dataRegion1.1 s.etch.slots

/-- An extent taken for a unit. -/
def takeExtent (s : State) (a n key tenant : Nat) : State :=
  { s with etch := { s.etch with
      slots := tabPut s.etch.slots a { n := n, key := key, tenant := tenant, readers := 0, freed := false } } }

/-- An extent freed: at once, or when the last read that holds it has delivered (R258). -/
def freeExtentAt (s : State) (a : Nat) : State :=
  match tabGet s.etch.slots a with
  | none => s
  | some u =>
    if u.readers = 0 then { s with etch := { s.etch with slots := tabDel s.etch.slots a } }
    else { s with etch := { s.etch with slots := tabPut s.etch.slots a { u with freed := true } } }

/-- A read takes hold of an extent, and lets it go (R258). -/
def holdExtent (s : State) (a : Nat) : State :=
  match tabGet s.etch.slots a with
  | none => s
  | some u => { s with etch := { s.etch with slots := tabPut s.etch.slots a { u with readers := u.readers + 1 } } }
def releaseExtent (s : State) (a : Nat) : State :=
  match tabGet s.etch.slots a with
  | none => s
  | some u =>
    let v := { u with readers := u.readers - 1 }
    if v.readers = 0 && v.freed then { s with etch := { s.etch with slots := tabDel s.etch.slots a } }
    else { s with etch := { s.etch with slots := tabPut s.etch.slots a v } }

/-- A read takes hold of a block, and lets it go: erase waits for it (R194). -/
def holdBlock (s : State) (k : Nat) : State :=
  { s with ftl := { s.ftl with readHolds := tabUpd 0 s.ftl.readHolds k (· + 1) } }
def releaseBlock (s : State) (k : Nat) : State :=
  { s with ftl := { s.ftl with readHolds := tabSet 0 s.ftl.readHolds k (tabAt 0 s.ftl.readHolds k - 1) } }

/-- Every hold of a read let go. -/
def releaseHolds (s : State) (blocks slots : List Nat) : State :=
  slots.foldl releaseExtent (blocks.foldl releaseBlock s)

/-- The bytes of an extent. -/
def extentBytes (s : State) (slot n : Nat) : List Byte := memRead s.etch.mem (slot * 4096) (n * 4096)

/-- Bytes written into a slot. -/
def writeSlot (s : State) (slot : Nat) (bs : List Byte) : State :=
  { s with etch := { s.etch with mem := memWrite s.etch.mem (slot * 4096) bs } }

/-! ### Applying entries -/

/-- A unit's entry replaced by a committed record of SEQ `seq`: the blocks' VALID follow, its leaf page turns dirty and
the old extent is freed (step 7 of R203). -/
def applyUnit (s : State) (seq k : Nat) (new : Qword) : State :=
  let old := entryAt s k
  let s1 := countValid (countValid s old false) new true
  let s2 :=
    match tabGet s1.ftl.overlay k with
    | some _ => { s1 with ftl := { s1.ftl with overlay := tabPut s1.ftl.overlay k new } }
    | none => markDirty (joinCache { s1 with ftl := { s1.ftl with map := tabSet 0 s1.ftl.map k new } } (leafOf k)) (leafOf k) seq
  if eKind old = 2 && !(eKind new == 2 && eSlot new == eSlot old) then freeExtentAt s2 (eSlot old) else s2

/-- The qwords of a map page as bytes, and back. -/
def pageBytes (s : State) (page : Nat) : List Byte :=
  let nsid := page / 2 ^ 48
  let idx := page % 2 ^ 47
  let q (i : Nat) : Qword :=
    if page / 2 ^ 47 % 2 = 0 then tabAt 0 s.ftl.map (unitKey nsid (idx * 512 + i))
    else tabAt 0 s.ftl.mapLoc (pageKey nsid 0 (idx * 512 + i))
  ((List.range 512).map (fun i => leBytes (q i).toNat 8)).foldl (· ++ ·) []

/-- A map with the entries of a leaf page as its copy holds them (R160). -/
def leafEntries (d : List (Nat × Qword)) (page : Nat) (bytes : List Byte) : List (Nat × Qword) :=
  let nsid := page / 2 ^ 48
  let idx := page % 2 ^ 47
  (List.range 512).foldl (fun t i =>
    tabSet 0 t (unitKey nsid (idx * 512 + i)) (BitVec.ofNat 64 (leAt bytes (8 * i) 8))) d

/-- Whether a map page is a leaf, and the directory page that names a leaf page. -/
def isLeafPage (page : Nat) : Bool := page / 2 ^ 47 % 2 == 0
def dirPage (page : Nat) : Nat := pageKey (page / 2 ^ 48) 1 (page % 2 ^ 47 / 512)

/-- A map page whose copy is named: it is clean, or dirty from the first change after the copy was made (R213). -/
def settleDirty (s : State) (page : Nat) : State :=
  let later := tabAt 0 s.ftl.since page
  { s with ftl := { s.ftl with
      dirty := if later = 0 then tabDel s.ftl.dirty page else tabPut s.ftl.dirty page later
      since := tabDel s.ftl.since page } }

/-- The new copy of a map page takes effect; the directory page of a leaf turns dirty with the record that names the copy (R164,
R212). -/
def applyPage (s : State) (seq page : Nat) (new : Qword) : State :=
  let s1 := countValid (countValid s (tabAt 0 s.ftl.mapLoc page) false) new true
  let s2 := settleDirty { s1 with ftl := { s1.ftl with mapLoc := tabPut s1.ftl.mapLoc page new } } page
  if isLeafPage page then markDirty (joinCache s2 (dirPage page)) (dirPage page) seq else s2

/-- The 16 bytes of a block record (R165). -/
def blockBytes (b : BlockRec) : List Byte :=
  leBytes b.erases 3 ++ leBytes (b.st.toNat + place b.family.toNat 4 2) 1 ++ leBytes b.reads 4 ++ leBytes b.progTime 4
    ++ leBytes (bitsOf 8 b.progTemp) 1
    ++ leBytes (place b.profile 0 3 + place (b.override.getD 0) 3 4 + place (bitNat b.override.isSome) 7 1) 1 ++ leBytes b.valid 2

/-- Bytes 0 to 7 of a block record (R165), and a record with them replaced. -/
def blockQword (b : BlockRec) : Qword :=
  BitVec.ofNat 64 (place b.erases 0 24 + place b.st.toNat 24 4 + place b.family.toNat 28 2 + place b.reads 32 32)
def blockFrom (b : BlockRec) (q : Qword) : BlockRec :=
  { b with erases := natFld q.toNat 0 24, st := BitVec.ofNat 4 (natFld q.toNat 24 4),
           family := BitVec.ofNat 2 (natFld q.toNat 28 2), reads := natFld q.toNat 32 32 }

/-! ### The journal (R204 to R208, R212) -/

/-- The bytes of a record with `n` entries, of the live journal, and of one die's journal region. -/
def recBytes (n : Nat) : Nat := 32 + 24 * n
def liveBytes (s : State) : Nat := s.etch.live.foldl (fun a r => a + r.len) 0
def journalRegion : Nat := 805306368

/-- LIVE_MAX in bytes, and the write-back threshold (R213, R214). -/
def liveMax (s : State) : Nat := within 128 640 (regFld s 0xE0000C 0 10) * 1048576
def wbStart (s : State) : Nat := liveMax s * within 10 90 (regFld s 0xE0000C 10 8) / 100

/-- A record appended at the tail, with a pad record before it where it would cross the end of the region (R208); one that begins
at the end begins at the start of the region. -/
def appendRec (s : State) (type tenant : Nat) (es : List JEntry) : State :=
  let len := recBytes es.length
  let stamp := islandTime s isEtch
  let s1 :=
    if s.etch.tail = journalRegion then { s with etch := { s.etch with tail := 0 } }
    else if journalRegion < s.etch.tail + len then
      { s with etch := { s.etch with
          seq := s.etch.seq + 1, tail := 0
          live := s.etch.live ++ [{ type := 0, seq := s.etch.seq + 1, stamp := stamp, tenant := 0,
                                    entries := [], len := journalRegion - s.etch.tail, off := s.etch.tail }] } }
    else s
  { s1 with etch := { s1.etch with
      seq := s1.etch.seq + 1, tail := s1.etch.tail + len, lastStamp := stamp
      live := s1.etch.live ++ [{ type := type, seq := s1.etch.seq + 1, stamp := stamp, tenant := tenant,
                                 entries := es, len := len, off := s1.etch.tail }] } }

/-- A record queued for commit by the device itself, tenant 0. -/
def queueRec (s : State) (type : Nat) (es : List JEntry) : State :=
  { s with etch := { s.etch with
      built := s.etch.built ++ [{ type := type, tenant := 0, entries := es, cmd := none, job := none, last := false }] } }

/-- The record of an action on a block (TYPE 07h): its NEW is absolute (R207). -/
def blockRec (s : State) (die block action : Nat) (b : BlockRec) : State :=
  queueRec s 7 [{ key := jBlockKey die block, old := BitVec.ofNat 64 action, new := blockQword b }]

/-- A block's record changed, with its journal record queued. -/
def setBlock (s : State) (die block action : Nat) (g : BlockRec → BlockRec) : State :=
  let k := blockKey die block
  let b := g (tabAt {} s.ftl.blocks k)
  blockRec (updBlock s k g) die block action b

/-- Whether a record of a relocation may commit: its entry still holds the expected value (R191). -/
def relocOk (s : State) (type : Nat) (e : JEntry) : Bool :=
  if type = 4 || type = 5 then entryAt s (jUnit e.key) == e.old
  else if type = 6 then tabAt 0 s.ftl.mapLoc (jPage e.key) == e.old
  else true

/-- One entry of a committed record applied to the map and the tables. -/
def applyEntry (s : State) (type seq : Nat) (e : JEntry) : State :=
  if 1 ≤ type && type ≤ 5 then applyUnit s seq (jUnit e.key) e.new
  else if type = 6 then applyPage s seq (jPage e.key) e.new
  else if type = 7 && e.old.toNat = 4 then
    -- the erase-begin record: only now is the block in state erasing (R194)
    updBlock s (blockKey (jDie e.key) (jBlock e.key)) (fun b => { blockFrom b e.new with valid := 0 })
  else if type = 10 then
    -- the functions that own the range, and the first command that qualifies for delivery (R262)
    let k := jUnit e.key
    match tabGet s.ftl.namespaces (keyNsid k) with
    | none => s
    | some n =>
      let held (f : Nat) : Bool := s.etch.deliveries.any (fun d => d.1 == f && d.2.1 == keyNsid k)
      let t := if (tabGet s.ftl.overlay k).isSome then s else markDirty (joinCache s (leafOf k)) (leafOf k) seq
      { t with etch := { t.etch with
          deliveries := s.etch.deliveries
            ++ (n.attach.filter (fun f => !held f)).map (fun f => (f, keyNsid k, s.host.order)) } }
  else if type = 9 && e.new = 0 then
    -- a namespace deleted: its root is empty (R188)
    let nsid := keyNsid (jUnit e.key)
    let gone (k : Nat) : Bool := keyNsid k == nsid
    let s1 := (s.ftl.map.filter (fun p => gone p.1)).foldl (fun t p => applyUnit t seq p.1 0) s
    let s2 := (s1.ftl.overlay.filter (fun p => gone p.1)).foldl (fun t p => applyUnit t seq p.1 0) s1
    let s3 := (s2.ftl.mapLoc.filter (fun p => gone p.1)).foldl (fun t p => countValid t p.2 false) s2
    { s3 with
      ftl := { s3.ftl with
        map := s3.ftl.map.filter (fun p => !gone p.1)
        overlay := s3.ftl.overlay.filter (fun p => !gone p.1)
        mapLoc := s3.ftl.mapLoc.filter (fun p => !gone p.1)
        dirty := s3.ftl.dirty.filter (fun p => !gone p.1)
        since := s3.ftl.since.filter (fun p => !gone p.1)
        resident := s3.ftl.resident.filter (fun p => !gone p)
        copies := s3.ftl.copies.filter (fun c => !gone c.key) }
      -- a copy of a map page of the namespace on its way is not named any more: a later namespace of that NSID starts empty
      etch := { s3.etch with
        built := s3.etch.built.filter (fun b => !(b.type == 6 && b.entries.any (fun e => gone (jPage e.key)))) } }
  else s

/-- A record committed and applied. -/
def commitRec (s : State) (type tenant : Nat) (es : List JEntry) : State :=
  let s1 := appendRec s type tenant es
  es.foldl (fun t e => applyEntry t type s1.etch.seq e) s1

/-- Whether an entry of KIND 10b names an extent that is still held. -/
def extentHeld (s : State) (e : Qword) : Bool := eKind e == 2 && (tabGet s.etch.slots (eSlot e)).isSome

/-- The anchor records of a kind that verify, the newest of them, and the mirror that a name leads to among some. -/
def newestAnchor (s : State) (root : Bool) (bad : List Nat) : Option Anchor :=
  (s.etch.anchors.filter (fun p => p.anchor.root == root && !bad.contains p.key)).foldl (fun m p =>
    match m with
    | none => some p.anchor
    | some a => if a.cur.seq < p.anchor.cur.seq then some p.anchor else m) none

/-- The first of an anchor record's two mirrors that verifies: the place of its first codeword. -/
def anchoredPlace (a : Anchor) (there : Nat → Bool) : Option Nat := [a.cur, a.before_].findSome? (fun m =>
  if 0 < m.pages && there m.at_ then some m.at_ else none)

/-- Whether a mirror lies at a place: its codewords are there. -/
def liesAt (place : Nat) (words : List Nat) : Bool := words.head? == some place

/-- The checkpoint mirror that the root anchor records lead to. -/
def namedRoot (s : State) (badAnchors badMirrors : List Nat) : Option RootImg :=
  (newestAnchor s true badAnchors).bind (fun a =>
    (anchoredPlace a (fun p => !badMirrors.contains p && s.etch.mirrorRoots.any (fun m => liesAt p m.words))).bind (fun p =>
      (s.etch.mirrorRoots.find? (fun m => liesAt p m.words)).map (·.img)))

/-- The settings mirror that the settings anchor records lead to (R219, R220). -/
def namedSettings (s : State) (badAnchors badMirrors : List Nat) : Option SetCopy :=
  (newestAnchor s false badAnchors).bind (fun a =>
    (anchoredPlace a (fun p => !badMirrors.contains p && s.etch.mirrors.any (fun m => liesAt p m.words))).bind (fun p =>
      (s.etch.mirrors.find? (fun m => liesAt p m.words)).map (·.copy)))

/-- The two root images that R212 compares with and that a start reads: after a die is lost, the newest checkpoint mirror found through
R221 stands for its image (R227). -/
def rootImages (s : State) : RootImg × RootImg :=
  let m := (namedRoot s [] []).getD {}
  (if s.etch.lost0 then m else s.etch.rootA, if s.etch.lost1 then m else s.etch.rootB)

/-- The SEQ that both root images contain. -/
def cpBoth (s : State) : Nat := Nat.min (rootImages s).1.cpSeq (rootImages s).2.cpSeq

/-- The TYPE 06h record of the written-back copy that holds a map page's changes up to a SEQ: the latest, where the page has no
unwritten change as old. -/
def copyRecord (s : State) (page seq : Nat) : Option Nat :=
  match tabGet s.ftl.dirty page with
  | some q => if q ≤ seq then none else latest
  | none => latest
where
  latest : Option Nat :=
    ((s.etch.live.filter (fun r => r.type == 6 && decide (seq < r.seq) && r.entries.any (fun e => jPage e.key == page))).getLast?).map
      (·.seq)

/-- Whether a change of a map page by the record of a SEQ is written back as R212 asks: its copy's own record is contained in both
root images, and for a leaf page so is that of the directory page that names the copy. -/
def pageKept (s : State) (page seq : Nat) : Bool :=
  match copyRecord s page seq with
  | none => false
  | some q =>
    decide (q ≤ cpBoth s) && (!isLeafPage page ||
      (match copyRecord s (dirPage page) q with
        | some p => decide (p ≤ cpBoth s)
        | none => false))

/-- Whether the namespace of a key has been deleted since the record of a SEQ, by a record that both root images contain. -/
def nsEmptied (s : State) (seq nsid : Nat) : Bool :=
  s.etch.live.any (fun r => r.type == 9 && decide (seq < r.seq) && decide (r.seq ≤ cpBoth s)
    && r.entries.any (fun e => e.new == 0 && keyNsid (jUnit e.key) == nsid))

/-- The map page that an entry of a record changes: the leaf page of its unit, or the directory page of its leaf page. -/
def changedPage (type : Nat) (e : JEntry) : Option Nat :=
  if (decide (1 ≤ type) && decide (type ≤ 5)) || type = 10 then some (leafOf (jUnit e.key))
  else if type = 6 && isLeafPage (jPage e.key) then some (dirPage (jPage e.key))
  else none

/-- Whether a unit's latest change waits in the replay overlay, and so in no map page (R232). -/
def inOverlay (s : State) (type : Nat) (e : JEntry) : Bool := type ≠ 6 && (tabGet s.ftl.overlay (jUnit e.key)).isSome

/-- Whether a record may be discarded (R212): contained in both root images, every map page it changed written back, and naming
no extent still held. -/
def discardable (s : State) (r : JRec) : Bool :=
  decide (r.seq ≤ cpBoth s)
    && !((r.type == 1 || r.type == 2) && r.entries.any (fun e => extentHeld s e.new))
    && r.entries.all (fun e =>
      match changedPage r.type e with
      | none => true
      | some p => nsEmptied s r.seq (p / 2 ^ 48) || (pageKept s p r.seq && !inOverlay s r.type e))

/-- The journal head moved past every record that may be discarded (R212). -/
def discardRecs (s : State) : State :=
  { s with etch := { s.etch with live := s.etch.live.dropWhile (discardable s) } }

/-- Whether neither Etch die is left (R613), and whether the device can write records at all. -/
def etchGone (s : State) : Bool := s.etch.lost0 && s.etch.lost1
def canRecord (s : State) : Bool := !etchGone s && !s.power.fence && !s.power.settingsRecovery

/-! ### Deferred write errors (R34, R262 to R264) -/

/-- An interval added to a list of LBA intervals [a, b). -/
def addRange (a b : Nat) (l : List (Nat × Nat)) : List (Nat × Nat) :=
  let touch := l.filter (fun r => r.1 ≤ b && a ≤ r.2)
  let lo := touch.foldl (fun m r => min m r.1) a
  let hi := touch.foldl (fun m r => max m r.2) b
  (lo, hi) :: l.filter (fun r => !(r.1 ≤ b && a ≤ r.2))

/-- Whether [a, b) is covered. -/
def covered (a b : Nat) (l : List (Nat × Nat)) : Bool := l.any (fun r => r.1 ≤ a && b ≤ r.2)

/-- LBAs [a, b) of a namespace overwritten, zeroed or deallocated: entries of page 0xC1 that are wholly so leave it. -/
def coverDeferred (s : State) (nsid a b : Nat) : State :=
  let size := ((tabGet s.ftl.namespaces nsid).map (·.nsze)).getD 0
  let es := s.etch.deferred.map (fun d => if d.nsid = nsid then { d with cover := addRange a b d.cover } else d)
  let keep := es.filter (fun d =>
    !(d.nsid == nsid && (if d.overflow then covered 0 size d.cover else covered d.first (d.first + d.count) d.cover)))
  if keep.length = es.length then { s with etch := { s.etch with deferred := es } }
  else { s with etch := { s.etch with deferred := keep, defAt := islandTime s isFabric } }

/-- A range recorded in page 0xC1 (R264): as its own entry, or as the namespace's OVERFLOW entry. Its stamp is that of the Etch
island where the Etch buffer lost the data, and of the fabric island where a stripe did (R19). -/
def addDeferred (s : State) (nsid first count cause : Nat) : State :=
  let stamp := islandTime s (if cause = 3 then isFabric else isEtch)
  let ds := s.etch.deferred
  let full := ds.any (fun d => d.nsid == nsid && d.overflow)
  let ranges := (ds.filter (fun d => !d.overflow)).length
  let e : DefEntry :=
    { nsid := nsid, first := first, count := count, cause := cause, overflow := false, stamp := stamp, cover := [] }
  let ds2 :=
    if full then ds
    else if ranges < 1024 then ds ++ [e]
    else ds.filter (fun d => d.nsid ≠ nsid) ++ [{ e with first := 0, count := 0xFFFFFFFF, overflow := true }]
  { s with etch := { s.etch with deferred := ds2, defTotal := s.etch.defTotal + 1, defAt := stamp } }

/-- A deferred write error for one unit (R34, R226, R263): page 0xC1, the POISON bits of its entry, a record of TYPE
0Ah, HIF_EVENT.DEFERRED and the asynchronous event. -/
def deferUnit (s : State) (k cause : Nat) : State :=
  match tabGet s.ftl.namespaces (keyNsid k) with
  | none => s
  | some n =>
    let e := entryAt s k
    let poisoned := withPoison e (if n.coarse then 0xFFFF else 1)
    let lpu := lbasPerUnit n
    let s1 := addDeferred s (keyNsid k) (keyUnit k * lpu) lpu cause
    let s2 := if (tabGet s1.ftl.overlay k).isSome then
        { s1 with ftl := { s1.ftl with overlay := tabPut s1.ftl.overlay k poisoned } }
      else { s1 with ftl := { s1.ftl with map := tabSet 0 s1.ftl.map k poisoned } }
    let s3 := queueRec s2 10 [{ key := jUnitKey k, old := 0, new := 1 }]
    let s4 := { s3 with ftl := { s3.ftl with health := { s3.ftl.health with deferred := s3.ftl.health.deferred + 1 } } }
    asyncAll (raise s4 evHif 0) n.attach (asyncDword 7 0 0xC1)

end Sys2Proof.Machine
end

