-- ==== Sys2Proof/Machine/Codewords.lean ====
section
/-! DEFINITION. What a codeword holds, byte by byte, and what the cells of a page hold of it (R123 to R128): metadata, CRC,
encoding, whitening, stripe parity. -/

namespace Sys2Proof.Machine

/-! ### The information part (R123, R159) -/

/-- LOCATOR: UNIT in [47:0], PART in [51:48]. -/
def locatorOf (w : Codeword) : Nat := place w.unit 0 48 + place w.part 48 4

/-- Metadata bytes 0 to 31. -/
def metaHead (w : Codeword) : List Byte :=
  leBytes (locatorOf w) 8 ++ leBytes w.nsid 4 ++ leBytes w.tenant 2 ++ leBytes w.kind 1 ++ leBytes w.profile 1
    ++ leBytes w.progTime 4 ++ leBytes w.progTemp 1 ++ zeros 3 ++ leBytes w.stamp 8

/-- The value that the CRC field takes: over the 4,096 user bytes and metadata bytes 0 to 31. -/
def crcOf (w : Codeword) : Nat := crc32c (padTo 4096 w.user ++ metaHead w)

/-- The 4,184 bytes of the information part. -/
def infoBytes (w : Codeword) : List Byte := padTo 4096 w.user ++ metaHead w ++ leBytes w.crc 4 ++ zeros 52

/-- Bytes with some bits inverted. -/
def flipBits (bs : List Byte) (flips : List Nat) : List Byte :=
  flips.foldl (fun l i => overlayAt l (i / 8) [((l[i / 8]?).getD 0) ^^^ BitVec.ofNat 8 (2 ^ (i % 8))]) bs

/-- Whether the CRC field of a decoder's output verifies (R126): `flips` are the bits of the information part in which it differs
from the codeword stored. -/
def outputVerifies (w : Codeword) (flips : List Nat) : Bool :=
  let b := flipBits (infoBytes w) flips
  leAt b 4128 4 == crc32c (b.take 4128)

/-! ### Profiles (R127) -/

/-- Parity columns of a profile, bytes of a codeword, bytes of four codewords. -/
def parityColumns (p : Nat) : Nat := ([28, 36, 43, 50, 58, 66, 75, 85][p]?).getD 28
def codewordBytes (p : Nat) : Nat := (523 + parityColumns p) * 8
def profileBytes (p : Nat) : Nat := 4 * codewordBytes p

/-! ### What the cells hold (R125) -/

/-- The place that seeds a page's sequence: its die, block and page. -/
def pageSeed (key : Nat) : Nat := key / 4

/-- Bytes combined with the sequence of a place, from byte `at_` of the page on. The taps of the LFSR are not given, and its
sequence is free (log 123). Combining twice gives the bytes back. -/
def whiten (seed at_ : Nat) (bs : List Byte) : List Byte :=
  (List.range bs.length).zipWith (fun i b => b ^^^ Config.whiteSequence seed (at_ + i)) bs

/-- A codeword as it is encoded: its information part and the parity of its profile, which the manual does not give (log 123). -/
def encoded (w : Codeword) : List Byte :=
  infoBytes w ++ (List.range (codewordBytes w.profile - 4184)).map (Config.pageParity w.profile (infoBytes w))

/-- The cells that a codeword occupies on its page, and those of the padding after the four codewords of a profile. -/
def cellBytes (key : Nat) (w : Codeword) : List Byte := whiten w.white (key % 4 * codewordBytes w.profile) (encoded w)
def paddingCells (seed profile pageBytes : Nat) : List Byte :=
  whiten seed (profileBytes profile) (zeros (pageBytes - profileBytes profile))

/-- A codeword programmed at a place: its CRC field is computed, and its bits are whitened with the place's sequence. -/
def sealWord (key : Nat) (w : Codeword) : Codeword := { w with crc := crcOf w, white := pageSeed key }

/-- What a place holds once the sequence of that place is removed: the codeword where its bits were whitened with that sequence,
and otherwise nothing that is a codeword. -/
def heldWord (s : State) (key : Nat) : Option Codeword :=
  (tabGet s.ftl.flash key).bind (fun w => if w.white = pageSeed key then some w else none)

/-! ### Stripe parity (R126, R166, R167) -/

/-- The XOR of two information parts, field by field. -/
def xorWords (a b : Codeword) : Codeword :=
  { unit := a.unit ^^^ b.unit, part := a.part ^^^ b.part, nsid := a.nsid ^^^ b.nsid, tenant := a.tenant ^^^ b.tenant
    kind := a.kind ^^^ b.kind, profile := a.profile ^^^ b.profile, progTime := a.progTime ^^^ b.progTime
    progTemp := a.progTemp ^^^ b.progTemp, stamp := a.stamp ^^^ b.stamp
    user := (padTo 4096 a.user).zipWith (· ^^^ ·) (padTo 4096 b.user), crc := a.crc ^^^ b.crc, white := 0 }

/-- A codeword whose information part is zero. -/
def zeroWord : Codeword :=
  { unit := 0, part := 0, nsid := 0, tenant := 0, kind := 0, profile := 0, progTime := 0, progTemp := 0, stamp := 0, user := [] }

/-- The codeword that a programmed page holds where no unit was placed: zeros of a device structure, with the program record of
its block (DEDUCED, log 124: R123 gives every page four codewords). -/
def fillerWord (s : State) (key : Nat) : Codeword :=
  let b := tabAt {} s.ftl.blocks (key / 32768)
  sealWord key { zeroWord with profile := b.profile, progTime := b.progTime, progTemp := bitsOf 8 b.progTemp }

/-- The codeword of a programmed page at a place. -/
def pageWord (s : State) (key : Nat) : Codeword :=
  if (tabGet s.ftl.flash key).isSome then (heldWord s key).getD zeroWord else fillerWord s key

/-- The places of a codeword's stripe on some members. -/
def stripeKeys (ms : List (Nat × Nat)) (page cw : Nat) : List Nat := ms.map (fun m => cwKey m.1 m.2 page cw)

/-- The XOR of the codewords at some places. -/
def xorAt (s : State) (keys : List Nat) : Codeword := keys.foldl (fun a k => xorWords a (pageWord s k)) zeroWord

end Sys2Proof.Machine
end

