-- ==== Sys2Proof/Machine/Deflate.lean ====
section
/-! DEFINITION. DEFLATE (RFC 1951) and the two framings of the codec island (R359 to R367): the decoder with its error
triggers, and the compressor's stored form. -/

namespace Sys2Proof.Machine

/-- The errors of R367. -/
inductive CodecErr where
  | illegal | distance | overrun | check | length
deriving DecidableEq, Repr

/-- A bit reader: the bytes left, and `n` bits taken from them already, least significant first. -/
structure BitRd where
  rest : List Byte
  acc  : Nat
  n    : Nat
deriving DecidableEq, Repr

/-- A reader over bytes. -/
def bitRd (bs : List Byte) : BitRd := { rest := bs, acc := 0, n := 0 }

/-- The reader with at least `k` bits taken in, within `fuel` bytes. -/
def fillBits (k : Nat) : Nat → BitRd → BitRd
  | 0, r => r
  | f + 1, r =>
    if k ≤ r.n then r
    else match r.rest with
      | [] => r
      | b :: t => fillBits k f { rest := t, acc := r.acc + b.toNat * 2 ^ r.n, n := r.n + 8 }

/-- The next `k` bits, least significant first (k at most 32); running out of bytes is an overrun (R367). -/
def takeBits (k : Nat) (r : BitRd) : Except CodecErr (Nat × BitRd) :=
  let q := fillBits k 5 r
  if q.n < k then .error .overrun
  else .ok (q.acc % 2 ^ k, { q with acc := q.acc / 2 ^ k, n := q.n - k })

/-- The reader at the next byte boundary. -/
def alignBits (r : BitRd) : BitRd := { r with acc := r.acc / 2 ^ (r.n % 8), n := r.n - r.n % 8 }

/-- The whole bytes that a reader has not used. -/
def bytesLeft (r : BitRd) : Nat := r.rest.length + r.n / 8

/-! ### Huffman codes -/

/-- The canonical code of RFC 1951 for a list of lengths: (length, code, symbol). -/
def huffTable (lens : List Nat) : List (Nat × Nat × Nat) :=
  let syms := lens.zipIdx
  ((List.range 15).foldl (fun (st : Nat × List (Nat × Nat × Nat)) i =>
    let l := i + 1
    let here := syms.filter (fun e => e.1 == l)
    let codes := here.zipIdx.map (fun e => (l, st.1 * 2 + e.2, e.1.2))
    (st.1 * 2 + here.length, st.2 ++ codes)) (0, [])).2

/-- The share of the code space that the lengths use, in units of 2^-15. -/
def kraft (lens : List Nat) : Nat := lens.foldl (fun a l => if l = 0 then a else a + 2 ^ (15 - l)) 0

/-- The next symbol: bits are added to the code until it is one of the table's. A pattern that no symbol owns, and that no
longer code begins with, is illegal. -/
def huffSym (t : List (Nat × Nat × Nat)) : Nat → Nat → Nat → BitRd → Except CodecErr (Nat × BitRd)
  | 0, _, _, _ => .error .illegal
  | f + 1, l, c, r =>
    match takeBits 1 r with
    | .error e => .error e
    | .ok (b, r1) =>
      let c1 := c * 2 + b
      match t.find? (fun e => e.1 == l + 1 && e.2.1 == c1) with
      | some e => .ok (e.2.2, r1)
      | none => if t.all (fun e => decide (e.1 ≤ l + 1)) then .error .illegal else huffSym t f (l + 1) c1 r1

/-- Whether lengths make a full code. -/
def codeFull (lens : List Nat) : Bool := kraft lens == 2 ^ 15

/-- Whether distance lengths are accepted: full, exactly one code of length 1, or none (R364). -/
def distOk (lens : List Nat) : Bool :=
  codeFull lens || lens.all (· == 0) || ((lens.filter (· != 0)) == [1])

/-- The fixed codes of RFC 1951. -/
def fixedLit : List Nat :=
  List.replicate 144 8 ++ List.replicate 112 9 ++ List.replicate 24 7 ++ List.replicate 8 8
def fixedDist : List Nat := List.replicate 32 5

/-- Base and extra bits of a length symbol 257 to 285, and of a distance symbol 0 to 29. -/
def lenBase (s : Nat) : Nat × Nat :=
  let i := s - 257
  if i < 8 then (3 + i, 0)
  else if i = 28 then (258, 0)
  else
    let e := i / 4 - 1
    (3 + (4 + i % 4) * 2 ^ e, e)
def distBase (s : Nat) : Nat × Nat :=
  if s < 4 then (1 + s, 0)
  else
    let e := s / 2 - 1
    (1 + (2 + s % 2) * 2 ^ e, e)

/-- The output so far, newest byte first, with the history behind it, and its length without the history. -/
structure InflateOut where
  rev  : List Byte
  hist : List Byte
  n    : Nat
deriving DecidableEq, Repr

/-- One byte more. -/
def outByte (o : InflateOut) (b : Byte) : InflateOut := { o with rev := b :: o.rev, n := o.n + 1 }

/-- The byte at distance `d` behind the end. -/
def outBack (o : InflateOut) (d : Nat) : Byte :=
  if d ≤ o.n then (o.rev[d - 1]?).getD 0 else (o.hist[d - o.n - 1]?).getD 0

/-- A match of length `l` at distance `d`. -/
def outMatch (d : Nat) : Nat → InflateOut → InflateOut
  | 0, o => o
  | l + 1, o => outMatch d l (outByte o (outBack o d))

/-- The symbols of a compressed block up to its end. `limit` is the largest output. -/
def inflateSyms (limit : Nat) (lit dist : List (Nat × Nat × Nat)) :
    Nat → BitRd → InflateOut → Except CodecErr (BitRd × InflateOut)
  | 0, _, _ => .error .overrun
  | f + 1, r, o =>
    match huffSym lit 15 0 0 r with
    | .error e => .error e
    | .ok (s, r1) =>
      if s < 256 then
        if limit ≤ o.n then .error .overrun else inflateSyms limit lit dist f r1 (outByte o (BitVec.ofNat 8 s))
      else if s = 256 then .ok (r1, o)
      else if 285 < s then .error .illegal
      else
        match takeBits (lenBase s).2 r1 with
        | .error e => .error e
        | .ok (x, r2) =>
          match huffSym dist 15 0 0 r2 with
          | .error e => .error e
          | .ok (ds, r3) =>
            if 29 < ds then .error .illegal
            else
              match takeBits (distBase ds).2 r3 with
              | .error e => .error e
              | .ok (y, r4) =>
                let d := (distBase ds).1 + y
                let l := (lenBase s).1 + x
                if o.n + o.hist.length < d then .error .distance
                else if limit < o.n + l then .error .overrun
                else inflateSyms limit lit dist f r4 (outMatch d l o)

/-- The code lengths of a dynamic block, newest first, `want` in all. -/
def readLens (t : List (Nat × Nat × Nat)) (want : Nat) :
    Nat → BitRd → List Nat → Except CodecErr (BitRd × List Nat)
  | 0, _, _ => .error .overrun
  | f + 1, r, ls =>
    if want ≤ ls.length then .ok (r, ls)
    else
      match huffSym t 15 0 0 r with
      | .error e => .error e
      | .ok (s, r1) =>
        if s < 16 then readLens t want f r1 (s :: ls)
        else if s = 16 && ls.isEmpty then .error .illegal
        else
          let base := if s = 16 then (2, 3) else if s = 17 then (3, 3) else (7, 11)
          match takeBits base.1 r1 with
          | .error e => .error e
          | .ok (x, r2) =>
            let k := base.2 + x
            if want < ls.length + k then .error .illegal
            else readLens t want f r2 (List.replicate k (if s = 16 then (ls[0]?).getD 0 else 0) ++ ls)

/-- The order of the code-length code's lengths. -/
def clOrder : List Nat := [16, 17, 18, 0, 8, 7, 9, 6, 10, 5, 11, 4, 12, 3, 13, 2, 14, 1, 15]

/-- `k` fields of `w` bits. -/
def takeMany (w : Nat) : Nat → BitRd → Except CodecErr (List Nat × BitRd)
  | 0, r => .ok ([], r)
  | k + 1, r =>
    match takeBits w r with
    | .error e => .error e
    | .ok (x, r1) =>
      match takeMany w k r1 with
      | .error e => .error e
      | .ok (xs, r2) => .ok (x :: xs, r2)

/-- The codes of a dynamic block. -/
def readCodes (fuel : Nat) (r : BitRd) : Except CodecErr (BitRd × List Nat × List Nat) :=
  match takeMany 5 2 r with
  | .error e => .error e
  | .ok (hs, r1) =>
    let hlit := (hs[0]?).getD 0
    let hdist := (hs[1]?).getD 0
    if 29 < hlit || 29 < hdist then .error .illegal
    else
      match takeBits 4 r1 with
      | .error e => .error e
      | .ok (hclen, r2) =>
        match takeMany 3 (hclen + 4) r2 with
        | .error e => .error e
        | .ok (cl, r3) =>
          let lens := (List.range 19).map (fun i =>
            ((clOrder.zip cl).find? (fun e => e.1 == i)).elim 0 (·.2))
          if !codeFull lens then .error .illegal
          else
            match readLens (huffTable lens) (hlit + 257 + hdist + 1) fuel r3 [] with
            | .error e => .error e
            | .ok (r4, ls) =>
              let all := ls.reverse
              let lit := all.take (hlit + 257)
              let dist := all.drop (hlit + 257)
              if (lit[256]?).getD 0 = 0 || !codeFull lit || !distOk dist then .error .illegal
              else .ok (r4, lit, dist)

/-- `n` bytes of a stored block. -/
def storedBytes (limit : Nat) : Nat → BitRd → InflateOut → Except CodecErr (BitRd × InflateOut)
  | 0, r, o => .ok (r, o)
  | n + 1, r, o =>
    match takeBits 8 r with
    | .error e => .error e
    | .ok (b, r1) => if limit ≤ o.n then .error .overrun else storedBytes limit n r1 (outByte o (BitVec.ofNat 8 b))

/-- The blocks of a stream up to its final block. -/
def inflateBlocks (limit bitFuel : Nat) : Nat → BitRd → InflateOut → Except CodecErr (BitRd × InflateOut)
  | 0, _, _ => .error .overrun
  | f + 1, r, o =>
    match takeBits 3 r with
    | .error e => .error e
    | .ok (h, r1) =>
      let body : Except CodecErr (BitRd × InflateOut) :=
        if h / 2 = 0 then
          match takeMany 16 2 (alignBits r1) with
          | .error e => .error e
          | .ok (ls, r2) =>
            let len := (ls[0]?).getD 0
            if (ls[1]?).getD 0 ≠ 0xFFFF - len then .error .illegal else storedBytes limit len r2 o
        else if h / 2 = 1 then inflateSyms limit (huffTable fixedLit) (huffTable fixedDist) bitFuel r1 o
        else if h / 2 = 2 then
          match readCodes bitFuel r1 with
          | .error e => .error e
          | .ok (r2, lit, dist) => inflateSyms limit (huffTable lit) (huffTable dist) bitFuel r2 o
        else .error .illegal
      match body with
      | .error e => .error e
      | .ok (r2, o2) => if h % 2 = 1 then .ok (r2, o2) else inflateBlocks limit bitFuel f r2 o2

/-- An RFC 1951 stream decoded with the history carried into it (oldest byte first): the output, and the bytes that
follow the stream. -/
def inflate (limit : Nat) (hist stream : List Byte) : Except CodecErr (List Byte × List Byte) :=
  let fuel := 8 * stream.length + 1
  match inflateBlocks limit fuel fuel (bitRd stream) { rev := [], hist := hist.reverse, n := 0 } with
  | .error e => .error e
  | .ok (r, o) => .ok (o.rev.reverse, stream.drop (stream.length - bytesLeft (alignBits r)))

/-! ### The raw form (R360) -/

/-- A run of decoded members: the output so far and the error that ended it. -/
structure Decoded where
  out : List Byte
  err : Option CodecErr
deriving DecidableEq, Repr

/-- The last 32,768 bytes of a list. -/
def lastHist (l : List Byte) : List Byte := l.drop (l.length - 32768)

/-- The history behind a member of a stream: a member with CONT 0 begins a new chain (R360, R367, R369). -/
def chainHist (hist : List Byte) (cont : Bool) (o : List Byte) : List Byte := lastHist (if cont then hist ++ o else o)

/-- One raw-form member: its output and the bytes after it. -/
def rawMember (hist inp : List Byte) : Except CodecErr (List Byte × List Byte) :=
  let b (i : Nat) : Nat := ((inp[i]?).getD 0).toNat
  let n := inp.length
  if b 0 ≠ 0x4B || (1 < n && b 1 ≠ 0x5A) then .error .illegal
  else if (2 < n && 1 < b 2) || (3 < n && b 3 ≠ 0) then .error .illegal
  else if 12 ≤ n && 1048576 < leAt inp 8 4 then .error .illegal
  else if n < 12 then .error .overrun
  else
    let clen := leAt inp 4 4
    let ulen := leAt inp 8 4
    let body := inp.drop 12
    let cont := b 2 = 1
    match inflate ulen (if cont then hist else []) (body.take clen) with
    | .error e => .error e
    | .ok (out, rest) =>
      if !rest.isEmpty || body.length < clen || out.length ≠ ulen then .error .overrun
      else if body.length < clen + 4 then .error .overrun
      else if leAt body clen 4 ≠ crc32c out then .error .check
      else .ok (out, body.drop (clen + 4))

/-- The bytes after the padding at position `pos` of a stage's input: a zero byte where a member or a block must start
skips to the next 4,096-byte span (R366). -/
def skipPad (pos : Nat) (inp : List Byte) : Nat × List Byte :=
  match inp with
  | b :: _ => if b = 0 then (pos + (4096 - pos % 4096), inp.drop (4096 - pos % 4096)) else (pos, inp)
  | [] => (pos, [])

/-- The raw form of a stage's input from byte `pos`. -/
def rawRun : Nat → Nat → List Byte → List Byte → List Byte → Decoded
  | 0, _, _, _, out => { out := out, err := none }
  | f + 1, pos, hist, inp, out =>
    match inp with
    | [] => { out := out, err := none }
    | b :: _ =>
      if b = 0 then rawRun f (skipPad pos inp).1 hist (skipPad pos inp).2 out
      else
        match rawMember hist inp with
        | .error e => { out := out, err := some e }
        | .ok (o, rest) => 
          rawRun f (pos + (inp.length - rest.length)) (chainHist hist (leAt inp 2 1 = 1) o) rest (out ++ o)

/-- A raw-form decompress stage, with the history carried into it (R369). -/
def decompressRaw (hist inp : List Byte) : Decoded := rawRun (inp.length + 1) 0 hist inp []

/-! ### The gzip form (R361) -/

/-- The list after the first zero byte, none where there is no zero byte. -/
def afterZero : List Byte → Option (List Byte)
  | [] => none
  | b :: t => if b = 0 then some t else afterZero t

/-- The optional fields of a gzip header after its ten fixed bytes. -/
def gzipFields (flg : Nat) (l : List Byte) : Except CodecErr (List Byte) :=
  let s1 : Except CodecErr (List Byte) :=
    if flg.testBit 2 then
      (if l.length < 2 || (l.drop 2).length < leAt l 0 2 then .error .overrun else .ok ((l.drop 2).drop (leAt l 0 2)))
    else .ok l
  let z (on : Bool) (x : Except CodecErr (List Byte)) : Except CodecErr (List Byte) :=
    match x with
    | .error e => .error e
    | .ok t => if on then (match afterZero t with | some u => .ok u | none => .error .overrun) else .ok t
  z (flg.testBit 4) (z (flg.testBit 3) s1)

/-- One gzip member: its output and the bytes after it. -/
def gzipMember (inp : List Byte) : Except CodecErr (List Byte × List Byte) :=
  let b (i : Nat) : Nat := ((inp[i]?).getD 0).toNat
  let n := inp.length
  if b 0 ≠ 0x1F || (1 < n && b 1 ≠ 0x8B) || (2 < n && b 2 ≠ 8) || (3 < n && 32 ≤ b 3) then .error .illegal
  else if n < 10 then .error .overrun
  else
    match gzipFields (b 3) (inp.drop 10) with
    | .error e => .error e
    | .ok l0 =>
      let headLen := n - l0.length
      let hcrc := (b 3).testBit 1
      if hcrc && l0.length < 2 then .error .overrun
      else if hcrc && leAt l0 0 2 ≠ crc32 (inp.take headLen) % 2 ^ 16 then .error .check
      else
        let l := if hcrc then l0.drop 2 else l0
        match inflate (2 ^ 64) [] l with
        | .error e => .error e
        | .ok (out, rest) =>
          if rest.length < 4 then .error .overrun
          else if leAt rest 0 4 ≠ crc32 out then .error .check
          else if rest.length < 8 || leAt rest 4 4 ≠ out.length % 2 ^ 32 then .error .overrun
          else .ok (out, rest.drop 8)

/-- The gzip form of a stage's input from byte `pos`. -/
def gzipRun : Nat → Nat → List Byte → List Byte → Decoded
  | 0, _, _, out => { out := out, err := none }
  | f + 1, pos, inp, out =>
    match inp with
    | [] => { out := out, err := none }
    | b :: _ =>
      if b = 0 then gzipRun f (skipPad pos inp).1 (skipPad pos inp).2 out
      else
        match gzipMember inp with
        | .error e => { out := out, err := some e }
        | .ok (o, rest) => gzipRun f (pos + (inp.length - rest.length)) rest (out ++ o)

/-- A gzip-form decompress stage. -/
def decompressGzip (inp : List Byte) : Decoded := gzipRun (inp.length + 1) 0 inp []

/-! ### The compressor (R361 to R363) -/

/-- A piece as stored blocks of at most 65,535 bytes. -/
def storedStream (p : List Byte) : List Byte :=
  let cs := if p.isEmpty then [[]] else chunks 65535 p
  (cs.zipIdx.map (fun e =>
    [if e.2 + 1 = cs.length then (1 : Byte) else 0] ++ leBytes e.1.length 2 ++ leBytes (0xFFFF - e.1.length) 2 ++ e.1)).foldl
    (· ++ ·) []

/-- The RFC 1951 stream of a piece: the device's choice where it decodes back to the piece and keeps the bound of R363,
otherwise stored blocks (log 9). -/
def deflateStream (hist p : List Byte) : List Byte :=
  let c := Config.deflateChoice hist p
  let good := match inflate p.length hist c with
    | .ok (o, rest) => o == p && rest.isEmpty
    | .error _ => false
  if good && c.length ≤ p.length + 5 * max 1 (ceilDiv p.length 65535) then c else storedStream p

/-- A raw-form member of a piece (R360). -/
def rawMemberOf (cont : Bool) (hist p : List Byte) : List Byte :=
  let st := deflateStream (if cont then hist else []) p
  [0x4B, 0x5A, if cont then 1 else 0, 0] ++ leBytes st.length 4 ++ leBytes p.length 4 ++ st ++ leBytes (crc32c p) 4

/-- A gzip member of a piece (R361). -/
def gzipMemberOf (p : List Byte) : List Byte :=
  [0x1F, 0x8B, 0x08, 0, 0, 0, 0, 0, 0, 0xFF] ++ deflateStream [] p ++ leBytes (crc32 p) 4 ++ leBytes p.length 4

/-- The pieces of a stage's input (R348); an empty input is one empty piece. -/
def compressPieces (l : List Byte) : List (List Byte) := if l.isEmpty then [[]] else chunks 1048576 l

/-- The bound of R363 on a compress stage's output. -/
def compressBound (gzip : Bool) (n : Nat) : Nat :=
  n + 5 * max 1 (ceilDiv n 65535) + (if gzip then 18 else 16) * max 1 (ceilDiv n 1048576)

/-- The stored form of a coarse unit under DEFLATE (R155, R365): the member, where it fits 15 codewords. -/
def compressUnit (u : List Byte) : Option (List Byte) :=
  let m := rawMemberOf false [] u
  if m.length ≤ 61440 then some m else none

/-- A coarse unit read back from its stored member (R365); none where a check of R367 fails. -/
def expandUnit (stored : List Byte) : Option (List Byte) :=
  match rawMember [] stored with
  | .ok (out, _) => if out.length = 65536 then some out else none
  | .error _ => none

end Sys2Proof.Machine
end

