-- ==== Sys2Proof/Machine/Settings.lean ====
section
/-! DEFINITION. The settings store (R44, R217 to R221): its body as the state holds it, and the updates that commands
wait for. -/

namespace Sys2Proof.Machine

/-- Whether the settings store keeps a register's value: one that a start restores (R70), and the read-threshold sets and
selection registers of section 0004h. -/
def isKept (key : Nat) : Bool :=
  match regDesc (key % 2 ^ 26) with
  | some d => d.restored || (decide (0xA00100 ≤ key) && decide (key < 0xA00180))
      || (decide (0xA01000 ≤ key) && decide (key < 0xA02000))
  | none => false

/-- The register values that the settings store keeps. -/
def snapshotsOf (s : State) : List (Nat × Dword) := s.bus.active.filter (fun e => isKept e.1)

/-- The key slots as section 0008h keeps them: USED and NEXT restart at their marks (R417). -/
def keptSlots (t : List (Nat × KeySlot)) : List (Nat × KeySlot) :=
  t.map (fun e => (e.1, { e.2 with used := e.2.usedMark, next := e.2.nextMark }))

/-- The bytes of a namespace. -/
def nsBytes (n : Namespace) : Nat := n.nsze * n.lbaSize

/-- A namespace with another LBA size: its size in bytes stays. -/
def withLba (size : Nat) (n : Namespace) : Namespace := { n with lbaSize := size, nsze := nsBytes n / size }

/-- A settings body after what the commit of an update brings into effect. -/
def actBody (b : Settings) : SavedAct → Settings
  | .deleteNs n => { b with namespaces := tabDel b.namespaces n, nsKeys := tabDel b.nsKeys n }
  | .formatNs n size key =>
    let slotOf := (tabGet b.namespaces n).map (fun x => (x.cipher, x.keySlot))
    { b with
      namespaces := b.namespaces.map (fun e => if e.1 = n then (n, withLba size e.2) else e)
      nsKeys := match key, slotOf with
        | some k, some (1, _) => tabPut b.nsKeys n k
        | _, _ => b.nsKeys
      keys := match key, slotOf with
        | some _, some (2, k) => tabUpd {} b.keys k (fun _ => {})
        | _, _ => b.keys }
  | .sanitize crypto => { b with sanitize := some crypto, sanitized := false }
  | .sanitizeEnd => { b with sanitize := none, sanitized := true }

/-- What waits for the commit of the update in progress, and of the one after it. -/
def pendingActs (s : State) : List SavedAct :=
  ((s.etch.update.map (·.acts)).getD []) ++ ((s.etch.wanted.map (·.acts)).getD [])

/-- The body of the settings store that holds the state as it is. -/
def settingsHeld (s : State) : Settings :=
  { training := keptTraining s, present := s.media.present, away := awayDies s
    dramTrained := s.drc.chans.any (fun e => e.2.st == 2 || e.2.st == 3)
    dramPop := s.drc.population
    accepted := (s.media.acceptedNext).getD s.media.accepted
    marks := s.pcs.marks, remapDram := s.pcs.remapDram, remapSram := s.pcs.remapSram
    namespaces := s.ftl.namespaces, tenants := s.tenants.recs, bind := s.tenants.bind
    keys := keptSlots s.cry.slots, nsKeys := keptSlots s.cry.nsKeys
    features := s.host.features, linkMode := s.power.linkNext.getD s.power.linkMode
    snapshots := snapshotsOf s, patrol := s.pcs.patrolSaved, health := s.ftl.health, faults := s.media.faults
    faultsTotal := s.media.faultsTotal, faultsAt := s.media.faultsAt
    therm := s.therm.log, sanitize := s.host.sanitizing, sanitized := s.host.sanitized }

/-- The body of the settings store that the device would write now (R217): what waits for a commit is in it. -/
def settingsNow (s : State) : Settings := (pendingActs s).foldl actBody (settingsHeld s)

/-- A settings update asked for, with what its commit brings into effect and the commands that complete with it; requests that wait
for the update in progress are served by one update (log 18). -/
def wantActs (s : State) (acts : List SavedAct) (cmds : List CmdId) : State :=
  let old := s.etch.wanted.getD { body := {}, cmds := [], events := false }
  let all := old.acts ++ acts
  { s with etch := { s.etch with
      wanted := some { old with body := all.foldl actBody (((s.etch.update.map (·.acts)).getD []).foldl actBody (settingsHeld s)),
                                cmds := old.cmds ++ cmds, acts := all } } }
def wantSettings (s : State) (cmds : List CmdId) : State := wantActs s [] cmds

/-- A settings update whose commit is followed by the event of a fault (R199); with no Etch die left the event is raised at
once. -/
def wantFaultEvent (s : State) : State :=
  if etchGone s then faultEvent s
  else
    let s1 := wantSettings s []
    { s1 with etch := { s1.etch with wanted := s1.etch.wanted.map (fun u => { u with events := true }) } }

/-- A command that has changed a settings record: it completes with success and `data` once the update is committed and its
anchor record programmed (R44, R221); bits [31:0] of `dw0` are DW0 and the bits above DW1. -/
def completeSaved (s : State) (id : CmdId) (dw0 : Nat) (data : List Byte) : State :=
  wantSettings (updCmd s id (fun e => { e with phase := .held, done := dw0, data := data })) [id]

/-- A command whose effect comes with the commit of its settings update (R44; DEDUCED, log 138). -/
def completeActs (s : State) (id : CmdId) (acts : List SavedAct) : State :=
  wantActs (updCmd s id (fun e => { e with phase := .held, done := 0, data := [] })) acts [id]

/-- The commands of a committed update completed. -/
def finishSaved (s : State) (ids : List CmdId) : State :=
  ids.foldl (fun t id =>
    match findCmd t id with
    | some e => completeWith t id stSuccess (dwordOf e.done) (dwordOf (e.done / 2 ^ 32)) e.data
    | none => t) s

/-- A command whose settings commit is impossible fails and changes nothing (R613). -/
def canSave (s : State) : Bool := !etchGone s

/-! ### The keys of namespaces (R254, R403, R411 to R419) -/

/-- The key of a namespace: its slot, and whether the table of namespace keys holds it. -/
def nsKeySlot (s : State) (nsid : Nat) (n : Namespace) : KeySlot :=
  if n.cipher = 1 then tabAt {} s.cry.nsKeys nsid else tabAt {} s.cry.slots n.keySlot

/-- Whether writes to a namespace are refused for its key (R419); an empty slot, or one of another tenant, counts as
refused (R418, log 19). -/
def keyRefused (s : State) (nsid : Nat) (n : Namespace) : Bool :=
  let k := nsKeySlot s nsid n
  if n.cipher = 0 then false
  else if n.cipher = 1 then k.st ≠ 1
  else k.st ≠ 1 || k.owner ≠ n.owner || k.kind ≠ 2

/-- The namespace's key slot changed. -/
def updNsKey (s : State) (nsid : Nat) (n : Namespace) (g : KeySlot → KeySlot) : State :=
  if n.cipher = 1 then { s with cry := { s.cry with nsKeys := tabUpd {} s.cry.nsKeys nsid g } }
  else if n.cipher = 2 then { s with cry := { s.cry with slots := tabUpd {} s.cry.slots n.keySlot g } }
  else s

/-- Data units added to USED; a slot that reaches LIMIT becomes refused and sets CRY_EVENT.LIMIT_REACHED (R418). -/
def useUnits (k : KeySlot) (units : Nat) : KeySlot :=
  let u := k.used + units
  { k with used := u, st := if k.limit ≤ u then 2 else k.st }

/-- The sequence number of a codeword's data unit (R403). -/
def xtsSeq (nsid unit part : Nat) : Nat := unit * 16 + part + nsid * 2 ^ 64

/-- `n` bytes of a free value. -/
def freeBytes (s : State) (n : Nat) : List Byte :=
  (List.range n).map (fun i => BitVec.ofNat 8 ((Config.freeValue (s.freeCount + i)).toNat))

/-- The bytes of a codeword as its namespace reads them: deciphered when it is encrypted. A slot that no longer holds
the key gives bytes that nothing constrains (log 19). -/
def plainOf (s : State) (nsid unit part : Nat) (n : Namespace) (user : List Byte) : List Byte :=
  if n.cipher = 0 then user
  else
    let k := nsKeySlot s nsid n
    if k.st = 0 then freeBytes s user.length else xtsUnit false k.key (xtsSeq nsid unit part) user

/-- The bytes of a codeword as the media hold them. -/
def cipherOf (s : State) (nsid unit part : Nat) (n : Namespace) (bytes : List Byte) : List Byte :=
  if n.cipher = 0 then bytes else xtsUnit true (nsKeySlot s nsid n).key (xtsSeq nsid unit part) bytes

/-! ### What a unit holds -/

/-- The place of the i-th codeword after a first codeword: ascending codewords and pages of one block (R155). -/
def cwAfter (e : Qword) (i : Nat) : Nat :=
  let c := eCw e + i
  cwKey (eDie e) (eBlock e) (ePage e + c / 4) (c % 4)

/-- The codewords of an entry of KIND 01b. -/
def cwKeys (e : Qword) : List Nat := (List.range (eLen e)).map (cwAfter e)

/-- The plain bytes of a unit at an entry, of the namespace's unit size (R22, R193). -/
def unitPlain (s : State) (nsid unit : Nat) (n : Namespace) (e : Qword) : List Byte :=
  if eKind e = 2 then extentBytes s (eSlot e) (unitCws n)
  else if eKind e = 1 then
    let parts := (List.range (eLen e)).map (fun i =>
      match heldWord s (cwAfter e i) with
      | some w => plainOf s nsid unit i n w.user
      | none => zeros 4096)
    let stored := parts.foldl (· ++ ·) []
    if eComp e then padTo (unitBytes n) ((expandUnit stored).getD []) else padTo (unitBytes n) stored
  else zeros (unitBytes n)

/-- The 4 KiB parts of a unit that the bytes [lo, hi) of it touch. -/
def partsOf (lo hi : Nat) : List Nat :=
  if hi ≤ lo then [] else (List.range ((hi - 1) / 4096 - lo / 4096 + 1)).map (· + lo / 4096)

/-- Whether one of some parts is poisoned (R156, R157). -/
def poisonedAt (e : Qword) (parts : List Nat) : Bool := parts.any (fun i => (ePoison e).testBit i)

end Sys2Proof.Machine
end

