-- ==== Sys2Proof/Machine/Thresholds.lean ====
section
/-! DEFINITION. Temperatures, wear and read-threshold sets (R129, R135 to R138), and the start of a codeword read (R131, R192). -/

namespace Sys2Proof.Machine

/-! ### Temperatures and time of a program (R136) -/

/-- The median of the healthy sensors (R555), and the temperature of a die. -/
def medianNow (s : State) : Int := s.therm.tjMedian
def dieTemp (s : State) (die : Nat) : Int := if (dieAt s die).params.hasTemp then (dieAt s die).temp else medianNow s

/-- Erase count as a percentage of rated endurance. Of a parameter page that declares an endurance of 0 the percentage is
undefined; the wear counts as 0 percent (DESIGN CHOICE, log 125). -/
def wearPct (s : State) (die : Nat) (b : BlockRec) : Nat :=
  if (dieAt s die).params.endurance = 0 then 0 else b.erases * 100 / (dieAt s die).params.endurance

/-- The bin of a value against three boundaries (R137). -/
def binOf (v b1 b2 b3 : Int) : Nat := if v < b1 then 0 else if v < b2 then 1 else if v < b3 then 2 else 3

/-- The wear band of a block (R129). -/
def wearBand (s : State) (die : Nat) (b : BlockRec) : Nat :=
  binOf (wearPct s die b) (regFld s 0xA00018 0 8) (regFld s 0xA00018 8 8) (regFld s 0xA00018 16 8)

/-! ### Read-threshold selection (R135, R137) -/

/-- The other three bins of a block (R137). -/
def ageBin (s : State) (b : BlockRec) : Nat :=
  binOf ((now s / secTicks - b.progTime) / 3600) (regFld s 0xA00020 0 16) (regFld s 0xA00020 16 16) (regFld s 0xA00024 0 16)
def tempBin (s : State) (die : Nat) (b : BlockRec) : Nat :=
  binOf (dieTemp s die - b.progTemp) (signedOf 8 (regFld s 0xA00028 0 8)) (signedOf 8 (regFld s 0xA00028 8 8))
    (signedOf 8 (regFld s 0xA00028 16 8))
def readBin (s : State) (b : BlockRec) : Nat :=
  binOf (b.reads / 1024) (regFld s 0xA0002C 0 10) (regFld s 0xA0002C 10 10) (regFld s 0xA0002C 20 10)

/-- The index of R137 and the set that PCS_RTS_SELECT gives it. -/
def rtsIndex (s : State) (die : Nat) (b : BlockRec) : Nat :=
  ageBin s b * 64 + tempBin s die b * 16 + wearBand s die b * 4 + readBin s b
def selectedSet (s : State) (die : Nat) (b : BlockRec) : Nat :=
  let i := rtsIndex s die b
  regFld s (0xA00100 + i / 8 * 4) (i % 8 * 4) 4

/-- The override of a block cleared once its age bin has changed (R135). The record keeps the set; `overrideBin` the bin in which
it was found. -/
def freshOverride (s : State) (k : Nat) : State :=
  let b := tabAt {} s.ftl.blocks k
  if b.override.isSome ∧ b.overrideBin ≠ ageBin s b then updBlock s k (fun b => { b with override := none }) else s

/-- The set with which step 1 of a read starts: the override, or the one chosen under R137. -/
def startSet (s : State) (die : Nat) (b : BlockRec) : Nat := b.override.getD (selectedSet s die b)

/-! ### The start of a read (R131, R138, R192) -/

/-- The codewords that must be read from flash to have some parts of a unit. -/
def wordsFor (e : Qword) (parts : List Nat) : List Nat :=
  if eKind e ≠ 1 || parts.isEmpty then [] else if eComp e then List.range (eLen e) else parts

/-- The number of a die's type in the accepted-die list (R99), and the registers PCS_RTS_SET of its sets that are not 0, by their
offset within the type's. -/
def dieTypeNo (s : State) (die : Nat) : Nat := ((dieAt s die).dtype.map (fun t => s.media.accepted.idxOf t)).getD 0
def setsNow (s : State) (die : Nat) : List (Nat × Dword) :=
  let base := 0xA01000 + 0x100 * dieTypeNo s die
  (s.bus.active.filter (fun e => decide (base ≤ e.1) && decide (e.1 < base + 0x100))).map (fun e => (e.1 - base, e.2))

/-- The read of the codeword at a place started for `who`: it keeps the set that its block has now. `nsid`, `tenant`, `unit` and
`part` are what the entry that led to it says of it. -/
def newRead (s : State) (who : ReadFor) (nsid tenant unit part key : Nat) : ReadReq :=
  let b := tabAt {} s.ftl.blocks (key / 32768)
  let die := keyDie (key / 32768)
  { key := key, owner := who, chosen := selectedSet s die b, base := startSet s die b, cur := startSet s die b
    sets := setsNow s die, nsid := nsid, tenant := tenant, unit := unit, part := part }

/-- The reads of some codewords of a unit started. -/
def startReads (s : State) (who : ReadFor) (nsid : Nat) (n : Namespace) (unit : Nat) (e : Qword) (words : List Nat) : State :=
  words.foldl (fun t i =>
    let t1 := freshOverride t (cwAfter e i / 32768)
    { t1 with ftl := { t1.ftl with reads := t1.ftl.reads ++ [newRead t1 who nsid n.owner unit i (cwAfter e i)] } }) s

/-- The reads of one that no longer waits for them given up. -/
def dropReads (s : State) (who : ReadFor) : State :=
  { s with ftl := { s.ftl with reads := s.ftl.reads.filter (fun r => r.owner ≠ who) } }

end Sys2Proof.Machine
end

