-- ==== Sys2Proof/Machine/IoRun.lean ====
section
/-! DEFINITION. How I/O commands run between their fetch and their completion: order (R256), admission (R203, R216,
R510), the moving of data into Etch extents, reads (R255 to R259). -/

namespace Sys2Proof.Machine

/-! ### Strict Partition (R520, R521) -/

/-- Whether Strict Partition is on. -/
def strictOn (s : State) : Bool := regFld s 0x1E00008 0 1 == 1

/-- The tenant of a slot in the table in force. -/
def slotTenant (s : State) (slot : Nat) : Nat := regFld s (0x1E00100 + slot / 2 * 4) (slot % 2 * 16) 11

/-- Whether the slot in progress serves a tenant; tag 0 is served in slots of entry 0. -/
def servesTenant (s : State) (t : Nat) : Bool := !strictOn s || slotTenant s s.tenants.slot == t

/-- Nanoseconds that the run in progress still holds (R521, R522): to the first later slot of another tenant, or to the frame
boundary. -/
def runLeft (s : State) : Nat :=
  let t := islandTime s isFabric
  let k := s.tenants.slot
  let end_ := ((List.range' (k + 1) (63 - k)).find? (fun j => slotTenant s j != slotTenant s k)).getD 64
  if t / 128000 = s.tenants.frameNo then end_ * 2000 - t % 128000 else 0

/-- Whether a unit may start work for a tenant that takes at least `least` nanoseconds (R522). -/
def servesFor (s : State) (t least : Nat) : Bool := servesTenant s t && (!strictOn s || decide (least ≤ runLeft s))

/-! ### LBA ranges and order (R256, R312) -/

/-- Source kinds of R276: namespace, host buffer, stream, channel. -/
def srcNamespace : Nat := 0
def srcHost : Nat := 1
def srcStream : Nat := 2
def srcChannel : Nat := 3

/-- Sink kinds of R276: host buffer, namespace, result pool, channel. -/
def snkHost : Nat := 0
def snkNamespace : Nat := 1
def snkPool : Nat := 2
def snkChannel : Nat := 3

/-- The last channel of the chain that starts at a slot (at most 4 channels, R282). -/
def lastOfChain (s : State) : Nat → Nat → Nat
  | 0, slot => slot
  | n + 1, slot =>
    match (tabGet s.chn.slots slot).bind (·.down) with
    | some d => lastOfChain s n d
    | none => slot

/-- The size of a namespace in LBAs. -/
def nsSize (s : State) (nsid : Nat) : Nat := ((tabGet s.ftl.namespaces nsid).map (·.nsze)).getD 0

/-- The sink range of a job: its last channel's namespace; an append takes the whole namespace until its region is
assigned (R312, R313). -/
def sinkRange (s : State) (j : Job) : List (Nat × Nat × Nat) :=
  match tabGet s.chn.slots (lastOfChain s 3 j.slot) with
  | none => []
  | some c =>
    if c.snk ≠ snkNamespace then []
    else if j.append then
      if ((findCmd s j.cmd).map (·.assigned)).getD false then [(c.snkParam, j.sinkLba, j.desc.snk8.toNat)] else [(c.snkParam, 0, nsSize s c.snkParam)]
    else [(c.snkParam, j.desc.snk0.toNat, j.desc.snk8.toNat + 1)]

/-- The source range of a job. -/
def sourceRange (s : State) (j : Job) : List (Nat × Nat × Nat) :=
  match tabGet s.chn.slots j.slot with
  | none => []
  | some c => if c.src = srcNamespace then [(c.srcParam, j.desc.src0.toNat, j.desc.src8.toNat + 1)] else []

/-- The ranges of a Dataset Management command: 16 bytes each, length in bytes 4 to 7, first LBA in bytes 8 to 15. -/
def dsmRanges (c : NvCmd) : List (Nat × Nat) :=
  (List.range (fld c.c10 0 8 + 1)).map (fun i => (leAt c.data (16 * i + 8) 8, leAt c.data (16 * i + 4) 4))

/-- The ranges with which a command takes part in R256. -/
def rangesOf (s : State) (e : ExecCmd) : List (Nat × Nat × Nat) :=
  match e.job with
  | some j =>
    match tabGet s.chn.jobs j with
    | some b => sourceRange s b ++ sinkRange s b
    | none => []
  | none =>
    if e.opcode = 0x09 then (dsmRanges e.cmd).map (fun r => (e.nsid, r.1, r.2))
    else if e.nlb = 0 then []
    else [(e.nsid, e.slba, e.nlb)]

/-- The ranges of a command that have not executed (R255). -/
def openRanges (s : State) (e : ExecCmd) : List (Nat × Nat × Nat) :=
  match e.phase with
  | .executed | .aborted | .reading => []
  | _ =>
    match e.job with
    | some j =>
      match tabGet s.chn.jobs j with
      | some b => (if b.begun then [] else sourceRange s b) ++ sinkRange s b
      | none => []
    | none => rangesOf s e

/-- Whether two ranges share an LBA of one namespace. -/
def rangesMeet (x y : Nat × Nat × Nat) : Bool :=
  x.1 == y.1 && decide (x.2.1 < y.2.1 + y.2.2) && decide (y.2.1 < x.2.1 + x.2.2)

/-- Whether a fetched command's ranges are not known yet: its step has not run, so it may overlap anything (R256). -/
def rangeUnread (o : ExecCmd) : Bool :=
  o.phase == .fetched && [0x01, 0x02, 0x05, 0x08, 0x09, 0x0C, 0x81, 0x85, 0x89].contains o.opcode

/-- Whether an earlier command of the same submission queue still holds a command back (R256). -/
def heldByOrder (s : State) (e : ExecCmd) : Bool :=
  s.host.exec.any (fun o =>
    o.isIo && o.cmd.id.fn == e.cmd.id.fn && o.cmd.id.qid == e.cmd.id.qid && decide (o.order < e.order)
      && (rangeUnread o || (openRanges s o).any (fun x => (rangesOf s e).any (rangesMeet x))))

/-- The command waits in a phase. -/
def park (s : State) (id : CmdId) (p : Phase) : State := updCmd s id (fun e => { e with phase := p })

/-- Map pages asked for (R162, R233). -/
def wantPages (s : State) (pages : List Nat) : State :=
  { s with ftl := { s.ftl with wanted := s.ftl.wanted ++ pages.filter (fun p => !s.ftl.wanted.contains p) } }

/-- The first access to a namespace since start (R163), and the use of the leaf pages of some units and of the directory pages that
name them (R162): `resident` runs from the least to the most recently used. -/
def noteAccess (s : State) (nsid : Nat) (keys : List Nat) : State :=
  let leaves := setOfNats (keys.map dirOf ++ keys.map leafOf)
  { s with ftl := { s.ftl with
      accessed := if s.ftl.accessed.contains nsid then s.ftl.accessed else s.ftl.accessed ++ [nsid]
      resident := s.ftl.resident.filter (fun p => !leaves.contains p)
        ++ leaves.filter (fun p => s.ftl.resident.contains p) } }

/-! ### Admission (R216, R510) -/

/-- ETB_ADMIT_CFG within its bounds. -/
def admitHigh (s : State) : Nat := within 50 98 (regFld s 0xE00008 0 8)
def admitLow (s : State) : Nat := within 10 (admitHigh s - 5) (regFld s 0xE00008 8 8)

/-- The admission hold taken or released by the occupancy of the data regions. -/
def settleAdmission (s : State) : State :=
  if s.etch.admitHold then
    if occupancyPct s < admitLow s then { s with etch := { s.etch with admitHold := false } } else s
  else if admitHigh s ≤ occupancyPct s then raise { s with etch := { s.etch with admitHold := true } } evEtb 2
  else s

/-- A tenant's record, with the defaults of R511 for none. -/
def tenantAt (s : State) (t : Nat) : Tenant := tabAt {} s.tenants.recs t

/-- The data slots a tenant may hold (R510). -/
def etchShare (s : State) (t : Nat) : Nat := (tenantAt s t).etchPct * dataSlots / 100

/-- The outcome of step 2 of R203 for a request: it passes, waits, or completes with a status. -/
inductive Admission where
  | pass
  | wait
  | fail (st : Status)
deriving DecidableEq, Repr

/-- Step 2 of R203: `need` slots for the piece, `whole` slots for the whole request; an append is never held. -/
def admission (s : State) (tenant nsid : Nat) (n : Namespace) (need whole : Nat) (append : Bool) : Admission :=
  if s.etch.jrnlHold then .wait
  else if need = 0 then .pass
  else if keyRefused s nsid n then .fail stKeyLimit
  else if s.etch.admitHold then (if append then .fail stQuota else .wait)
  else if etchShare s tenant < whole then .fail stQuota
  else if etchShare s tenant < tenantSlots s tenant + need then (if append then .fail stQuota else .wait)
  else .pass

/-! ### Moving data into the Etch buffer (steps 3 and 4 of R203) -/

/-- What steps 3 and 4 have done so far: the state, the entries of the record, the codewords still to be read for merges,
and whether every extent was found. -/
structure Placing where
  st      : State
  entries : List JEntry
  pend    : Nat
  blocks  : List Nat
  ok      : Bool
deriving DecidableEq, Repr

/-- The 4 KiB parts of a unit that a write of the LBAs [a, a + c) does not cover whole. -/
def restParts (n : Namespace) (a c u : Nat) : List Nat :=
  let lo := (max a (u * lbasPerUnit n) - u * lbasPerUnit n) * n.lbaSize
  let hi := (min (a + c) ((u + 1) * lbasPerUnit n) - u * lbasPerUnit n) * n.lbaSize
  (List.range (unitCws n)).filter (fun i => !(decide (lo ≤ i * 4096) && decide ((i + 1) * 4096 ≤ hi)))

/-- Steps 3 and 4 for one unit, for `who`, of a write of the LBAs [a, a + c) with `data`, or of zeros. A unit wholly inside a
zeroing takes KIND 11b; any other unit gets a new extent with its data merged (R156, R187). -/
def placeUnit (who : ReadFor) (nsid tenant : Nat) (n : Namespace) (a c : Nat) (data : List Byte) (zero : Bool) (p : Placing) (u : Nat) :
    Placing :=
  if !p.ok then p
  else
    let s := p.st
    let k := unitKey nsid u
    let old := entryAt s k
    let inside := unitInside n u a c
    if zero && inside then
      { p with entries := p.entries ++ [{ key := jUnitKey k, old := old, new := zeroesEntry }] }
    else
      match freeExtent s (unitCws n) with
      | none => { p with ok := false }
      | some slot =>
        let lpu := lbasPerUnit n
        let lo := max a (u * lpu)
        let hi := min (a + c) ((u + 1) * lpu)
        let off := (lo - u * lpu) * n.lbaSize
        let len := (hi - lo) * n.lbaSize
        let new := if zero then zeros len else sliceOf data ((lo - a) * n.lbaSize) len
        let rest := restParts n a c u
        let content := if inside then new else overlayAt (unitPlain s nsid u n old) off new
        let poison := rest.foldl (fun m i => if (ePoison old).testBit i then m + 2 ^ i else m) 0
        let words := wordsFor old rest
        let s1 := takeExtent (writeSlot s slot content) slot (unitCws n) k tenant
        let b := blockKey (eDie old) (eBlock old)
        { st := if words.isEmpty then s1 else startReads (holdBlock s1 b) who nsid n u old words
          entries := p.entries ++ [{ key := jUnitKey k, old := old, new := etchEntry (unitCws n) slot poison }]
          pend := p.pend + words.length
          blocks := if words.isEmpty then p.blocks else p.blocks ++ [b]
          ok := true }

/-- Steps 3 and 4 for a piece. -/
def placePiece (s : State) (who : ReadFor) (nsid tenant : Nat) (n : Namespace) (a c : Nat) (data : List Byte) (zero : Bool) :
    Placing :=
  (unitsOf n a c).foldl (placeUnit who nsid tenant n a c data zero)
    { st := s, entries := [], pend := 0, blocks := [], ok := true }

/-- The units that records being built name (log 20). -/
def busyUnits (s : State) : List Nat :=
  let of (l : List Built) : List Nat :=
    (l.filter (fun b => b.type == 1 || b.type == 2)).foldl (fun a b => a ++ b.entries.map (fun e => jUnit e.key)) []
  of s.etch.moving ++ of s.etch.built

/-- Data slots that a piece needs: one extent for each unit that is not zeroed whole. -/
def slotsNeeded (n : Namespace) (a c : Nat) (zero : Bool) : Nat :=
  ((unitsOf n a c).filter (fun u => !(zero && unitInside n u a c))).length * unitCws n

/-- LBAs in a piece of 1 MiB. -/
def lbasPerMib (n : Namespace) : Nat := 1048576 / n.lbaSize

/-- LBAs in the next piece of a command, from LBA `a` with `left` to go: all of them up to 1 MiB, and otherwise up to the last unit
boundary within 1 MiB, so that no unit lies in two pieces (R205). -/
def pieceLbas (n : Namespace) (a left : Nat) : Nat :=
  if left ≤ lbasPerMib n then left else (a + lbasPerMib n) / lbasPerUnit n * lbasPerUnit n - a

/-- The pieces of `left` LBAs from LBA `a`. -/
def piecesFrom (n : Namespace) : Nat → Nat → Nat → List (Nat × Nat)
  | 0, _, _ => []
  | k + 1, a, left =>
    if left = 0 then [] else (a, pieceLbas n a left) :: piecesFrom n k (a + pieceLbas n a left) (left - pieceLbas n a left)

/-- A record's OLD values as the map holds them when it is built (step 5 of R203). -/
def refreshOld (s : State) (es : List JEntry) : List JEntry :=
  es.map (fun e => { e with old := entryAt s (jUnit e.key) })

/-! ### The namespace path of the cipher islands (R402, R407) -/

/-- Whether a unit of a cipher island takes requests. -/
def burinReady (s : State) (g : Nat) : Bool :=
  (usableUnits s .burin g).any (fun u => !(tabAt {} s.cry.burin g).stalled.contains u)

/-- Whether the island of a die's media group serves an encrypted namespace; without masks it holds the request (R407). -/
def masksHold (s : State) (n : Namespace) (die : Nat) : Bool := n.cipher ≠ 0 && !burinReady s (die / 256)

/-- Whether a write must wait for masks to decipher what it merges with. -/
def mergeHeld (s : State) (nsid : Nat) (n : Namespace) (a c : Nat) : Bool :=
  (unitsOf n a c).any (fun u =>
    let old := entryAt s (unitKey nsid u)
    !(wordsFor old (restParts n a c u)).isEmpty && masksHold s n (eDie old))

/-- Runs the next piece of a Write, Write Zeroes or assigned direct append through steps 1 to 4 of R203. -/
def tryWrite (s : State) (e : ExecCmd) (n : Namespace) : State :=
  let id := e.cmd.id
  let zero := e.opcode = 0x08
  let a := e.slba + e.done
  let c := pieceLbas n a (e.nlb - e.done)
  let keys := (unitsOf n a c).map (unitKey e.nsid)
  let pages := pagesFor s keys
  if s.power.fence || heldByOrder s e || keys.any (fun k => (busyUnits s).contains k) then park s id .waitOrder
  else if !pages.isEmpty then wantPages (park s id .waitMap) pages
  else if mergeHeld s e.nsid n a c then park s id .waitOrder
  else
    match admission s e.tenant e.nsid n (slotsNeeded n a c zero) (slotsNeeded n e.slba e.nlb zero) (e.opcode = 0x85) with
    | .wait => park s id .held
    | .fail st => failCmd s id st
    | .pass =>
      if !e.cmd.memOk then failCmd s id stDataTransfer
      else
        let p := placePiece s (.cmd id) e.nsid e.tenant n a c (e.cmd.data.drop (e.done * n.lbaSize)) zero
        if !p.ok then park s id .held
        else
          let b : Built :=
            { type := if zero then 2 else 1, tenant := e.tenant, entries := p.entries, cmd := some id, job := none,
              last := e.done + c == e.nlb }
          let s1 := settleAdmission (noteAccess p.st e.nsid keys)
          let whole := p.entries.all (fun x => eKind x.new == 3)
          let s2 :=
            if whole then { s1 with etch := { s1.etch with built := s1.etch.built ++ [b] } }
            else { s1 with etch := { s1.etch with moving := s1.etch.moving ++ [b] } }
          updCmd s2 id (fun x => { x with
            phase := if whole then .built else .moving, pend := p.pend, blocks := p.blocks })

/-- The entries that a deallocation changes in a range: those of its whole units (R186). -/
def deallocEntries (s : State) (nsid : Nat) (n : Namespace) (r : Nat × Nat) : List JEntry :=
  ((unitsOf n r.1 r.2).filter (fun u => unitInside n u r.1 r.2)).map (fun u =>
    { key := jUnitKey (unitKey nsid u), old := entryAt s (unitKey nsid u), new := unmappedEntry })

/-- The records of a deallocation: one for a command of at most 1 MiB, and otherwise one for each piece of at most 1 MiB of each of
its ranges (R186, R205). -/
def deallocRecords (s : State) (e : ExecCmd) (n : Namespace) : List Built :=
  let rs := dsmRanges e.cmd
  let recOf (l : List (Nat × Nat)) : Built :=
    { type := 3, tenant := e.tenant, cmd := none, job := none, last := false
      entries := (l.map (deallocEntries s e.nsid n)).foldl (· ++ ·) [] }
  if rs.foldl (fun a r => a + r.2) 0 ≤ lbasPerMib n then [recOf rs]
  else ((rs.map (fun r => piecesFrom n (2 * ceilDiv r.2 (lbasPerMib n) + 1) r.1 r.2)).foldl (· ++ ·) []).map (fun r => recOf [r])

/-- A deallocation queues its records and completes (R186, R255); LBAs wholly deallocated leave page 0xC1 (R264). -/
def tryDealloc (s : State) (e : ExecCmd) (n : Namespace) : State :=
  let id := e.cmd.id
  let keys := ((dsmRanges e.cmd).map (fun r =>
    ((unitsOf n r.1 r.2).filter (fun u => unitInside n u r.1 r.2)).map (unitKey e.nsid))).foldl (· ++ ·) []
  let pages := pagesFor s keys
  if s.power.fence || heldByOrder s e then park s id .waitOrder
  else if !pages.isEmpty then wantPages (park s id .waitMap) pages
  else if s.etch.jrnlHold then park s id .held
  else
    let rs := (deallocRecords s e n).filter (fun b => !b.entries.isEmpty)
    let s1 := { s with etch := { s.etch with built := s.etch.built ++ rs } }
    complete (noteAccess s1 e.nsid keys) id stSuccess

/-! ### Reads (R257, R258) -/

/-- Whether the Etch die that holds a slot is lost (R226, R613). -/
def slotLost (s : State) (slot : Nat) : Bool := if slot < 1048576 then s.etch.lost0 else s.etch.lost1

/-- What a read of some LBAs takes of one unit: whether the data is unrecoverable, the bytes, the unit, its codewords to be read,
and the entry. -/
structure Taken where
  bad   : Bool
  bytes : List Byte
  unit  : Nat
  words : List Nat
  entry : Qword
deriving DecidableEq, Repr

/-- The part of a unit that a read of the LBAs [a, a + c) takes at its map entry. -/
def takeUnit (s : State) (nsid : Nat) (n : Namespace) (a c u : Nat) : Taken :=
  let en := entryAt s (unitKey nsid u)
  let lpu := lbasPerUnit n
  let lo := (max a (u * lpu) - u * lpu) * n.lbaSize
  let hi := (min (a + c) ((u + 1) * lpu) - u * lpu) * n.lbaSize
  let parts := partsOf lo hi
  { bad := poisonedAt en parts || (eKind en == 2 && slotLost s (eSlot en))
    bytes := sliceOf (unitPlain s nsid u n en) lo (hi - lo)
    unit := u
    words := wordsFor en parts
    entry := en }

/-- What a read takes of all its units. -/
def takeAll (s : State) (nsid : Nat) (n : Namespace) (a c : Nat) : List Taken :=
  (unitsOf n a c).map (takeUnit s nsid n a c)

/-- The blocks and the extents that a read holds until its data is delivered (R194, R258). -/
def takenBlocks (ts : List Taken) : List Nat :=
  (ts.filter (fun t => !t.words.isEmpty)).map (fun t => blockKey (eDie t.entry) (eBlock t.entry))
def takenSlots (ts : List Taken) : List Nat :=
  (ts.filter (fun t => eKind t.entry == 2)).map (fun t => eSlot t.entry)

/-- The codewords that a read waits for, and their reads started. -/
def takenWords (ts : List Taken) : Nat := ts.foldl (fun a t => a + t.words.length) 0
def startTaken (s : State) (who : ReadFor) (nsid : Nat) (n : Namespace) (ts : List Taken) : State :=
  ts.foldl (fun t x => startReads t who nsid n x.unit x.entry x.words) s

/-- Whether what a read takes must wait for masks (R407). -/
def takenHeld (s : State) (n : Namespace) (ts : List Taken) : Bool := ts.any (fun t => !t.words.isEmpty && masksHold s n (eDie t.entry))

/-- The holds of a read taken. -/
def takeHolds (s : State) (blocks slots : List Nat) : State := slots.foldl holdExtent (blocks.foldl holdBlock s)

/-- A read's data delivered: its holds are let go and the command completes (R258). -/
def finishRead (s : State) (id : CmdId) : State :=
  match findCmd s id with
  | none => s
  | some e =>
    let s1 := releaseHolds s e.blocks e.slots
    match e.status with
    | some st => failCmd s1 id st
    | none =>
      if e.opcode = 0x0C then complete s1 id stSuccess
      else if !e.cmd.memOk then failCmd s1 id stDataTransfer
      else if e.opcode = 0x05 then
        complete s1 id (if e.data = padTo e.data.length e.cmd.data then stSuccess else stCompareFail)
      else completeWith s1 id stSuccess 0 0 e.data

/-- A Read, Compare or Verify takes the entries of its units (R255); it completes at once when no codeword has to be
read from flash. -/
def tryRead (s : State) (e : ExecCmd) (n : Namespace) : State :=
  let id := e.cmd.id
  let keys := (unitsOf n e.slba e.nlb).map (unitKey e.nsid)
  let pages := pagesFor s keys
  if heldByOrder s e then park s id .waitOrder
  else if !pages.isEmpty then wantPages (park s id .waitMap) pages
  else
    let ts := takeAll s e.nsid n e.slba e.nlb
    let s1 := noteAccess s e.nsid keys
    if ts.any (·.bad) then failCmd s1 id stUnrecovered
    else if takenHeld s n ts then park s1 id .waitOrder
    else
      let pend := takenWords ts
      let s2 := startTaken (takeHolds s1 (takenBlocks ts) (takenSlots ts)) (.cmd id) e.nsid n ts
      let s3 := updCmd s2 id (fun x => { x with
        phase := .reading, pend := pend, data := (ts.map (·.bytes)).foldl (· ++ ·) [],
        blocks := takenBlocks ts, slots := takenSlots ts })
      if pend = 0 then finishRead s3 id else s3

/-! ### Resuming -/

/-- Tries to take an I/O command on from where it waits. -/
def ioTry (s : State) (id : CmdId) : State :=
  match findCmd s id with
  | none => s
  | some e =>
    if !e.isIo || e.job.isSome then s
    else
      match e.phase with
      | .fetched | .waitOrder | .waitMap | .held =>
        match tabGet s.ftl.namespaces e.nsid with
        | none => failCmd s id stInvalidNs
        | some n =>
          if homeAway s n then (if homeLost s n then failCmd s id stNotReady else forwardCmd s id n.home)
          else if !servesTenant s e.tenant then park s id .waitOrder
          else if e.opcode = 0x02 || e.opcode = 0x05 || e.opcode = 0x0C then tryRead s e n
          else if e.opcode = 0x09 then tryDealloc s e n
          else if e.opcode = 0x85 && !e.assigned then s
          else tryWrite s e n
      | _ => s

/-- Whether a command waits for something that another step can bring. -/
def ioWaits (e : ExecCmd) : Bool :=
  e.isIo && e.job.isNone && (e.phase == .waitOrder || e.phase == .waitMap)

/-- Every command that waits for order or map pages is tried again, in the order of their fetch. -/
def resumeCmds (s : State) : State :=
  (s.host.exec.filter ioWaits).foldl (fun t e => ioTry t e.cmd.id) s

/-- Every command held at step 2 of R203 is tried again. -/
def resumeHeld (s : State) : State :=
  (s.host.exec.filter (fun e => e.isIo && e.job.isNone && e.phase == .held)).foldl (fun t e => ioTry t e.cmd.id) s

/-- The LBAs of the segment that a job is writing (R306): 1 MiB of its output, counted from its first LBA. -/
def segRange (b : Job) (n : Namespace) : Nat × Nat :=
  let total := ceilDiv b.output.length n.lbaSize
  (b.sinkLba + b.segs * lbasPerMib n, min (lbasPerMib n) (total - b.segs * lbasPerMib n))

/-- The rest of a merge that cannot be read is poisoned (R156): the parts that the lost codeword gave to records of some
writes of the LBAs [a, a + c). -/
def poisonRest (s : State) (mine : Built → Bool) (n : Namespace) (a c : Nat) (w : Codeword) : State :=
  let k := unitKey w.nsid w.unit
  let rest := restParts n a c w.unit
  let lost (x : JEntry) : List Nat := if eComp x.old then rest else rest.filter (· == w.part)
  let mark (x : JEntry) : JEntry :=
    if jUnit x.key = k && eKind x.new = 2 then
      { x with new := withPoison x.new ((lost x).foldl (fun m i => m ||| 2 ^ i) (ePoison x.new)) }
    else x
  { s with etch := { s.etch with
      moving := s.etch.moving.map (fun b => if mine b then { b with entries := b.entries.map mark } else b) } }

/-- A codeword that a command waited for has arrived, or could not be recovered (R134). The rest of a merge that cannot
be read is poisoned (R156); a read completes with Unrecovered Read Error. -/
def codewordArrived (s : State) (id : CmdId) (failed : Bool) (w : Option Codeword) : State :=
  match findCmd s id with
  | none => s
  | some e =>
    let left := e.pend - 1
    let s1 := updCmd s id (fun x => { x with
      pend := left, status := if failed && x.phase == .reading then some stUnrecovered else x.status })
    if e.phase == .reading then (if left = 0 then finishRead s1 id else s1)
    else if failed then
      match w, tabGet s.ftl.namespaces e.nsid with
      | some cw, some n =>
        poisonRest s1 (fun b => b.cmd == some id) n (e.slba + e.done) (pieceLbas n (e.slba + e.done) (e.nlb - e.done)) cw
      | _, _ => s1
    else s1

/-- Data acknowledged: a record of a command or of a job's segment passes from moving to built with its OLD values as the
map holds them now (step 5 of R203). -/
def buildRecord (s : State) (p : Built → Bool) : State :=
  let go := (s.etch.moving.filter p).map (fun b => { b with entries := refreshOld s b.entries })
  { s with etch := { s.etch with moving := s.etch.moving.filter (fun b => !p b), built := s.etch.built ++ go } }

/-- The new extents of a record that is given up. -/
def newSlots (b : Built) : List Nat := (b.entries.filter (fun e => eKind e.new == 2)).map (fun e => eSlot e.new)

/-- The writes that were fetched and not committed go back to step 1 of R203: their extents are free again (R223). So do the
segments of jobs. -/
def restartWrites (s : State) : State :=
  let mine (b : Built) : Bool := (b.cmd.isSome || b.job.isSome) && (b.type == 1 || b.type == 2)
  let given := (s.etch.moving ++ s.etch.built).filter mine
  let s1 := { s with etch := { s.etch with
      moving := s.etch.moving.filter (fun b => !mine b), built := s.etch.built.filter (fun b => !mine b) } }
  let s2 := (given.map newSlots).foldl (fun t l => l.foldl freeExtentAt t) s1
  let s3 := (s2.host.exec.filter (fun e => e.isIo && e.job.isNone && (e.phase == .moving || e.phase == .built))).foldl
    (fun t e => updCmd (dropReads (e.blocks.foldl releaseBlock t) (.cmd e.cmd.id)) e.cmd.id (fun x =>
      { x with phase := .waitOrder, pend := 0, blocks := [] }))
    s2
  (s3.chn.jobs.filter (fun e => e.2.sinking)).foldl (fun t e =>
    let t1 := dropReads (e.2.blocks.foldl releaseBlock t) (.job e.1)
    { t1 with chn := { t1.chn with jobs := tabPut t1.chn.jobs e.1 { e.2 with sinkPend := 0, blocks := [] } } }) s3

/-! ### The checks of an I/O command -/

/-- Whether a reservation of a namespace turns a command away (R249): the six types of NVMe. -/
def reservationBlocks (s : State) (f nsid : Nat) (isWrite : Bool) : Bool :=
  match tabGet s.host.reservations nsid with
  | none => false
  | some r =>
    let registered := (tabGet r.regs f).isSome
    let holder := r.holder == some f
    if r.rtype = 1 then isWrite && !holder
    else if r.rtype = 2 then !holder
    else if r.rtype = 3 || r.rtype = 5 then isWrite && !registered
    else if r.rtype = 4 || r.rtype = 6 then !registered
    else false

/-- A Deferred Write Error due to a command of a function on a namespace (R262). -/
def deliveryDue (s : State) (f nsid order : Nat) : Bool :=
  s.etch.deliveries.any (fun d => d.1 == f && d.2.1 == nsid && decide (d.2.2 ≤ order))

/-- The delivery used up: the command completes with Deferred Write Error and, in DW0, the entries of page 0xC1 for the
namespace. -/
def deliver (s : State) (id : CmdId) (nsid : Nat) : State :=
  let s1 := { s with etch := { s.etch with
      deliveries := s.etch.deliveries.filter (fun d => !(d.1 == id.fn && d.2.1 == nsid)) } }
  completeWith s1 id stDeferred (dwordOf ((s.etch.deferred.filter (fun d => d.nsid == nsid)).length)) 0 []

/-- The settings-recovery state of R45 accepts only Identify, Get Log Page and the firmware commands. -/
def inRecovery (s : State) : Bool := s.power.settingsRecovery

/-- The checks that an I/O command on a namespace passes before it runs, in order: R45, R10, NSID and attachment (R615), LBA
range, MDTS, R246, the delivery of R262, Access Denied (R254), a sanitize in progress, reservations, read-only mode
(R183), no Etch die left (R613). -/
def ioChecks (s : State) (c : NvCmd) (reserved : List (Dword × Nat)) (ranges : List (Nat × Nat)) (xfer : Option (Bool × Nat))
    (isWrite : Bool) : Option Status :=
  let f := c.id.fn
  let nsid := c.nsid.toNat
  if inRecovery s then some stNotReady
  else if !reservedOk reserved then some stInvalidField
  else
    match nsFor s f nsid with
    | none => some stInvalidNs
    | some n =>
      if ranges.any (fun r => n.nsze < r.1 + r.2) then some stLbaRange
      else
        let len := (xfer.map (fun x => x.2)).getD 0
        let toDevice := (xfer.map (fun x => x.1)).getD false
        if 2097152 < len then some stInvalidField
        else
          match (if xfer.isSome then sglCheck c.ptr toDevice len else none) with
          | some st => some st
          | none =>
            if homeLost s n then some stNotReady
            else if deliveryDue s f nsid (((findCmd s c.id).map (·.order)).getD s.host.order) then some stDeferred
            else if n.cipher = 2 && fnTenant s f ≠ n.owner then some stAccessDenied
            else if s.host.sanitizing.isSome then some stSanitizing
            else if reservationBlocks s f nsid isWrite then some stReservation
            else if isWrite && s.ftl.mode = 1 then some stWriteProtected
            else if isWrite && etchGone s then some stNotReady
            else none

/-- An I/O command that has been fetched: it is admitted, fails its first failing check, or runs (R244). A command that is
already past its fetch is left as it is. Commands that waited for it are tried again. -/
def ioBegin (s : State) (c : NvCmd) (op slba nlb : Nat) (check : Option Status) : State :=
  let s1 := intake s c op true
  match findCmd s1 c.id with
  | none => s1
  | some e =>
    if e.phase ≠ .fetched then s
    else
      match check with
      | some st => resumeCmds (if st = stDeferred then deliver s1 c.id c.nsid.toNat else failCmd s1 c.id st)
      | none => resumeCmds (ioTry (updCmd s1 c.id (fun x => { x with slba := slba, nlb := nlb })) c.id)

/-- SLBA and the number of LBAs of CDW10 to CDW12. -/
def slbaOf (c : NvCmd) : Nat := c.c10.toNat + c.c11.toNat * 2 ^ 32
def nlbOf (c : NvCmd) : Nat := fld c.c12 0 16 + 1

/-- The LBA data size of a command's namespace. -/
def lbaSizeOf (s : State) (c : NvCmd) : Nat := ((tabGet s.ftl.namespaces c.nsid.toNat).map (·.lbaSize)).getD 4096

end Sys2Proof.Machine
end

