-- ==== Sys2Proof/Machine/Sha.lean ====
section
/-! DEFINITION. SHA-256, SHA-512 (FIPS 180-4) and SHA3-256 (FIPS 202), the algorithms of R424 (log 16). -/

namespace Sys2Proof.Machine

/-- The round constants and initial values, as numbers of 32-bit and 64-bit fields. -/
def shaK256 : Nat := 0xc67178f2bef9a3f7a4506ceb90befffa8cc7020884c8781478a5636f748f82ee682e6ff35b9cca4f4ed8aa4a391c0cb334b0bcb52748774c1e376c0819a4c116106aa070f40e3585d6990624d192e819c76c51a3c24b8b70a81a664ba2bfe8a192722c8581c2c92e766a0abb650a735453380d134d2c6dfc2e1b213827b70a851429296706ca6351d5a79147c6e00bf3bf597fc7b00327c8a831c66d983e515276f988da5cb0a9dc4a7484aa2de92c6f240ca1cc0fc19dc6efbe4786e49b69c1c19bf1749bdc06a780deb1fe72be5d74550c7dc3243185be12835b01d807aa98ab1c5ed5923f82a459f111f13956c25be9b5dba5b5c0fbcf71374491428a2f98
def shaH256 : Nat := 0x5be0cd191f83d9ab9b05688c510e527fa54ff53a3c6ef372bb67ae856a09e667
def shaK512 : Nat := 0x6c44198c4a4758175fcb6fab3ad6faec597f299cfc657e2a4cc5d4becb3e42b6431d67c49c100d4c3c9ebe0a15c9bebc32caab7b40c7249328db77f523047d841b710b35131c471b113f9804bef90dae0a637dc5a2c898a606f067aa72176fbaf57d4f7fee6ed178eada7dd6cde0eb1ed186b8c721c0c207ca273eceea26619cc67178f2e372532bbef9a3f7b2c67915a4506cebde82bde990befffa23631e288cc702081a6439ec84c87814a1f0ab7278a5636f43172f60748f82ee5defb2fc682e6ff3d6b2b8a35b9cca4f7763e3734ed8aa4ae3418acb391c0cb3c5c95a6334b0bcb5e19b48a82748774cdf8eeb991e376c085141ab5319a4c116b8d2d0c8106aa07032bbd1b8f40e35855771202ad69906245565a910d192e819d6ef5218c76c51a30654be30c24b8b70d0f89791a81a664bbc423001a2bfe8a14cf1036492722c851482353b81c2c92e47edaee6766a0abb3c77b2a8650a73548baf63de53380d139d95b3df4d2c6dfc5ac42aed2e1b21385c26c92627b70a8546d22ffc142929670a0e6e7006ca6351e003826fd5a79147930aa725c6e00bf33da88fc2bf597fc7beef0ee4b00327c898fb213fa831c66d2db43210983e5152ee66dfab76f988da831153b55cb0a9dcbd41fbd44a7484aa6ea6e4832de92c6f592b0275240ca1cc77ac9c650fc19dc68b8cd5b5efbe4786384f25e3e49b69c19ef14ad2c19bf174cf6926949bdc06a725c7123580deb1fe3b1696b172be5d74f27b896f550c7dc3d5ffb4e2243185be4ee4b28c12835b0145706fbed807aa98a3030242ab1c5ed5da6d8118923f82a4af194f9b59f111f1b605d0193956c25bf348b538e9b5dba58189dbbcb5c0fbcfec4d3b2f7137449123ef65cd428a2f98d728ae22
def shaH512 : Nat := 0x5be0cd19137e21791f83d9abfb41bd6b9b05688c2b3e6c1f510e527fade682d1a54ff53a5f1d36f13c6ef372fe94f82bbb67ae8584caa73b6a09e667f3bcc908

/-- The choice and majority functions. -/
def shaCh {w : Nat} (x y z : BitVec w) : BitVec w := (x &&& y) ^^^ (~~~x &&& z)
def shaMaj {w : Nat} (x y z : BitVec w) : BitVec w := (x &&& y) ^^^ (x &&& z) ^^^ (y &&& z)

/-- The element of a list of words at an index. -/
def wordAt {w : Nat} (l : List (BitVec w)) (i : Nat) : BitVec w := (l[i]?).getD 0

/-- The shape of one SHA-2 function: rotation amounts of the sums Σ0, Σ1 and σ0, σ1 (the last a shift). -/
structure ShaShape where
  s0 : Nat × Nat × Nat
  s1 : Nat × Nat × Nat
  m0 : Nat × Nat × Nat
  m1 : Nat × Nat × Nat

def shape256 : ShaShape := { s0 := (2, 13, 22), s1 := (6, 11, 25), m0 := (7, 18, 3), m1 := (17, 19, 10) }
def shape512 : ShaShape := { s0 := (28, 34, 39), s1 := (14, 18, 41), m0 := (1, 8, 7), m1 := (19, 61, 6) }

def shaSum {w : Nat} (r : Nat × Nat × Nat) (x : BitVec w) : BitVec w :=
  x.rotateRight r.1 ^^^ x.rotateRight r.2.1 ^^^ x.rotateRight r.2.2
def shaSig {w : Nat} (r : Nat × Nat × Nat) (x : BitVec w) : BitVec w :=
  x.rotateRight r.1 ^^^ x.rotateRight r.2.1 ^^^ (x >>> r.2.2)

/-- The message schedule, newest first. -/
def shaSched {w : Nat} (p : ShaShape) : Nat → List (BitVec w) → List (BitVec w)
  | 0, ws => ws
  | n + 1, ws =>
    shaSched p n ((shaSig p.m1 (wordAt ws 1) + wordAt ws 6 + shaSig p.m0 (wordAt ws 14) + wordAt ws 15) :: ws)

/-- One round on the eight working variables. -/
def shaRound {w : Nat} (p : ShaShape) (v : List (BitVec w)) (kw : BitVec w) : List (BitVec w) :=
  let a := wordAt v 0
  let e := wordAt v 4
  let t1 := wordAt v 7 + shaSum p.s1 e + shaCh e (wordAt v 5) (wordAt v 6) + kw
  let t2 := shaSum p.s0 a + shaMaj a (wordAt v 1) (wordAt v 2)
  [t1 + t2, a, wordAt v 1, wordAt v 2, wordAt v 3 + t1, e, wordAt v 5, wordAt v 6]

/-- One block. -/
def shaBlock {w : Nat} (p : ShaShape) (rounds k : Nat) (h : List (BitVec w)) (block : List Byte) : List (BitVec w) :=
  let ws := ((chunks (w / 8) block).map (fun b => BitVec.ofNat w (beNat b))).reverse
  let sched := (shaSched p (rounds - 16) ws).reverse
  let v := (sched.zipIdx).foldl (fun v e => shaRound p v (e.1 + BitVec.ofNat w (natFld k (w * e.2) w))) h
  List.zipWith (· + ·) h v

/-- The padded message (R425): 80h, zeros and the bit length in `lenBytes` bytes. -/
def shaPad (b lenBytes : Nat) (m : List Byte) : List Byte :=
  let z := (2 * b - 1 - lenBytes - m.length % b) % b
  m ++ [0x80] ++ zeros z ++ beBytes (8 * m.length) lenBytes

/-- SHA-256. -/
def sha256 (m : List Byte) : List Byte :=
  let h0 := (List.range 8).map (fun i => BitVec.ofNat 32 (natFld shaH256 (32 * i) 32))
  let h := (chunks 64 (shaPad 64 8 m)).foldl (shaBlock shape256 64 shaK256) h0
  (h.map (fun x => beBytes x.toNat 4)).foldl (· ++ ·) []

/-- SHA-512. -/
def sha512 (m : List Byte) : List Byte :=
  let h0 := (List.range 8).map (fun i => BitVec.ofNat 64 (natFld shaH512 (64 * i) 64))
  let h := (chunks 128 (shaPad 128 16 m)).foldl (shaBlock shape512 80 shaK512) h0
  (h.map (fun x => beBytes x.toNat 8)).foldl (· ++ ·) []

/-- The round constants and lane rotations of Keccak-f[1600]. -/
def keccakRc : Nat := 0x8000000080008008000000008000000180000000000080808000000080008081800000008000000a000000000000800a8000000000000080800000000000800280000000000080038000000000008089800000000000008b000000008000808b000000008000000a00000000800080090000000000000088000000000000008a800000000000800980000000800080810000000080000001000000000000808b8000000080008000800000000000808a00000000000080820000000000000001
def keccakRot : Nat := 0xe383d021208150f2d2927192b0a031437062c241b1c3e0100

/-- One Keccak round on 25 lanes, lane (x, y) at index x + 5y. -/
def keccakRound (a : List (BitVec 64)) (r : Nat) : List (BitVec 64) :=
  let c := (List.range 5).map (fun x =>
    wordAt a x ^^^ wordAt a (x + 5) ^^^ wordAt a (x + 10) ^^^ wordAt a (x + 15) ^^^ wordAt a (x + 20))
  let t := (List.range 25).map (fun i =>
    wordAt a i ^^^ wordAt c ((i + 4) % 5) ^^^ (wordAt c ((i + 1) % 5)).rotateLeft 1)
  -- the lane that moves to (x, y) comes from (x', y') with x = y' and y = 2x' + 3y'
  let b := (List.range 25).map (fun i =>
    let x := i % 5
    let y := i / 5
    let sx := (x + 3 * y) % 5
    let j := sx + 5 * x
    (wordAt t j).rotateLeft (natFld keccakRot (8 * j) 8))
  (List.range 25).map (fun i =>
    let y5 := i / 5 * 5
    let v := wordAt b i ^^^ (~~~(wordAt b (y5 + (i + 1) % 5)) &&& wordAt b (y5 + (i + 2) % 5))
    if i = 0 then v ^^^ BitVec.ofNat 64 (natFld keccakRc (64 * r) 64) else v)

/-- Keccak-f[1600]. -/
def keccakF (a : List (BitVec 64)) : List (BitVec 64) := (List.range 24).foldl keccakRound a

/-- SHA3-256: rate 136 bytes, domain bits 01b and pad10*1 (R425). -/
def sha3 (m : List Byte) : List Byte :=
  let z := 135 - m.length % 136
  let pad : List Byte := if z = 0 then [0x86] else [0x06] ++ zeros (z - 1) ++ [0x80]
  let a := (chunks 136 (m ++ pad)).foldl (fun st blk =>
    let ls := (chunks 8 blk).map (fun b => BitVec.ofNat 64 (leNat b))
    keccakF (List.zipWith (· ^^^ ·) st (ls ++ List.replicate 8 0))) (List.replicate 25 0)
  ((a.take 4).map (fun x => leBytes x.toNat 8)).foldl (· ++ ·) []

/-- The digest of a message by the algorithm code of CRY_DGS_CTL.ALG (R424); 11b is reserved and gives none. -/
def digestOf (alg : BitVec 2) (m : List Byte) : List Byte :=
  if alg = 0 then sha256 m else if alg = 1 then sha512 m else if alg = 2 then sha3 m else []

/-- The block size b of an algorithm (R424). -/
def digestBlock (alg : BitVec 2) : Nat := if alg = 0 then 64 else if alg = 1 then 128 else 136

end Sys2Proof.Machine
end

