-- ==== Sys2Proof/Machine/Layouts.lean ====
section
/-! DEFINITION. The bytes that the Etch dies and the mirrors hold: the regions of R201, journal records (R206), root images
(R211), the settings store (R217), anchor records (R221). Where the manual gives a structure without its layout, the bytes of it
are free and their number is the model's (DESIGN CHOICE, log 132). -/

namespace Sys2Proof.Machine

/-! ### Regions (R201) -/

/-- The regions of an Etch die. -/
inductive EtchRegion where
  | settings | root | journal | data
deriving DecidableEq, Repr

/-- The first slot of a region on a die, and the slot past its end. -/
def regionSlots (r : EtchRegion) (die : Nat) : Nat × Nat :=
  let base := die * 1048576
  match r with
  | .settings => (base, base + 8192)
  | .root => (base + 8192, base + 204800)
  | .journal => (base + 204800, base + 401408)
  | .data => (base + 401408, base + 1048576)

/-- The die and region of a slot. -/
def slotRegion (slot : Nat) : Option (Nat × EtchRegion) :=
  let die := slot / 1048576
  if 2 ≤ die then none
  else
    ([EtchRegion.settings, .root, .journal, .data].find? (fun r => decide (slot < (regionSlots r die).2))).map (fun r => (die, r))

/-- The first slot of settings copy A, or B: its die's region. After the loss of a die both lie on the surviving die, the copy that was
there at the start of the region, the other 4,096 slots into it (R201, R227). -/
def settingsSlot (s : State) (b : Bool) : Nat :=
  if s.etch.lost0 then (regionSlots .settings 1).1 + (if b then 0 else 4096)
  else if s.etch.lost1 then (regionSlots .settings 0).1 + (if b then 4096 else 0)
  else (regionSlots .settings (bitNat b)).1

/-- Whether a slot lies in a data region. -/
def inDataRegion (slot : Nat) : Bool :=
  match slotRegion slot with
  | some (_, .data) => true
  | _ => false

/-- `n` bytes of a structure whose layout is not given: of its kind, of the SEQ that names it, from byte `i` on. -/
def freeRun (kind seq n : Nat) : List Byte := (List.range n).map (Config.layoutByte kind seq)

/-! ### Journal records (R206, R208) -/

/-- The 24 bytes of an entry. -/
def entryBytes (e : JEntry) : List Byte := leBytes e.key.toNat 8 ++ leBytes e.old.toNat 8 ++ leBytes e.new.toNat 8

/-- The 32-byte header of a record with a value of its CRC field. -/
def recHeader (r : JRec) (crc : Nat) : List Byte :=
  leBytes r.type 1 ++ zeros 1 ++ leBytes r.entries.length 2 ++ leBytes r.len 4 ++ leBytes r.seq 8 ++ leBytes r.stamp 8
    ++ leBytes r.tenant 2 ++ zeros 2 ++ leBytes crc 4

/-- The CRC of a record, taken over it with the field as zero, and the record's bytes. -/
def recCrc (r : JRec) : Nat := crc32c (recHeader r 0 ++ (r.entries.map entryBytes).flatten)
def recordBytes (r : JRec) : List Byte := recHeader r (recCrc r) ++ (r.entries.map entryBytes).flatten

/-! ### Root images (R211, R165) -/

/-- Bytes of the body: 16 for a block record, 136 for a swath record, 16 for a directory page named. -/
def rootBodyLen (r : RootImg) : Nat := 16 * r.blocks.length + 136 * r.swaths.length + 16 * r.mapLoc.length

/-- The body, the digests of its MiBs, and the header, whose digest is over that table. -/
def rootBody (r : RootImg) : List Byte :=
  (r.blocks.map (fun e => blockBytes e.2)).flatten ++ freeRun 0x80 r.seq (136 * r.swaths.length)
    ++ (r.mapLoc.map (fun e => leBytes e.1 8 ++ leBytes e.2.toNat 8)).flatten
def digestTable (r : RootImg) : List Byte :=
  ((List.range (ceilDiv (rootBodyLen r) 1048576)).map (fun i => sha256 (sliceOf (rootBody r) (1048576 * i) 1048576))).flatten
def rootHeader (r : RootImg) : List Byte :=
  leBytes r.seq 8 ++ leBytes r.cpSeq 8 ++ leBytes r.cpOffset 8 ++ leBytes (rootBodyLen r) 8 ++ sha256 (digestTable r)

/-- The bytes of an image and their number. -/
def rootBytes (r : RootImg) : List Byte := rootHeader r ++ digestTable r ++ rootBody r
def rootLen (r : RootImg) : Nat := 64 + 32 * ceilDiv (rootBodyLen r) 1048576 + rootBodyLen r

/-! ### The settings store (R217) -/

/-- What each section of a body holds: so many items, of 64 bytes each. -/
def sectionItems (b : Settings) (kind : Nat) : Nat :=
  match kind with
  | 1 => b.training.length + b.present.length + b.away.length
  | 2 => b.dramPop.length
  | 3 => b.accepted.length
  | 4 => (b.snapshots.filter (fun e => decide (0xA00100 ≤ e.1) && decide (e.1 < 0xA02000))).length
  | 5 => b.marks.length + b.remapDram.length + b.remapSram.length
  | 6 => b.namespaces.length
  | 7 => b.tenants.length + b.bind.length
  | 8 => b.keys.length + b.nsKeys.length
  | 9 => b.features.length + 1
  | 10 => (b.snapshots.filter (fun e => !(decide (0xA00100 ≤ e.1) && decide (e.1 < 0xA02000)))).length
  | 11 => 1
  | 12 => 8 + b.faults.length
  | 13 => 8 + b.therm.entries.length
  | _ => 0

/-- The section kinds, and the bytes of a body: each section's kind, reserved field, length and content; at most 8 MiB. -/
def sectionKinds : List Nat := [1, 2, 3, 4, 5, 6, 7, 8, 9, 10, 11, 12, 13]
def settingsLen (b : Settings) : Nat := Nat.min 8388608 (sectionKinds.foldl (fun a k => a + 8 + 64 * sectionItems b k) 0)
def settingsBody (seq : Nat) (b : Settings) : List Byte :=
  ((sectionKinds.map (fun k =>
    leBytes k 2 ++ zeros 2 ++ leBytes (64 * sectionItems b k) 4 ++ freeRun k seq (64 * sectionItems b k))).flatten).take 8388608

/-- Header bytes 0 to 15 and 48 to 63, the digest over them and the body, and the whole store. -/
def settingsHead (c : SetCopy) : List Byte := leBytes c.seq 8 ++ leBytes (settingsLen c.body) 4 ++ leBytes 1 1 ++ zeros 3
def settingsTail (c : SetCopy) : List Byte := leBytes c.stamp 8 ++ zeros 8
def settingsDigest (c : SetCopy) : List Byte := sha256 (settingsHead c ++ settingsTail c ++ settingsBody c.seq c.body)
def settingsBytes (c : SetCopy) : List Byte := settingsHead c ++ settingsDigest c ++ settingsTail c ++ settingsBody c.seq c.body

/-! ### Anchor records (R221) -/

/-- A mirror as an anchor record names it: SEQ, die, block and first page, length in pages, digest. -/
def nameBytes (m : MirrorName) (digest : List Byte) : List Byte :=
  leBytes m.seq 8 ++ leBytes (keyDie (m.at_ / 32768)) 2 ++ leBytes (keyBlock (m.at_ / 32768)) 2 ++ leBytes (m.at_ / 4 % 8192) 2
    ++ leBytes m.pages 2 ++ padTo 32 digest

/-- An anchor record with the digests of its mirrors, and the CRC-32C over it. -/
def anchorBody (a : Anchor) (cur prev : List Byte) : List Byte :=
  leBytes (bitNat a.root) 1 ++ zeros 7 ++ nameBytes a.cur cur ++ nameBytes a.before_ prev
def anchorBytes (a : Anchor) (cur prev : List Byte) : List Byte :=
  anchorBody a cur prev ++ leBytes (crc32c (anchorBody a cur prev)) 4

/-! ### Mirrors in family 3 swaths (R215, R218) -/

/-- Codewords for so many bytes, and the i-th 4,096 bytes of some. -/
def wordCount (len : Nat) : Nat := ceilDiv len 4096
def wordOf (bs : List Byte) (i : Nat) : List Byte := sliceOf bs (4096 * i) 4096

/-- The name that an anchor record gives a mirror: its pages hold four codewords each. -/
def nameOf (seq : Nat) (words : List Nat) : MirrorName :=
  { seq := seq, at_ := (words.head?).getD 0, pages := ceilDiv words.length 4 }

end Sys2Proof.Machine
end

