-- ==== Sys2Proof/Machine/MediaOps.lean ====
section
/-! DEFINITION. Blocks and lost dies as the media commands and the Gleaner see them: the fault map (R121, R122), fences
(R113), failed dies (R182), spare (R183), critical warnings, the meadow (R170 to R172). -/

namespace Sys2Proof.Machine

/-! ### The fault map (R121, R122) -/

/-- An entry added, with the stamp of its channel's island (R19): the oldest repaired entry, else the oldest, leaves a full
page. -/
def addFault (s : State) (chan die kind pin : Nat) (ident digest : Dword) : State :=
  let stamp := islandTime s (isMedia chan)
  let e : FaultEntry :=
    { chan := chan, die := die, kind := kind, pin := pin, st := 0, first := stamp, last := stamp, ident := ident,
      digest := digest }
  let fs := s.media.faults
  let kept :=
    if fs.length < 4096 then fs
    else if fs.any (fun f => f.st == 1) then fs.eraseP (fun f => f.st == 1)
    else fs.drop 1
  { s with media := { s.media with faults := kept ++ [e], faultsTotal := s.media.faultsTotal + 1, faultsAt := stamp } }

/-- The open entries of a place take a new state (R122). -/
def closeFaults (s : State) (p : FaultEntry → Bool) (st : Nat) : State :=
  { s with media := { s.media with
      faults := s.media.faults.map (fun f => if p f && f.st == 0 then { f with st := st, last := islandTime s isFabric } else f)
      faultsAt := islandTime s isFabric } }

/-! ### Critical warnings (R183, R240, R556, R613) -/

/-- The critical warning bits of log page 02h of a function's controller: 0 spare, 1 temperature, 2 reliability, 3 read-only
media. -/
def criticalOf (s : State) (f : Nat) : Nat :=
  bitNat (decide (s.ftl.spareLeft < 1000)) + 2 * bitNat (s.therm.warning || s.therm.crossed.any (fun k => k / 4 == f))
    + 4 * bitNat (etchGone s || !s.ftl.health.unrepaired.isEmpty)
    + 8 * bitNat (s.ftl.mode == 1 || etchGone s)

/-- Whether a critical warning has arisen on a controller of a port. -/
def warnedOn (old new : State) (port : Nat) : Bool :=
  let fs := port * fnsPerPort new :: (new.therm.crossed.map (· / 4)).filter (fun f => fnPort new f == port)
  fs.any (fun f => decide (criticalOf old f < (criticalOf old f ||| criticalOf new f)))

/-- WAKE_N asserted when a critical warning has arisen on a controller whose port is in L2 (R240). -/
def wakeOn (old new : State) : State :=
  if old.host.ports.any (fun p => p.2.pm == 3 && warnedOn old new p.1) then { new with power := { new.power with wakeN := true } }
  else new

/-! ### Blocks -/

def blkFree : BitVec 4 := 0
def blkOpen : BitVec 4 := 1
def blkClosed : BitVec 4 := 2
def blkErasing : BitVec 4 := 3
def blkRetired : BitVec 4 := 4
def blkFactoryBad : BitVec 4 := 5
def blkFailing : BitVec 4 := 6

/-- The block record of a block key. -/
def blockAt (s : State) (k : Nat) : BlockRec := tabAt {} s.ftl.blocks k

/-- Whether a block is good. -/
def blockGood (b : BlockRec) : Bool := b.st ≠ blkRetired && b.st ≠ blkFactoryBad

/-- The heath family of a die (R170). -/
def heathFamily (s : State) (die : Nat) : BitVec 2 := if (dieAt s die).params.bits = 4 then 2 else 1

/-- Pages that the device uses of a block at heath density, and of a block of a family: a meadow block holds one bit per cell
(R158, R170). -/
def usedPages (s : State) (die : Nat) : Nat := min 8192 (dieAt s die).params.pages
def blockPages (s : State) (die : Nat) (fam : BitVec 2) : Nat :=
  let p := (dieAt s die).params
  if fam = 0 then min 8192 (p.pages / max 1 p.bits) else usedPages s die

/-- The user bytes of a block at heath density (R171). -/
def heathBytes (s : State) (k : Nat) : Nat := usedPages s (keyDie k) * 16384 * 31 / 32

/-- The good blocks of families 0 to 2, of active dies. -/
def dataBlocks (s : State) : List (Nat × BlockRec) :=
  s.ftl.blocks.filter (fun e => blockGood e.2 && e.2.family ≠ 3 && (dieAt s (keyDie e.1)).st == dieActive)

/-- FTL_GC_CFG within its bounds. -/
def freeHigh (s : State) : Nat := regFld s 0xC0000C 8 8
def freeLow (s : State) : Nat := within 2 (freeHigh s) (regFld s 0xC0000C 0 8)

/-- The spare of R183 in bytes: the heath-density capacity of the good data blocks, less E, less FREE_HIGH swaths of 32 blocks
of mean capacity for each family in use (log 23). -/
def spareBytes (s : State) : Nat :=
  let bs := dataBlocks s
  let cap := bs.foldl (fun a e => a + heathBytes s e.1) 0
  let fams := ((List.range 3).filter (fun f => bs.any (fun e => e.2.family.toNat == f))).length
  let mean := if bs.length = 0 then 0 else cap / bs.length
  cap - s.ftl.exported - freeHigh s * fams * 32 * mean

/-- SPARE_LEFT recomputed, with SPARE_LOW, and with read-only mode when nothing is left (R183). -/
def settleSpare (s : State) : State :=
  let left := if s.ftl.spareFirst = 0 then s.ftl.spareLeft else min 10000 (spareBytes s * 10000 / s.ftl.spareFirst)
  let s1 := { s with ftl := { s.ftl with spareLeft := left } }
  let s2 := raiseIf (decide (1000 ≤ s.ftl.spareLeft) && decide (left < 1000)) s1 evFtl 0
  let s3 := if left = 0 && s2.ftl.mode = 0 then raise { s2 with ftl := { s2.ftl with mode := 1 } } evFtl 1 else s2
  wakeOn s s3

/-! ### The meadow (R171, R172) -/

/-- The meadow share of the good blocks of families 0 to 2, in units of 0.01%. -/
def meadowShareNow (s : State) : Nat :=
  let bs := dataBlocks s
  if bs.length = 0 then 0 else (bs.filter (fun e => e.2.family == 0)).length * 10000 / bs.length

/-- The logical bytes of the units of KIND 01b or 10b (R171). -/
def mappedBytes (s : State) : Nat :=
  let size (k : Nat) : Nat := ((tabGet s.ftl.namespaces (keyNsid k)).map unitBytes).getD 0
  let held (k : Nat) (e : Qword) : Nat := if eKind e = 1 || eKind e = 2 then size k else 0
  s.ftl.overlay.foldl (fun a p => a + held p.1 p.2) 0
    + s.ftl.map.foldl (fun a p => if (tabGet s.ftl.overlay p.1).isSome then a else a + held p.1 p.2) 0

/-- M of R171 in units of 0.01%, from FTL_MEADOW_CFG and u. -/
def meadowTargetNow (s : State) : Nat :=
  let mx := within 5 200 (regFld s 0xC00008 0 8)
  let mn := within 1 mx (regFld s 0xC00008 8 8)
  let knee := within 50 99 (regFld s 0xC00008 16 8)
  let used := mappedBytes s * 100
  if s.ftl.exported = 0 then mx * 10
  else if used < knee * s.ftl.exported then mx * 10 - (mx - mn) * 10 * used / (knee * s.ftl.exported)
  else mn * 10

/-! ### Fences and failed dies -/

/-- Gleaner work asked for, once. -/
def addWork (s : State) (w : Work) : State :=
  if s.ftl.work.contains w then s else { s with ftl := { s.ftl with work := s.ftl.work ++ [w] } }

/-- Whether a block lies on a lost die or channel. -/
def onLost (chan : Nat) (die : Option Nat) (k : Nat) : Bool :=
  keyDie k / 16 == chan && (match die with | some d => keyDie k % 16 == d | none => true)

/-- The swaths that have a page on a lost die or channel. -/
def hurtSwaths (s : State) (chan : Nat) (die : Option Nat) : List Swath :=
  s.ftl.swaths.filter (fun w => w.members.any (fun m => onLost chan die (blockKey m.1 m.2)))

/-- Whether an entry lies in a swath. -/
def inSwath (w : Swath) (e : Qword) : Bool := eKind e == 1 && w.members.contains (eDie e, eBlock e)

/-- The mapped units and the current map pages of a swath: key, entry, and whether it is a map page. -/
def mappedIn (s : State) (w : Swath) : List (Nat × Qword × Bool) :=
  (s.ftl.overlay.filter (fun p => inSwath w p.2)).map (fun p => (p.1, p.2, false))
    ++ (s.ftl.map.filter (fun p => inSwath w p.2 && (tabGet s.ftl.overlay p.1).isNone)).map (fun p => (p.1, p.2, false))
    ++ (s.ftl.mapLoc.filter (fun p => inSwath w p.2)).map (fun p => (p.1, p.2, true))

/-- The stripes (swath, page) that hold mapped data among the swaths hurt by a loss (R184). -/
def hurtStripes (s : State) (chan : Nat) (die : Option Nat) : Nat :=
  (hurtSwaths s chan die).foldl (fun a w =>
    a + (setOfNats ((mappedIn s w).map (fun e => ePage e.2.1))).length) 0

/-- Whether a rebuild is in progress (FTL_STATUS.REBUILD). -/
def rebuilding (s : State) : Bool := (s.ftl.rebuild.map (·.active)).getD false

/-- A rebuild of R184 begins, or waits for the one in progress: the Gleaner serves the oldest request first (R174). -/
def startRebuild (s : State) (chan : Nat) (die : Option Nat) : State :=
  if rebuilding s then { s with ftl := { s.ftl with rebuilds := s.ftl.rebuilds ++ [(chan, die)] } }
  else
    let n := hurtStripes s chan die
    raise { s with ftl := { s.ftl with rebuild := some { chan := chan, die := die, total := n, cleared := 0, active := true } } }
      evFtl 3

/-- The oldest rebuild that waits begins. -/
def nextRebuild (s : State) : State :=
  match s.ftl.rebuilds with
  | [] => s
  | (c, d) :: rest => startRebuild { s with ftl := { s.ftl with rebuilds := rest } } c d

/-- The faults of R46 now open: lost dies and channels whose rebuild has not ended, marked DRAM devices, and Tabfer links that
are down until a later start. The other faults of R46 are repaired at once, and a collision is none (R102). -/
def faultsOpen (s : State) : Nat :=
  let isFault (p : Nat × Option Nat) : Bool :=
    match p.2 with
    | some d => (dieAt s (p.1 * 16 + d)).st ≠ dieCollision
    | none => true
  let cur := match s.ftl.rebuild with
    | some r => if r.active then [(r.chan, r.die)] else []
    | none => []
  ((cur ++ s.ftl.rebuilds).filter isFault).length + s.pcs.marks.length
    + (s.cas.links.filter (fun e => e.2.st == 4 && !e.2.asleep)).length

/-- The WARN byte of log page 0xC0 (R198). -/
def warnByte (s : State) : Nat :=
  let r := regAt s 0xA00060
  bitNat (decide (s.ftl.spareLeft < 1000)) + 2 * bitNat (s.ftl.mode == 1) + 4 * bitNat (decide (0 < faultsOpen s))
    + 8 * bitNat (!s.ftl.health.unrepaired.isEmpty) + 16 * bitNat (bitOf r 0 && !bitOf r 1)

/-- The swaths that use some blocks take no more programs: their blocks are closed (TYPE 07h, action 02h). -/
def closeSwath (s : State) (id : Nat) : State :=
  match s.ftl.swaths.find? (fun w => w.id == id) with
  | none => s
  | some w =>
    if !w.opened then s
    else
      let s1 := { s with ftl := { s.ftl with
          swaths := updFirst (fun x => x.id == id) (fun x => { x with opened := false }) s.ftl.swaths } }
      w.members.foldl (fun t m =>
        if (blockAt t (blockKey m.1 m.2)).st = blkOpen then setBlock t m.1 m.2 2 (fun b => { b with st := blkClosed }) else t) s1

/-- The reads of a channel that wait for its pin test wait no more (R133). -/
def freePinWaits (s : State) (ch : Nat) : State :=
  { s with ftl := { s.ftl with reads := s.ftl.reads.map (fun r =>
      if keyDie (r.key / 32768) / 16 = ch then { r with pinWait := false } else r) } }

/-- The dies of a channel that answered at the latest start, by number on the channel. -/
def presentOn (s : State) (n : Nat) : List Nat := (s.media.present.filter (fun d => d / 16 == n)).map (· % 16)

/-- A channel fenced (R113): its clock stops, its dies take state 5h, whatever state they had, MED_EVENT.FENCED is set, its open
swaths close, and its data is rebuilt. A read that waits for the end of a pin test goes on to step 5 (R133). -/
def fenceChannel (s : State) (n : Nat) : State :=
  let there (c : Chan) : List (Nat × Die) :=
    (presentOn s n).foldl (fun t d => if (tabGet t d).isSome then t else tabPut t d {}) c.dies
  let s0 := updChan (stopCopy s (isMedia n)) n (fun c => { c with
      st := chanFenced, pinRunning := false, pinDue := false, due := false, background := false
      reqs := [], holder := none, hold := none
      dies := (there c).map (fun d => (d.1, { d.2 with st := dieFencedWith })) })
  let s1 := freePinWaits s0 n
  let s2 := raise s1 (evMed n) 5
  let s3 := ((hurtSwaths s2 n none).map (·.id)).foldl closeSwath s2
  startRebuild (wantFaultEvent (settleSpare s3)) n none

/-- A die failed (R182): state 4h, MED_EVENT.DIE_FAILED, an entry of KIND 03h, and a rebuild of its data. -/
def failDie (s : State) (die : Nat) : State :=
  let s1 := changeRate (updDie s die (fun d => { d with st := dieFailed, silent := false, dead := true })) (die / 16)
  let s2 := settleSpare (addFault (raise s1 (evMed (die / 16)) 6) (die / 16) (die % 16) 3 0xFF 0 0)
  let s3 := ((hurtSwaths s2 (die / 16) (some (die % 16))).map (·.id)).foldl closeSwath s2
  startRebuild (wantFaultEvent s3) (die / 16) (some (die % 16))

/-- FTL_DIE_FAIL_CFG within its bounds: the retirements and the window in ticks. -/
def dieFailLimit (s : State) : Nat := within 4 255 (regFld s 0xC0001C 0 8)
def dieFailWindow (s : State) : Nat := max 1 (regFld s 0xC0001C 8 8) * 3600 * secTicks

/-- A block retired: state 4h with its record, and the die failed when too many of its blocks are retired in the window under R179
and R180, not for a read failure (R182). -/
def retireBlock (s : State) (die block : Nat) : State :=
  let byRead := (blockAt s (blockKey die block)).byRead
  let s1 := setBlock s die block 5 (fun b => { b with st := blkRetired, valid := 0 })
  let s2 := updDie s1 die (fun d => { d with
      retired := d.retired.filter (fun t => decide (now s ≤ t + dieFailWindow s)) ++ (if byRead then [] else [now s]) })
  let s3 := settleSpare s2
  if dieFailLimit s < (dieAt s3 die).retired.length && (dieAt s3 die).st = dieActive then failDie s3 die else s3

/-- A block that has failed (R180, R181): state failing with its record, its swath closed, and its migration asked for. -/
def failBlock (s : State) (die block : Nat) (byRead : Bool) : State :=
  let b := blockAt s (blockKey die block)
  if b.st = blkFailing || b.st = blkRetired || b.st = blkFactoryBad then s
  else
    let s1 := setBlock s die block 3 (fun b => { b with st := blkFailing, byRead := byRead })
    let s2 := (s1.ftl.swaths.filter (fun w => w.members.contains (die, block))).foldl (fun t w => closeSwath t w.id) s1
    addWork s2 { prio := 2, die := die, block := block, whole := false }

/-- The failing blocks that hold nothing any longer are retired (R180), and counted by what made them fail (R198). -/
def retireEmpty (s : State) : State :=
  let gone := s.ftl.blocks.filter (fun e => e.2.st == blkFailing && e.2.valid == 0 && tabAt 0 s.ftl.readHolds e.1 == 0)
  gone.foldl (fun t e =>
    let h := t.ftl.health
    let t1 := { t with ftl := { t.ftl with health :=
      if e.2.byRead then { h with retiredRead := h.retiredRead + 1 } else { h with retiredProgram := h.retiredProgram + 1 } } }
    retireBlock t1 (keyDie e.1) (keyBlock e.1)) s

/-! ### Installed DRAM (R526) -/

/-- Bytes of a DRAM channel by its density code and ranks. -/
def chanBytes (density : Nat) (ranks2 : Bool) : Nat :=
  (if density = 0 then (if ranks2 then 64 else 32) else if density = 1 then 48 else 64) * 2 ^ 30

/-- Bytes of the DRAM channels in use. -/
def dramBytes (s : State) : Nat :=
  s.drc.chans.foldl (fun a e =>
    if e.2.st = 2 || e.2.st = 3 then a + chanBytes e.2.density.toNat e.2.ranks2 else a) 0

end Sys2Proof.Machine
end

