-- ==== Sys2Proof/Machine/Gleaner.lean ====
section
/-! DEFINITION. Swaths, programs, relocation and map write-back: what destage and the Gleaner share (R161 to R185, R209,
R210, R213). -/

namespace Sys2Proof.Machine

/-! ### Channel sets (R524) -/

/-- Whether a channel is in set k. -/
def inChset (s : State) (k ch : Nat) : Bool := regFld s (0x1E00400 + 0x20 * k + ch / 32 * 4) (ch % 32) 1 == 1

/-- The owner of set k. -/
def setOwner (s : State) (k : Nat) : Nat := regFld s (0x1E00410 + 0x20 * k) 0 11

/-- Whether work with tag 0 that serves set k alone (0: no one set) runs in the slot in progress: in slots of entry 0, and for a set
in its owner's slots too (R521, R524). -/
def setServed (s : State) (k : Nat) : Bool := servesTenant s 0 || (k ≠ 0 && setOwner s k ≠ 0 && servesTenant s (setOwner s k))

/-- Whether some such work runs, on any set or on a channel. -/
def anyServed (s : State) : Bool := servesTenant s 0 || (List.range' 1 63).any (setServed s)
def chanServed (s : State) (ch : Nat) : Bool := servesTenant s 0 || (List.range' 1 63).any (fun k => inChset s k ch && setServed s k)

/-- The sets that namespaces name. -/
def setsInUse (s : State) : List Nat :=
  setOfNats ((s.ftl.namespaces.map (fun e => e.2.chset)).filter (fun k => decide (0 < k)))

/-- Whether a swath of set k may be opened on a channel: a set's channels hold no other swath. -/
def chanAllowed (s : State) (k ch : Nat) : Bool :=
  if k = 0 then !(setsInUse s).any (fun j => inChset s j ch) else inChset s k ch

/-! ### Opening a swath (R166, R177) -/

/-- The better of two free blocks: the lower ERASE_COUNT, for a Fallow swath the higher; of equals the lower key (log 17). -/
def betterBlock (fallow : Bool) (a b : Nat × BlockRec) : Nat × BlockRec :=
  if a.2.erases = b.2.erases then (if a.1 ≤ b.1 then a else b)
  else if decide (a.2.erases < b.2.erases) ≠ fallow then a else b

/-- The free block of a family that a channel gives. -/
def pickBlock (fam : BitVec 2) (fallow : Bool) (free : List (Nat × BlockRec)) (ch : Nat) : Option Nat :=
  match free.filter (fun e => keyDie e.1 / 16 == ch && e.2.family == fam) with
  | [] => none
  | e :: es => some (es.foldl (betterBlock fallow) e).1

/-- The free blocks on usable dies. -/
def freeBlocks (s : State) : List (Nat × BlockRec) :=
  s.ftl.blocks.filter (fun e => e.2.st == blkFree && dieUsable s (keyDie e.1))

/-- A swath opened: 32 blocks of one family on 32 channels, with records of TYPE 07h and 08h. None when there are not blocks
on 32 channels. -/
def openSwath (s : State) (fam : BitVec 2) (chset : Nat) (fallow : Bool) : Option (State × Swath) :=
  let free := freeBlocks s
  let picks := (((List.range 128).filter (chanAllowed s chset)).filterMap (pickBlock fam fallow free)).take 32
  if picks.length < 32 then none
  else
    let w : Swath :=
      { id := s.ftl.nextSwath, family := fam, members := picks.map (fun k => (keyDie k, keyBlock k)), opened := true,
        next := 0, done := [], safe := [], fallow := fallow, chset := chset }
    let s1 := picks.foldl (fun t k => setBlock t (keyDie k) (keyBlock k) 1 (fun b => { b with st := blkOpen })) s
    let es := (List.range 32).map (fun i =>
      { key := jSwathKey w.id i, old := 0
        new := BitVec.ofNat 64 (place (keyDie ((picks[i]?).getD 0)) 46 11 + place (keyBlock ((picks[i]?).getD 0)) 32 14) })
    let s2 := queueRec s1 8 es
    some ({ s2 with ftl := { s2.ftl with swaths := s2.ftl.swaths ++ [w], nextSwath := (s2.ftl.nextSwath + 1) % 2 ^ 20 } }, w)

/-- Stripes of a swath: the page count of its smallest member (R166). -/
def swathPages (s : State) (w : Swath) : Nat := w.members.foldl (fun a m => min a (blockPages s m.1 w.family)) 8192

/-- Whether every die of a swath may start a program now (R89, R108). -/
def swathWritable (s : State) (w : Swath) : Bool := w.members.all (fun m => dieWritable s m.1)

/-- An open swath of a family and channel set with room for `h` stripes, or a new one; a swath without that room closes. None while
one of its dies holds its programs. -/
def swathFor (s : State) (fam : BitVec 2) (chset h : Nat) (fallow : Bool) : Option (State × Swath) :=
  let mine (w : Swath) : Bool := w.opened && w.family == fam && w.chset == chset && w.fallow == fallow
  match s.ftl.swaths.find? (fun w => mine w && decide (w.next + h ≤ swathPages s w)) with
  | some w => if swathWritable s w then some (s, w) else none
  | none =>
    let s1 := ((s.ftl.swaths.filter mine).map (·.id)).foldl closeSwath s
    match openSwath s1 fam chset fallow with
    | some (t, w) => if h ≤ swathPages t w && swathWritable t w then some (t, w) else none
    | none => none

/-! ### Programs (R123, R129, R136, R166) -/

/-- The entry of PCS_PROFILE_MAP for a family and a wear band. -/
def profileMap (s : State) (fam band : Nat) : Nat := regFld s (0xA00010 + fam / 2 * 4) ((fam % 2 * 4 + band) * 4) 3

/-- The profile of a block at its first program: the mapped one, or the highest usable one below it (R129). Where none of those is
usable, which the rule does not foresee, it is profile 0 (DESIGN CHOICE, log 126). -/
def chooseProfile (s : State) (die : Nat) (b : BlockRec) : Nat :=
  let p := profileMap s b.family.toNat (wearBand s die b)
  let usable := (List.range (p + 1)).filter (fun q => decide (profileBytes q ≤ (dieAt s die).params.pageBytes))
  (usable.getLast?).getD 0

/-- The program record and the profile of a block whose first page is programmed (R129, R136). -/
def beginBlock (s : State) (m : Nat × Nat) : State :=
  let k := blockKey m.1 m.2
  let b := blockAt s k
  let p := chooseProfile s m.1 b
  let s1 := updBlock s k (fun b => { b with
      profile := p, progTime := islandTime s isFabric / secTicks, progTemp := dieTemp s m.1, override := none })
  raiseIf (p ≠ profileMap s b.family.toNat (wearBand s m.1 b)) s1 evPcs 1

/-- A unit or map page to be programmed: the record type its copy will issue, its key, the entry expected, its flags, and its
codewords. -/
structure Parcel where
  rtype  : Nat
  key    : Nat
  expect : Qword
  comp   : Bool
  words  : List Codeword
deriving DecidableEq, Repr

/-- The members of a swath that hold no parity page among `h` stripes from `p` (R166). -/
def dataMembers (p h : Nat) : List Nat :=
  (List.range 32).filter (fun i => !((List.range h).any (fun j => (p + j) % 32 == i)))

/-- A packing in progress: the members left, the codewords used in the first, the placements (parcel, member, first
codeword) and the parcels left over. -/
structure Packing where
  members : List Nat
  used    : Nat
  placed  : List (Parcel × Nat × Nat)
  left    : List Parcel
deriving DecidableEq, Repr

/-- A parcel packed into the first member with room, in columns of `cap` codewords; a unit never crosses a column (R155). -/
def packStep (cap : Nat) (k : Packing) (p : Parcel) : Packing :=
  let n := p.words.length
  match k.members with
  | [] => { k with left := k.left ++ [p] }
  | m :: ms =>
    if k.used + n ≤ cap then { k with used := k.used + n, placed := k.placed ++ [(p, m, k.used)] }
    else
      match ms with
      | [] => { k with members := [], left := k.left ++ [p] }
      | m2 :: _ => { k with members := ms, used := n, placed := k.placed ++ [(p, m2, 0)] }

/-- The entry of a parcel placed on a member at codeword `c` of the stripes from page `page`. -/
def parcelEntry (w : Swath) (page : Nat) (q : Parcel × Nat × Nat) : Qword :=
  let m := (w.members[q.2.1]?).getD (0, 0)
  flashEntry q.1.comp q.1.words.length m.1 m.2 (page + q.2.2 / 4) (q.2.2 % 4) (ePoison q.1.expect)

/-- The codewords of a placed parcel written to their places, with the program record of their block, a new CRC and the whitening
of their place (R123, R125). -/
def writeParcel (w : Swath) (page : Nat) (s : State) (q : Parcel × Nat × Nat) : State :=
  let e := parcelEntry w page q
  let b := blockAt s (blockKey (eDie e) (eBlock e))
  let put (t : List (Nat × Codeword)) (i : Nat) : List (Nat × Codeword) :=
    match q.1.words[i]? with
    | some cw =>
      let k := cwAfter e i
      tabPut t k (sealWord k { cw with profile := b.profile, progTime := b.progTime, progTemp := bitsOf 8 b.progTemp })
    | none => t
  { s with ftl := { s.ftl with
      flash := (List.range q.1.words.length).foldl put s.ftl.flash
      copies := s.ftl.copies ++ [{ rtype := q.1.rtype, key := q.1.key, expect := q.1.expect, new := e, swath := w.id,
                                   stripe := page + (q.2.2 + q.1.words.length - 1) / 4 }] } }

/-- The parity page of a stripe (R126, R167): on member p mod 32 the XOR of the matching codewords of the other members, whitened
with its own place. -/
def writeParity (w : Swath) (s : State) (page : Nat) : State :=
  match w.members[page % 32]? with
  | none => s
  | some m =>
    let others := w.members.eraseIdx (page % 32)
    let put (t : List (Nat × Codeword)) (c : Nat) : List (Nat × Codeword) :=
      let k := cwKey m.1 m.2 page c
      tabPut t k { xorAt s (stripeKeys others page c) with white := pageSeed k }
    { s with ftl := { s.ftl with flash := (List.range 4).foldl put s.ftl.flash } }

/-- Parcels programmed into the next `h` stripes of a swath with their parity pages: the state and the parcels left over. -/
def programStripes (s : State) (w : Swath) (h : Nat) (ps : List Parcel) : State × List Parcel :=
  let k := ps.foldl (packStep (4 * h)) { members := dataMembers w.next h, used := 0, placed := [], left := [] }
  let s1 := if w.next = 0 then w.members.foldl beginBlock s else s
  let s2 := (List.range' w.next h).foldl (writeParity w) (k.placed.foldl (writeParcel w w.next) s1)
  let raw := w.members.foldl (fun a m => a + (dieAt s m.1).params.pageBytes) 0 * h
  let s3 := { s2 with ftl := { s2.ftl with
      swaths := updFirst (fun x => x.id == w.id) (fun x => { x with next := w.next + h }) s2.ftl.swaths
      health := { s2.ftl.health with mediaProgrammed := s2.ftl.health.mediaProgrammed + raw } } }
  (s3, k.left)

/-- Parcels programmed into as many groups of stripes as they need: the state and the parcels for which no swath was left. -/
def programAll (fam : BitVec 2) (chset h : Nat) (fallow : Bool) : Nat → State → List Parcel → State × List Parcel
  | 0, s, ps => (s, ps)
  | n + 1, s, ps =>
    if ps.isEmpty then (s, ps)
    else
      match swathFor s fam chset h fallow with
      | none => (s, ps)
      | some (t, w) =>
        let r := programStripes t w h ps
        programAll fam chset h fallow n r.1 r.2

/-! ### Wordline groups and safety (R168, R210) -/

/-- Pages of a one-pass group on a block: for each plane of the multi-plane program one in the meadow, and one for each bit per
cell in the heath. A system block counts as heath: no field of a profile map entry places it in one-bit mode (DEDUCED, log 21). -/
def pagesPerGroup (s : State) (die : Nat) (fam : BitVec 2) : Nat :=
  let p := (dieAt s die).params
  max 1 p.planes * (if fam = 0 then 1 else max 1 p.bits)

/-- Whether a die's type programs in two passes: as the die table of the running image says, and where it does not name the type. -/
def twoPass (s : State) (die : Nat) : Bool :=
  match (dieAt s die).dtype with
  | some t => ((s.power.dieTable.find? (fun e => e.1 == t.digest)).map (·.2)).getD true
  | none => true

/-- The wordline group of a page on a die (R210). -/
def wordlineGroup (s : State) (die : Nat) (fam : BitVec 2) (page : Nat) : List Nat :=
  let n := pagesPerGroup s die fam
  let two := fam ≠ 0 && twoPass s die
  ((List.range (if two then 2 * n else n)).map (· + page / n * n)).filter (fun p => decide (p < blockPages s die fam))

/-- Whether a stripe is safe: every page of the wordline groups of its pages is programmed and verified, those of its parity
page among them (R168). Pages of a group past the last stripe of the swath, which stay unused (R166), do not keep it unsafe
(DEDUCED, log 127). -/
def stripeSafe (s : State) (w : Swath) (p : Nat) : Bool :=
  w.members.all (fun m =>
    (wordlineGroup s m.1 w.family p).all (fun q => w.done.contains q || decide (swathPages s w ≤ q)))

/-- The safe stripes of a swath recomputed. -/
def settleSafe (s : State) (w : Swath) : Swath :=
  { w with safe := w.done.filter (stripeSafe s w) }

/-- Whether every codeword of a copy lies on safe pages (R189). -/
def copySafe (s : State) (c : Copy) : Bool :=
  match s.ftl.swaths.find? (fun w => w.id == c.swath) with
  | none => false
  | some w => (List.range (c.stripe + 1 - ePage c.new)).all (fun i => w.safe.contains (ePage c.new + i))

/-- The records of the copies that have become safe are issued (R191); a copy whose entry no longer holds the expected value
is invalid and issues none. -/
def issueSafe (s : State) : State :=
  let ready := s.ftl.copies.filter (copySafe s)
  let s1 := { s with ftl := { s.ftl with copies := s.ftl.copies.filter (fun c => !copySafe s c) } }
  ready.foldl (fun t c =>
    let je : JEntry := { key := if c.rtype = 6 then jPageKey c.key else jUnitKey c.key, old := c.expect, new := c.new }
    if relocOk t c.rtype je then queueRec t c.rtype [je] else t) s1

/-! ### Destage (R209) -/

/-- The settings body in force. -/
def settingsInForce (s : State) : Settings := if s.etch.setActive then s.etch.setB.body else s.etch.setA.body

/-- The committed mark of a namespace's key (R417). -/
def committedMark (s : State) (nsid : Nat) (n : Namespace) : Nat :=
  if n.cipher = 1 then (tabAt {} (settingsInForce s).nsKeys nsid).used
  else (tabAt {} (settingsInForce s).keys n.keySlot).used

/-- The units of KIND 10b in the order in which their records were committed, each once, that no copy is under way for. -/
def destageOrder (s : State) : List (Nat × Qword) :=
  let named := (s.etch.live.filter (fun r => r.type == 1 || r.type == 2)).foldl (fun a r => a ++ r.entries) []
  (named.filter (fun e =>
      let k := jUnit e.key
      let cur := entryAt s k
      eKind e.new == 2 && eKind cur == 2 && eSlot cur == eSlot e.new
        && !s.ftl.copies.any (fun c => c.rtype == 4 && c.key == k && c.expect == cur)
        && !s.etch.built.any (fun b => b.type == 4 && b.entries.any (fun x => jUnit x.key == k && x.old == cur)))).map
    (fun e => (jUnit e.key, entryAt s (jUnit e.key)))

/-- The stamp of the record that committed a unit's data in the Etch buffer: the latest that gave its entry (R123). -/
def commitStamp (s : State) (k : Nat) (e : Qword) : Nat :=
  (((s.etch.live.filter (fun r => (r.type == 1 || r.type == 2)
    && r.entries.any (fun x => jUnit x.key == k && eSlot x.new == eSlot e && eKind x.new == 2))).getLast?).map (·.stamp)).getD 0

/-- The stored form of a unit: compressed when its namespace names DEFLATE and the result fits 15 codewords (R155), then
encrypted codeword by codeword (R24, R403). -/
def unitParcel (s : State) (k : Nat) (n : Namespace) (e : Qword) : Parcel :=
  let nsid := keyNsid k
  let u := keyUnit k
  let plain := unitPlain s nsid u n e
  let packed := if n.codec = 1 && n.coarse then compressUnit plain else none
  let stored := match packed with
    | some c => padTo (ceilDiv c.length 4096 * 4096) c
    | none => plain
  let word (i : Nat) : Codeword :=
    { unit := u, part := i, nsid := nsid, tenant := n.owner, kind := 0, profile := 0, progTime := 0, progTemp := 0
      stamp := commitStamp s k e, user := cipherOf s nsid u i n (sliceOf stored (4096 * i) 4096) }
  { rtype := 4, key := k, expect := e, comp := packed.isSome, words := (List.range (stored.length / 4096)).map word }

/-- The units of the next group: the oldest, and those that follow it in commit order while they are of its grain and channel set,
up to what one group holds (R209). -/
def destageGroup (s : State) : Option (Bool × Nat × List (Nat × Qword)) :=
  match destageOrder s with
  | [] => none
  | (k, e) :: rest =>
    match tabGet s.ftl.namespaces (keyNsid k) with
    | none => none
    | some n =>
      let same (p : Nat × Qword) : Bool :=
        match tabGet s.ftl.namespaces (keyNsid p.1) with
        | some m => m.coarse == n.coarse && m.chset == n.chset
        | none => false
      some (n.coarse, n.chset, ((k, e) :: rest.takeWhile same).take (if n.coarse then 28 else 124))

/-- The families that destage tries, in order: the meadow, then the heath (R173). -/
def destageFamilies (s : State) (chset : Nat) : List (BitVec 2) :=
  let free := freeBlocks s
  let heaths := [1, 2].filter (fun f => free.any (fun e => e.2.family == f && chanAllowed s chset (keyDie e.1 / 16)))
  (0 : BitVec 2) :: heaths ++ [1, 2]

/-- The first of some families that has a swath with room. -/
def firstSwath (s : State) (chset h : Nat) : List (BitVec 2) → Option (State × Swath)
  | [] => none
  | f :: fs =>
    match swathFor s f chset h false with
    | some r => some r
    | none => firstSwath s chset h fs

/-- The namespaces whose marks a group would pass, with their units (R417). -/
def overMark (s : State) (ps : List Parcel) : List Nat :=
  setOfNats ((ps.map (fun p => keyNsid p.key)).filter (fun nsid =>
    match tabGet s.ftl.namespaces nsid with
    | some n =>
      let units := (ps.filter (fun p => keyNsid p.key == nsid)).foldl (fun a p => a + p.words.length) 0
      n.cipher ≠ 0 && decide (committedMark s nsid n < (nsKeySlot s nsid n).used + units)
    | none => false))

/-- The marks of some namespaces raised by 2^30 data units and a settings update asked for (R417). -/
def raiseMarks (s : State) (nsids : List Nat) : State :=
  wantSettings (nsids.foldl (fun t nsid =>
    match tabGet t.ftl.namespaces nsid with
    | some n => updNsKey t nsid n (fun k => { k with usedMark := max k.usedMark (k.used + 2 ^ 30) })
    | none => t) s) []

/-- The data units of a group counted in their keys' USED (R415), with CRY_EVENT.LIMIT_REACHED (R418). -/
def countUnits (s : State) (ps : List Parcel) : State :=
  ps.foldl (fun t p =>
    match tabGet t.ftl.namespaces (keyNsid p.key) with
    | some n =>
      if n.cipher = 0 then t
      else
        let before := nsKeySlot t (keyNsid p.key) n
        let t1 := updNsKey t (keyNsid p.key) n (fun k => useUnits k p.words.length)
        raiseIf (before.st ≠ 2 && (nsKeySlot t1 (keyNsid p.key) n).st == 2) t1 evCry 3
    | none => t) s

/-- Whether the device may program and record now. -/
def canProgram (s : State) : Bool :=
  canRecord s && s.power.started && !s.ftl.stopped && s.power.pstate < 3

/-- Whether a unit of an encrypted namespace waits for the masks of an island that serves a group of its swath (R402, R407). -/
def groupHeld (s : State) (k : Nat) (w : Swath) : Bool :=
  match tabGet s.ftl.namespaces (keyNsid k) with
  | some n => w.members.any (fun m => masksHold s n m.1)
  | none => false

/-- One group of committed units destaged (R209). -/
def destage (s : State) : State :=
  if !canProgram s then s
  else
    match destageGroup s with
    | none => s
    | some (coarse, chset, units) =>
      if !setServed s chset then s
      else
      let ps := units.filterMap (fun p =>
        (tabGet s.ftl.namespaces (keyNsid p.1)).map (fun n => unitParcel s p.1 n p.2))
      let toMark := overMark s ps
      if !toMark.isEmpty then raiseMarks s toMark
      else
        let h := if coarse then 4 else 1
        match firstSwath s chset h (destageFamilies s chset) with
        | none => s
        | some (t, w) =>
          if units.any (fun p => groupHeld s p.1 w) then s
          else
          let r := programStripes t w h ps
          countUnits r.1 (ps.take (ps.length - r.2.length))

/-! ### Relocation (R169, R175) -/

/-- The swath that holds a block. -/
def swathOf (s : State) (die block : Nat) : Option Swath := s.ftl.swaths.find? (fun w => w.members.contains (die, block))

/-- The places of the other 31 pages of a codeword's stripe, when all of them can be read. -/
def stripeMates (s : State) (key : Nat) : Option (List Nat) :=
  let die := keyDie (key / 32768)
  match swathOf s die (keyBlock (key / 32768)) with
  | none => none
  | some w =>
    let others := w.members.filter (· ≠ (die, keyBlock (key / 32768)))
    if others.length = 31 && others.all (fun m => dieReadable s m.1) then some (stripeKeys others (key / 4 % 8192) (key % 4)) else none

/-- Whether a die's data is lost at its place, and whether the reconstruction of a codeword must wait: no page of its stripe is
lost besides, and one cannot be read yet (R105, R108). -/
def dieLost (s : State) (die : Nat) : Bool := (chanAt s (die / 16)).st == chanFenced || (dieAt s die).st ≠ dieActive
def matesHeld (s : State) (key : Nat) : Bool :=
  let m := (keyDie (key / 32768), keyBlock (key / 32768))
  match swathOf s m.1 m.2 with
  | none => false
  | some w =>
    let others := w.members.filter (· ≠ m)
    !others.any (fun x => dieLost s x.1) && !others.all (fun x => dieReadable s x.1)

/-- A codeword recovered by stripe reconstruction: the XOR of the other 31 (R131), where its CRC verifies. -/
def reconstructed (s : State) (key : Nat) : Option Codeword :=
  match stripeMates s key with
  | none => none
  | some ks =>
    let w := { xorAt s ks with white := pageSeed key }
    if outputVerifies w [] then some w else none

/-- A codeword that the Gleaner reads: at its place, or by reconstruction (R184). -/
def gleanWord (s : State) (key : Nat) : Option Codeword :=
  if dieReadable s (keyDie (key / 32768)) then heldWord s key else reconstructed s key

/-- The parcel that moves a mapped unit or a map page as it is. A codeword that cannot be read gives zeros: its unit is poisoned. -/
def moveParcel (s : State) (m : Nat × Qword × Bool) : Parcel :=
  { rtype := if m.2.2 then 6 else 5, key := m.1, expect := m.2.1, comp := eComp m.2.1
    words := (cwKeys m.2.1).map (fun k => (gleanWord s k).getD zeroWord) }

/-- Whether a mapped unit or a map page can be read whole. -/
def canGlean (s : State) (m : Nat × Qword × Bool) : Bool := (cwKeys m.2.1).all (fun k => (gleanWord s k).isSome)

/-- The mapped units that can be read neither at their places nor by reconstruction recorded as deferred write errors of cause 03h
(R263), once each. -/
def deferLost (s : State) (ms : List (Nat × Qword × Bool)) : State :=
  (ms.filter (fun m => !m.2.2 && !canGlean s m && ePoison m.2.1 = 0)).foldl (fun t m => deferUnit t m.1 3) s

/-- The family that a relocation writes: a meadow swath folds into the heath. -/
def moveFamily (s : State) (w : Swath) : BitVec 2 :=
  if w.family ≠ 0 then w.family
  else
    match w.members.head? with
    | some m => heathFamily s m.1
    | none => 1

/-- Every mapped unit of some, relocated to other swaths: the state, and whether room was found for all. A unit whose copy is
already under way is not copied again, nor is a map page that cannot be read. -/
def relocate (s0 : State) (w : Swath) (ms0 : List (Nat × Qword × Bool)) (fallow : Bool) : State × Bool :=
  let s := deferLost s0 ms0
  let ms := ms0.map (fun m => if m.2.2 then m else (m.1, entryAt s m.1, false))
  let fresh := ms.filter (fun m => !s.ftl.copies.any (fun c => c.key == m.1 && c.expect == m.2.1) && (!m.2.2 || canGlean s m))
  let s1 := closeSwath s w.id
  let ps := fresh.map (moveParcel s1)
  let coarse := ps.any (fun p => decide (1 < p.words.length))
  let r := programAll (moveFamily s1 w) w.chset (if coarse then 4 else 1) fallow (ps.length + 1) s1 ps
  let moved := (ps.take (ps.length - r.2.length)).foldl (fun a p => a + p.words.length) 0
  ({ r.1 with ftl := { r.1.ftl with health := { r.1.ftl.health with relocated := r.1.ftl.health.relocated + moved } } },
    r.2.isEmpty)

/-- VALID of a swath, and the oldest PROG_TIME of its members (R175). -/
def swathValid (s : State) (w : Swath) : Nat := w.members.foldl (fun a m => a + (blockAt s (blockKey m.1 m.2)).valid) 0
def swathAge (s : State) (w : Swath) : Nat :=
  w.members.foldl (fun a m => min a (blockAt s (blockKey m.1 m.2)).progTime) (2 ^ 32)

/-- The better reclaim victim: fewer valid codewords, then the older. -/
def betterVictim (s : State) (a b : Swath) : Swath :=
  if swathValid s a < swathValid s b || (swathValid s a = swathValid s b && swathAge s a ≤ swathAge s b) then a else b

/-- Swaths that may be victims: closed, served in the slot in progress, with something mapped, and no copy under way from or to them. -/
def victims (s : State) (fam : BitVec 2) : List Swath :=
  s.ftl.swaths.filter (fun w => !w.opened && w.family == fam && setServed s w.chset && decide (0 < swathValid s w)
    && !s.ftl.copies.any (fun c => c.swath == w.id || inSwath w c.expect))

/-- The reclaim victim of a family. -/
def reclaimVictim (s : State) (fam : BitVec 2) : Option Swath :=
  match victims s fam with
  | [] => none
  | w :: ws => some (ws.foldl (betterVictim s) w)

/-- The meadow swath with the oldest PROG_TIME (R172). -/
def foldVictim (s : State) : Option Swath :=
  match victims s 0 with
  | [] => none
  | w :: ws => some (ws.foldl (fun a b => if swathAge s a ≤ swathAge s b then a else b) w)

/-- Free swaths of a family: its free blocks on usable dies, 32 to a swath (log 24). -/
def freeSwaths (s : State) (fam : BitVec 2) : Nat := ((freeBlocks s).filter (fun e => e.2.family == fam)).length / 32

/-- The families in the order in which they came to be short of `n` free swaths (R174). -/
def shortOrder (s : State) (fams was : List (BitVec 2)) (n : Nat) : List (BitVec 2) :=
  let short (f : BitVec 2) : Bool := decide (freeSwaths s f < n)
  was.filter (fun f => short f && fams.contains f) ++ fams.filter (fun f => short f && !was.contains f)

/-- The families that hold blocks. -/
def familiesInUse (s : State) : List (BitVec 2) :=
  [0, 1, 2, 3].filter (fun f => s.ftl.blocks.any (fun e => blockGood e.2 && e.2.family == f))

/-- The families that are short of free swaths noted, oldest first. -/
def noteShort (s : State) : State :=
  let fams := familiesInUse s
  { s with ftl := { s.ftl with
      shortLow := shortOrder s fams s.ftl.shortLow (freeLow s), shortHigh := shortOrder s fams s.ftl.shortHigh (freeHigh s) } }

/-! ### Rebuild (R184, R185) -/

/-- The mapped units and map pages of a swath that no copy is under way for, and those of them on a lost place. -/
def stillIn (s : State) (w : Swath) : List (Nat × Qword × Bool) :=
  (mappedIn s w).filter (fun m => !s.ftl.copies.any (fun c => c.key == m.1 && c.expect == m.2.1))
def lostIn (s : State) (r : Rebuild) (w : Swath) : List (Nat × Qword × Bool) :=
  (stillIn s w).filter (fun m => onLost r.chan r.die (blockKey (eDie m.2.1) (eBlock m.2.1)))

/-- The next swath of a rebuild and what it moves from it (R184): in its first pass the units on the lost place, swath by swath;
in its second, every other unit of the stripes that had a page there. -/
def rebuildNext (s : State) (r : Rebuild) : Option (Swath × List (Nat × Qword × Bool)) :=
  let ws := hurtSwaths s r.chan r.die
  match ws.find? (fun w => !(lostIn s r w).isEmpty) with
  | some w => some (w, lostIn s r w)
  | none => (ws.find? (fun w => !(stillIn s w).isEmpty)).map (fun w => (w, stillIn s w))

/-- What the rebuild in progress moves next. -/
def rebuildWork (s : State) : Option (Rebuild × Swath × List (Nat × Qword × Bool)) :=
  match s.ftl.rebuild with
  | some r => if r.active then (rebuildNext s r).map (fun w => (r, w)) else none
  | none => none

/-- The open entries of page 0xC4 for the place of a rebuild. -/
def rebuildEntry (r : Rebuild) (f : FaultEntry) : Bool :=
  f.chan == r.chan && (match r.die with | some d => f.die == d | none => f.die == 0xFF || decide (0x10 ≤ f.kind))

/-- The block records of a failed die go once its data is rebuilt (R165). -/
def dropRecords (s : State) (r : Rebuild) : State :=
  match r.die with
  | some d =>
    let n := r.chan * 16 + d
    if (dieAt s n).st = dieFailed then
      { s with ftl := { s.ftl with
          blocks := s.ftl.blocks.filter (fun e => keyDie e.1 ≠ n)
          swaths := s.ftl.swaths.filter (fun w => !w.members.any (fun m => m.1 == n)) } }
    else s
  | none => s

/-- The progress of the rebuild in progress recomputed; when no mapped unit and no map page is left in its stripes, the fault is
repaired (R46, R122, R184), and the next rebuild begins. -/
def settleRebuilds : Nat → State → State
  | 0, s => s
  | n + 1, s =>
    match s.ftl.rebuild with
    | none => s
    | some r =>
      if !r.active then s
      else
        let left := hurtStripes s r.chan r.die
        if 0 < left then
          { s with ftl := { s.ftl with rebuild := some { r with cleared := max r.cleared (r.total - left) } } }
        else
          let s1 := closeFaults s (rebuildEntry r) 1
          let h := s1.ftl.health
          let s2 := dropRecords { s1 with ftl := { s1.ftl with
              rebuild := some { r with active := false, cleared := r.total }
              health := { h with unrepaired := h.unrepaired.filter (· ≠ (r.chan, r.die)) } } } r
          settleRebuilds n (nextRebuild (wantFaultEvent (raise s2 evFtl 4)))
def settleRebuild (s : State) : State := settleRebuilds (s.ftl.rebuilds.length + 1) s

/-- A rebuild for which the spare has no room stops, and its fault stays unrepaired (R48, R185). -/
def failRebuild (s : State) (r : Rebuild) : State :=
  let s1 := closeFaults s (rebuildEntry r) 2
  let h := s1.ftl.health
  let s2 := { s1 with ftl := { s1.ftl with
      rebuild := some { r with active := false }
      health := { h with unrepaired := h.unrepaired.filter (· ≠ (r.chan, r.die)) ++ [(r.chan, r.die)] } } }
  nextRebuild (wakeOn s (wantFaultEvent (raise s2 evFtl 5)))

/-! ### Mirrors in family 3 swaths (R215, R218, R221) -/

/-- Bytes as codewords of a device structure: KIND 02h or 03h, NSID and TENANT 0, one after the other. -/
def mirrorParcels (s : State) (kind len : Nat) (bs : List Byte) : List Parcel :=
  (List.range (wordCount len)).map (fun i =>
    { rtype := 0, key := i, expect := 0, comp := false
      words := [{ unit := i, part := 0, nsid := 0, tenant := 0, kind := kind, profile := 0, progTime := 0, progTemp := 0,
                  stamp := islandTime s isEtch, user := wordOf bs i }] })

/-- `len` bytes placed in family 3 swaths from a new page on, with the places of their codewords; none where there is no room. -/
def placeMirror (s : State) (kind len : Nat) (bs : List Byte) : Option (State × List Nat) :=
  let r := programAll 3 0 1 false (wordCount len) s (mirrorParcels s kind len bs)
  if canProgram s && r.2.isEmpty then
    let mine := r.1.ftl.copies.filter (·.rtype == 0)
    some ({ r.1 with ftl := { r.1.ftl with copies := r.1.ftl.copies.filter (·.rtype != 0) } }, mine.map (fun c => cwAfter c.new 0))
  else none

/-- Whether the pages of some codewords are programmed and verified. -/
def wordsDone (s : State) (words : List Nat) : Bool :=
  !words.isEmpty && words.all (fun k =>
    match swathOf s (keyDie (k / 32768)) (keyBlock (k / 32768)) with
    | some w => w.done.contains (k / 4 % 8192)
    | none => false)

/-- The places of the mirrors that the device keeps (R215, R218). -/
def mirrorWords (s : State) : List Nat :=
  (s.etch.mirrors.map (·.words)).flatten ++ (s.etch.mirrorRoots.map (·.words)).flatten ++ (s.etch.mirrorLog.map (·.words)).flatten
    ++ (s.etch.cpMirror.map (·.words)).getD []

/-- Mirrors that have a codeword on a page that is lost to them: no place of theirs is left. -/
def loseWords (s : State) (lost : Nat → Bool) : State :=
  let gone (ws : List Nat) : List Nat := if ws.any lost then [] else ws
  { s with etch := { s.etch with
      mirrors := s.etch.mirrors.map (fun m => { m with words := gone m.words })
      mirrorRoots := s.etch.mirrorRoots.map (fun m => { m with words := gone m.words })
      mirrorLog := s.etch.mirrorLog.filter (fun m => !m.words.any lost)
      cpMirror := s.etch.cpMirror.map (fun m => { m with words := gone m.words }) } }

/-! ### Anchor blocks (R221) -/

/-- The dies that hold anchor blocks: of channels 0, 40, 80 and 120 the lowest-numbered active one. -/
def anchorDies (s : State) : List Nat :=
  [0, 40, 80, 120].filterMap (fun ch => ((List.range 16).find? (fun d => (dieAt s (ch * 16 + d)).st == dieActive)).map (ch * 16 + ·))

/-- The anchor blocks of such a die: the first four of blocks 0 to 7 that are not factory bad. -/
def anchorBlocks (s : State) (die : Nat) : List Nat :=
  if (anchorDies s).contains die then
    ((List.range 8).filter (fun b => !(dieAt s die).params.badBlocks.contains b)).take 4
  else []

/-- The blocks that are to be anchor blocks taken for it: one that holds nothing at once, and another after the Gleaner has moved what
is mapped in its swath. They are one-bit blocks of family 3 and members of no swath. -/
def takeAnchors (s : State) : State :=
  ((anchorDies s).map (fun d => (anchorBlocks s d).map (fun b => (d, b)))).flatten.foldl (fun t m =>
    let k := blockKey m.1 m.2
    if t.etch.anchorSet.contains k then t
    else
      match swathOf t m.1 m.2 with
      | some w =>
        if (mappedIn t w).isEmpty && !t.ftl.copies.any (fun c => c.swath == w.id) then take t m
        else addWork (closeSwath t w.id) { prio := 2, die := m.1, block := m.2, whole := false }
      | none => if blockGood (blockAt t k) then take t m else t) s
where
  take (t : State) (m : Nat × Nat) : State :=
    let t1 := setBlock t m.1 m.2 1 (fun b => { b with st := blkOpen, family := 3, valid := 0 })
    { t1 with
      ftl := { t1.ftl with
        swaths := (t1.ftl.swaths.map (fun w => { w with members := w.members.filter (· ≠ m) })).filter (fun w => !w.members.isEmpty) }
      etch := { t1.etch with anchorSet := t1.etch.anchorSet ++ [blockKey m.1 m.2] } }

/-- The next anchor page of a die: a full block gives way to the next of the four, in turn, which is erased first. -/
def anchorPlace (s : State) (die : Nat) : Option (State × Nat) :=
  let bs := (anchorBlocks s die).filter (fun b => s.etch.anchorSet.contains (blockKey die b))
  let at_ := tabAt 0 s.etch.anchorNext die
  if bs.isEmpty then none
  else
    let full := blockPages s die 0 ≤ at_ % 8192
    let i := (if full then at_ / 8192 + 1 else at_ / 8192) % bs.length
    let b := (bs[i]?).getD 0
    let page := if full then 0 else at_ % 8192
    let s1 := if full then
        let h := s.ftl.health
        let t := setBlock s die b 4 (fun x => { x with erases := x.erases + 1 })
        { t with
          ftl := { t.ftl with health := { h with erases := h.erases + 1 } }
          etch := { t.etch with anchors := t.etch.anchors.filter (fun p => p.key / 8192 ≠ blockKey die b) } }
      else s
    some ({ s1 with etch := { s1.etch with anchorNext := tabPut s1.etch.anchorNext die (i * 8192 + page + 1) } },
      blockKey die b * 8192 + page)

/-- An anchor record programmed into the next anchor page of a die. -/
def programAnchor (a : Anchor) (s : State) (die : Nat) : State :=
  match anchorPlace s die with
  | none => s
  | some (t, k) =>
    let h := t.ftl.health
    { t with
      ftl := { t.ftl with health := { h with mediaProgrammed := h.mediaProgrammed + (dieAt t die).params.pageBytes } }
      etch := { t.etch with anchors := t.etch.anchors ++ [{ key := k, anchor := a }] } }

/-- The dies on which an anchor record stands. -/
def anchoredOn (s : State) (a : Anchor) : List Nat :=
  setOfNats ((s.etch.anchors.filter (fun p => p.anchor == a)).map (fun p => keyDie (p.key / 8192)))

/-! ### Map write-back (R164, R213) -/

/-- The parcel that writes a map page's current content. -/
def pageParcel (s : State) (page : Nat) : Parcel :=
  { rtype := 6, key := page, expect := tabAt 0 s.ftl.mapLoc page, comp := false
    words := [{ unit := page % 2 ^ 47, part := page / 2 ^ 47 % 2, nsid := 0, tenant := 0, kind := 1, profile := 0,
                progTime := 0, progTemp := 0, stamp := islandTime s isFabric, user := pageBytes s page }] }

/-- A copy of a map page made: a change from now on is not in it (R213). -/
def noteCopied (s : State) (page : Nat) : State := { s with ftl := { s.ftl with since := tabPut s.ftl.since page 0 } }

/-- The dirty pages in the order of their oldest unwritten change, that no copy is under way for. -/
def dirtyOrder (s : State) : List Nat :=
  let ins (e : Nat × Nat) : List (Nat × Nat) → List (Nat × Nat) := fun l =>
    l.takeWhile (fun x => decide (x.2 ≤ e.2)) ++ e :: l.dropWhile (fun x => decide (x.2 ≤ e.2))
  ((s.ftl.dirty.foldl (fun l e => ins e l) []).map (·.1)).filter (fun p =>
    !s.ftl.copies.any (fun c => c.rtype == 6 && c.key == p)
      && !s.etch.built.any (fun b => b.type == 6 && b.entries.any (fun e => jPage e.key == p)))

/-- The channel set of a map page's namespace. -/
def pageChset (s : State) (page : Nat) : Nat := ((tabGet s.ftl.namespaces (page / 2 ^ 48)).map (·.chset)).getD 0

/-- Some dirty pages of one channel set written back: up to one stripe of copies into a family 3 swath. A page is clean when the
record that names its copy is committed and nothing has changed since. -/
def writePages (s : State) (chset : Nat) (pages : List Nat) : State :=
  if !canProgram s || pages.isEmpty then s
  else
    match swathFor s 3 chset 1 false with
    | none => s
    | some (t, w) => pages.foldl noteCopied (programStripes t w 1 (pages.map (pageParcel t))).1

/-- Dirty pages written back, oldest change first (R213). -/
def writeBack (s : State) : State :=
  match dirtyOrder s with
  | [] => s
  | p :: ps => writePages s (pageChset s p) ((p :: ps.takeWhile (fun q => pageChset s q == pageChset s p)).take 124)

/-! ### The map cache (R162) -/

/-- Pages that the map cache holds at most: FTL_MAP_CFG.DRAM_PCT percent of installed DRAM. -/
def cachePages (s : State) : Nat := dramBytes s * within 10 90 (regFld s 0xC00014 0 8) / 100 / 4096

/-- The cache with the least recently used clean page replaced. -/
def dropClean (s : State) : State :=
  { s with ftl := { s.ftl with resident := s.ftl.resident.eraseP (fun p => (tabGet s.ftl.dirty p).isNone) } }

/-- A cache that new pages have taken past its size gives up its least recently used clean pages. -/
def trimCache (s : State) : State := (List.range (s.ftl.resident.length - cachePages s)).foldl (fun t _ => dropClean t) s

/-- Whether there is room for one more page once a clean one has been replaced. -/
def cacheRoom (s : State) : Bool :=
  decide (s.ftl.resident.length < cachePages s) || s.ftl.resident.any (fun p => (tabGet s.ftl.dirty p).isNone)
    || s.ftl.resident.isEmpty

/-- The least recently used dirty page written back, so that it can be replaced. -/
def freeCache (s : State) : State :=
  match s.ftl.resident.find? (fun p => (dirtyOrder s).contains p) with
  | some p => writePages s (pageChset s p) [p]
  | none => s

/-! ### Programs that fail or stop (R180, R196) -/

/-- The copies of a swath that are not safe given up: their units are destaged or relocated again (R180), and the mirrors that have a
page there are written again. -/
def dropCopies (s : State) (swath : Nat) : State :=
  let lost (c : Copy) : Bool := c.swath == swath && !copySafe s c
  let pages := (s.ftl.copies.filter (fun c => lost c && c.rtype == 6)).map (·.key)
  let on (k : Nat) : Bool :=
    match swathOf s (keyDie (k / 32768)) (keyBlock (k / 32768)) with
    | some w => w.id == swath && !w.done.contains (k / 4 % 8192)
    | none => false
  loseWords { s with ftl := { s.ftl with
    copies := s.ftl.copies.filter (fun c => !lost c), since := s.ftl.since.filter (fun e => !pages.contains e.1) } } on

/-- The programs that the fence has stopped (R89, R223): the swaths with a stripe not verified close behind their last verified one,
and what was on its way there is programmed again (R196). -/
def stopPrograms (s : State) : State :=
  (s.ftl.swaths.filter (fun w => (List.range w.next).any (fun p => !w.done.contains p))).foldl (fun t w =>
    let t1 := dropCopies (closeSwath t w.id) w.id
    { t1 with ftl := { t1.ftl with
        swaths := updFirst (fun x => x.id == w.id) (fun x => { x with next := x.done.foldl (fun m p => Nat.max m (p + 1)) 0 })
          t1.ftl.swaths } }) s

/-- Write-back started when the live journal is beyond its threshold (R213). -/
def startWriteBack (s : State) : State := if wbStart s < liveBytes s then writeBack s else s

end Sys2Proof.Machine
end

