-- ==== Sys2Proof/Machine/Cam.lean ====
section
/-! DEFINITION. The associative search table (R376 to R401). A row is numbered bank × 16,384 + row. -/

namespace Sys2Proof.Machine

/-! ### Plates (R379 to R381) -/

/-- A plate as its two registers set it. -/
structure Plate where
  base    : Nat
  rows    : Nat
  mirror  : Bool
  en      : Bool
  banks   : Nat
  tenant  : Nat
  lane    : Bool
  cascade : Bool
deriving DecidableEq, Repr

/-- The plate of two register values. -/
def plateOf (a b : Dword) : Plate :=
  { base := fld a 0 14, rows := fld a 14 14 + 1, mirror := bitOf a 28, en := bitOf a 31, banks := fld b 0 8,
    tenant := fld b 8 11, lane := bitOf b 20, cascade := bitOf b 21 }

/-- The offsets of a plate's registers, and the plate in force. -/
def plateOffA (p : Nat) : Nat := 0x1801000 + 8 * p
def plateOffB (p : Nat) : Nat := 0x1801004 + 8 * p
def plateAt (s : State) (p : Nat) : Plate := plateOf (regAt s (plateOffA p)) (regAt s (plateOffB p))

/-- The banks of a plate, rising. -/
def plateBanks (p : Plate) : List Nat := (List.range 8).filter (fun b => p.banks.testBit b)

/-- The lowest-numbered bank of a plate. -/
def lowBank (p : Plate) : Nat := (plateBanks p).headD 0

/-- Whether a bank is not lost (R397). -/
def bankOk (s : State) (b : Nat) : Bool := s.cam.banksOk.getLsbD b

/-- Whether a plate holds a local index: for a mirror plate the index names the row in its lowest-numbered bank (R391). -/
def plateHolds (p : Plate) (i : Nat) : Bool :=
  p.en && p.banks.testBit (i / 16384) && decide (p.base ≤ i % 16384) && decide (i % 16384 < p.base + p.rows)
    && (!p.mirror || i / 16384 == lowBank p)

/-- The enabled plate that holds a local index. -/
def plateWith (s : State) (i : Nat) : Option Plate := ((List.range 64).map (plateAt s)).find? (fun p => plateHolds p i)

/-- The enabled plate of a tenant with LANE set (R381). -/
def lanePlate (s : State) (t : Nat) : Option Nat :=
  (List.range 64).find? (fun p => let q := plateAt s p; q.en && q.lane && q.tenant == t)

/-- Enabled plates. -/
def platesEn (s : State) : Nat := ((List.range 64).filter (fun p => (plateAt s p).en)).length

/-! ### Rows -/

/-- A row that holds no entry reads as POS 0 and WIDTH 0 (R391). -/
def blankEntry : CamEntry :=
  { value := 0, care := 0, tenant := 0, prio := 0, valid := false, width := 0, pos := 0 }

/-- The verification copy and the match array at a local index. -/
def camCopy (s : State) (i : Nat) : CamEntry := tabAt blankEntry s.cam.copy i
def camArr (s : State) (i : Nat) : CamEntry := tabAt blankEntry s.cam.array i

/-- An entry written to the array and the copy. -/
def camPut (s : State) (i : Nat) (e : CamEntry) : State :=
  { s with cam := { s.cam with array := tabPut s.cam.array i e, copy := tabPut s.cam.copy i e } }

/-- VALID of rows that hold an entry set in the array and the copy. -/
def camValid (s : State) (is : List Nat) (v : Bool) : State :=
  let f := fun (t : List (Nat × CamEntry)) => t.map (fun e => if is.contains e.1 then (e.1, { e.2 with valid := v }) else e)
  { s with cam := { s.cam with array := f s.cam.array, copy := f s.cam.copy } }

/-- The alignment of a head row for a chain of `w` segments (R378). -/
def chainAlign (w : Nat) : Nat := if w = 1 then 1 else if w = 2 then 2 else 4

/-- The rows of a chain. -/
def chainRows (h w : Nat) : List Nat := List.range' h w

/-! ### Searching (R378, R383 to R385) -/

/-- A key cut into segments of 18 bytes, key byte 0 in bits [7:0] (R378). -/
def segmentsOf (key : List Byte) : List (BitVec 144) := (chunks 18 key).map (fun c => BitVec.ofNat 144 (leNat c))

/-- Whether an entry of a chain matches its segment; `pos` is checked in the copy alone, since the array does not hold
it. -/
def entryMatches (e : CamEntry) (seg : BitVec 144) (w tenant : Nat) (pos : Option Nat) : Bool :=
  e.valid && e.width.toNat + 1 == w && e.tenant == tenant && ((seg ^^^ e.value) &&& e.care) == 0
    && (match pos with
        | some j => e.pos.toNat == j
        | none => true)

/-- Whether the chain at head index `h` matches the key in the array, or in the copy. -/
def chainMatches (s : State) (copy : Bool) (h tenant : Nat) (segs : List (BitVec 144)) : Bool :=
  ((List.range segs.length).zip segs).all (fun e =>
    entryMatches (if copy then camCopy s (h + e.1) else camArr s (h + e.1)) e.2 segs.length tenant
      (if copy then some e.1 else none))

/-- The banks in which a lookup in a plate runs: the first remaining one of a mirror, each of a spread plate (R379). -/
def searchBanks (s : State) (p : Plate) : List Nat :=
  let live := (plateBanks p).filter (bankOk s)
  if p.mirror then live.take 1 else live

/-- The index reported for a head found in a bank (R379). -/
def reportIndex (p : Plate) (i : Nat) : Nat := if p.mirror then lowBank p * 16384 + i % 16384 else i

/-- The heads of a plate's chains that match in the array. -/
def arrayMatches (s : State) (p : Plate) (tenant : Nat) (segs : List (BitVec 144)) : List Nat :=
  let w := segs.length
  let bs := searchBanks s p
  (s.cam.array.map (·.1)).filter (fun i =>
    bs.contains (i / 16384) && decide (p.base ≤ i % 16384) && decide (i % 16384 + w ≤ p.base + p.rows)
      && i % 16384 % chainAlign w == 0 && chainMatches s false i tenant segs)

/-- Whether one match is stronger than another: the lower PRIO, on a tie the lower local index (R383). -/
def stronger (s : State) (a b : Nat) : Bool :=
  let pa := (camArr s a).prio.toNat
  let pb := (camArr s b).prio.toNat
  pa < pb || (pa == pb && decide (a < b))

/-- Insertion by strength, and matches in the order in which they are delivered. -/
def insertHead (s : State) (x : Nat) : List Nat → List Nat
  | [] => [x]
  | y :: ys => if stronger s x y then x :: y :: ys else y :: insertHead s x ys

/-- What a lookup answers: the state, the head's local index as reported, and whether it failed under R385 or R397. -/
structure Found where
  s    : State
  head : Option Nat
  bad  : Bool

/-- The full index of a local index (R376). -/
def fullIndex (s : State) (i : Nat) : Nat := s.cas.pos * 131072 + i

/-- The other devices of a cascade that are ready. -/
def cascadePeers (s : State) : List Nat :=
  if s.cas.roleCode = 1 || s.cas.roleCode = 2 then (List.range 8).filter (fun p => p != s.cas.pos && s.cas.ready.getLsbD p) else []

/-- The banks of a plate to which an update applies: its own bank, or every remaining bank of a mirror (R390, R397). -/
def targetBanks (s : State) (p : Plate) (i : Nat) : List Nat :=
  if p.mirror then (plateBanks p).filter (bankOk s) else [i / 16384]

/-- The rows of a chain in every bank to which an update applies. -/
def targetRows (s : State) (p : Plate) (i w : Nat) : List Nat :=
  (targetBanks s p i).foldl (fun a b => a ++ chainRows (b * 16384 + i % 16384) w) []

/-- The rows of a chain in its bank, or in every bank of a mirror plate (R385). -/
def lostRows (p : Plate) (h w : Nat) : List Nat :=
  (if p.mirror then plateBanks p else [h / 16384]).foldl (fun a b => a ++ chainRows (b * 16384 + h % 16384) w) []

/-- An uncorrectable word of a chain's copy (R142, R385): the chain is cleared in the array and the copy, and reported. -/
def loseChain (s : State) (p : Plate) (h w : Nat) : State :=
  setReg (raise (camValid (sramWordLost s) (lostRows p h w) false) evCam 1) 0x1800018 (dwordOf (reportIndex p h))

/-- A match that the copy does not confirm (R384): counted, reported, and the array rows rewritten from the copy. -/
def falseHit (s : State) (h w : Nat) : State :=
  let s1 := raise s evCam 0
  let n := (regAt s1 0x180001C).toNat
  let s2 := setReg s1 0x180001C (dwordOf (if n < 0xFFFFFFFF then n + 1 else n))
  (chainRows h w).foldl (fun t i =>
    match tabGet t.cam.copy i with
    | some e => { t with cam := { t.cam with array := tabPut t.cam.array i e } }
    | none => { t with cam := { t.cam with array := tabDel t.cam.array i } }) s2

/-- Matches are delivered in order, each verified first (R383 to R385). `badWords` are heads with an uncorrectable word in
their copy. -/
def verifyHits (p : Plate) (tenant : Nat) (segs : List (BitVec 144)) (badWords : List Nat) : List Nat → State → Found
  | [], s => { s := s, head := none, bad := false }
  | h :: t, s =>
    if badWords.contains h then { s := loseChain s p h segs.length, head := none, bad := true }
    else if chainMatches s true h tenant segs then { s := s, head := some (reportIndex p h), bad := false }
    else verifyHits p tenant segs badWords t (falseHit s h segs.length)

/-- A lookup of a key in a plate for a searcher's tag (R381 to R385, R397): a plate that is not enabled or is another
tenant's gives a miss. -/
def camSearch (s : State) (tenant plate : Nat) (key : List Byte) (badWords : List Nat) : Found :=
  let p := plateAt s plate
  if !p.en || p.tenant ≠ tenant then { s := s, head := none, bad := false }
  else if !p.mirror && !((plateBanks p).all (bankOk s)) then { s := s, head := none, bad := true }
  else if (searchBanks s p).isEmpty then { s := s, head := none, bad := true }
  else
    let segs := segmentsOf key
    verifyHits p tenant segs badWords ((arrayMatches s p tenant segs).foldr (insertHead s) []) s

/-- What a lookup answers: the state, the full index, and whether it failed. -/
structure Answer where
  s     : State
  index : Option Nat
  bad   : Bool

/-- One bit of a row of the array changed by a soft error; a row of the array does not hold POS (R377). -/
def flipBit (e : CamEntry) (k : Nat) : CamEntry :=
  if k < 144 then { e with value := e.value ^^^ BitVec.ofNat 144 (2 ^ k) }
  else if k < 288 then { e with care := e.care ^^^ BitVec.ofNat 144 (2 ^ (k - 144)) }
  else if k < 299 then { e with tenant := e.tenant ^^^ 2 ^ (k - 288) }
  else if k < 315 then { e with prio := e.prio ^^^ BitVec.ofNat 16 (2 ^ (k - 299)) }
  else if k = 315 then { e with valid := !e.valid }
  else if k < 318 then { e with width := e.width ^^^ BitVec.ofNat 2 (2 ^ (k - 316)) }
  else e

/-- A soft error in the array: the verification copy keeps the row's contents. -/
def upsetRow (s : State) (u : Nat × Nat) : State :=
  { s with cam := { s.cam with array := tabPut s.cam.array u.1 (flipBit (camArr s u.1) u.2) } }

/-- A bank lost (R397). -/
def loseBank (s : State) (b : Nat) : State :=
  if bankOk s b then
    raise { s with cam := { s.cam with banksOk := s.cam.banksOk &&& ~~~(BitVec.ofNat 8 (2 ^ b)) } } evCam 3
  else s

/-- What strikes the table before a lookup: soft errors, and banks that stop answering. -/
def meetFaults (s : State) (f : SearchFaults) : State := f.dead.foldl loseBank (f.upsets.foldl upsetRow s)

/-- A lookup's answer (R376, R399, R400). In a plate with CASCADE set every ready device takes part; another device's match is not in
this state, so whether it wins, and with what entry, is free (log 53). -/
def camLookup (s0 : State) (tenant plate : Nat) (key : List Byte) (f : SearchFaults) : Answer :=
  let s := meetFaults s0 f
  let r := camSearch s tenant plate key f.badWords
  let own := r.head.map (fullIndex s)
  let peers := if (plateAt s plate).cascade && (plateAt s plate).en && (plateAt s plate).tenant == tenant then cascadePeers s else []
  if r.bad || peers.isEmpty then { s := r.s, index := own, bad := r.bad }
  else
    let n := (freeNow r.s).toNat
    let k := n % (peers.length + 1)
    let index := match peers[k]? with
      | some p => some (p * 131072 + n / 16 % 131072)
      | none => own
    { s := takeFree r.s, index := index, bad := false }

/-! ### Update steps (R389 to R392) -/

/-- The fields that a write takes from its staging. -/
structure Staged where
  value  : BitVec 144
  care   : BitVec 144
  prio   : Nat
  width  : Nat
  pos    : Nat
  indexB : Nat

/-- What a step answers: the state, RESULT, and for a read the entry. -/
structure StepDone where
  s      : State
  result : Nat
  entry  : CamEntry

/-- A rejected step changes nothing and sets CAM_EVENT.UPDATE_REJECT (R391). -/
def rejectStep (s : State) (r : Nat) : StepDone := { s := raise s evCam 4, result := r, entry := blankEntry }

/-- The rows that a step reads: in its own bank, or in the first remaining bank of a mirror (R397). -/
def readIndex (s : State) (p : Plate) (i : Nat) : Nat := ((targetBanks s p i).headD (i / 16384)) * 16384 + i % 16384

/-- Whether an index names a chain head (R391). -/
def isHead (s : State) (p : Plate) (i : Nat) : Bool :=
  let e := camCopy s (readIndex s p i)
  e.pos == 0 && i % 16384 % chainAlign (e.width.toNat + 1) == 0

/-- Whether the chain at a head is consistent (R391, RESULT 3h). -/
def chainConsistent (s : State) (p : Plate) (i : Nat) : Bool :=
  let h := readIndex s p i
  let e := camCopy s h
  (List.range (e.width.toNat + 1)).all (fun j =>
    match tabGet s.cam.copy (h + j) with
    | some x => x.width == e.width && x.prio == e.prio && x.pos.toNat == j
    | none => false)

/-- One step in one cycle, on every bank involved (R390 to R392). `may` says which tenants' plates the path may update,
`paired` whether it may write pairs. -/
def camStep (s : State) (may : Nat → Bool) (paired : Bool) (op i : Nat) (g : Staged) : StepDone :=
  if op = 0 ∨ 5 < op ∨ (op = 5 ∧ !paired) then rejectStep s 6
  else
    match plateWith s i with
    | none => rejectStep s 1
    | some p =>
      if !may p.tenant then rejectStep s 1
      else if !p.mirror && !((plateBanks p).all (bankOk s)) then rejectStep s 5
      else
        let e := camCopy s (readIndex s p i)
        let ok := fun (t : State) => ({ s := t, result := 0, entry := e } : StepDone)
        if op = 4 then ok s
        else if op = 1 then
          if isHead s p i then ok (camValid s (targetRows s p i (e.width.toNat + 1)) false) else rejectStep s 4
        else if op = 3 then
          if !isHead s p i then rejectStep s 4
          else if !chainConsistent s p i then rejectStep s 3
          else ok (camValid s (targetRows s p i (e.width.toNat + 1)) true)
        else
          let row := i % 16384
          let bad := decide (row < g.pos) || decide (g.width < g.pos) || (row - g.pos) % chainAlign (g.width + 1) ≠ 0
          if op = 5 && (g.width ≠ 0 || plateWith s g.indexB ≠ some p) then rejectStep s (if g.width ≠ 0 then 4 else 1)
          else if e.valid then rejectStep s 2
          else if bad then rejectStep s 4
          else if g.prio = 0xFFFF then rejectStep s 7
          else
            let x : CamEntry :=
              { value := g.value, care := g.care, tenant := p.tenant, prio := BitVec.ofNat 16 g.prio, valid := op == 5,
                width := BitVec.ofNat 2 g.width, pos := BitVec.ofNat 2 g.pos }
            let s1 := (targetRows s p i 1).foldl (fun t k => camPut t k x) s
            ok (if op = 5 then camValid s1 (targetRows s p g.indexB 1) false else s1)

/-! ### The register ports (R389) -/

/-- The plates that a path may update: BAR2 those of tenant 1, firmware those of TENANT 0 (R389, log 41). -/
def pathMay (p : Path) (t : Nat) : Bool :=
  match p with
  | .host => t == 1
  | .fw => t == 0
  | _ => false

/-- Whether a path may issue an OP (R389, R392). -/
def pathStep (p : Path) : Bool :=
  match p with
  | .host => true
  | .fw => true
  | _ => false

/-- The key of a CAM_UPD register on a path. -/
def updKey (off : Nat) (p : Path) : Nat := 0x1800000 + off + pathNo p * 2 ^ 26

/-- The staged 144 bits of five registers. -/
def staged144 (s : State) (p : Path) (off : Nat) : BitVec 144 :=
  BitVec.ofNat 144 ((List.range 5).foldl (fun a k => a + (regAt s (updKey (off + 4 * k) p)).toNat * 2 ^ (32 * k)) 0)

/-- The staging of a path. -/
def stagedOf (s : State) (p : Path) : Staged :=
  let m := regAt s (updKey 0x28 p)
  { value := staged144 s p 0x40, care := staged144 s p 0x60, prio := fld m 0 16, width := fld m 16 2, pos := fld m 18 2,
    indexB := fld (regAt s (updKey 0x2C p)) 0 17 }

/-- Five registers loaded with 144 bits; [31:16] of the last are KEEP and read 0. -/
def load144 (s : State) (p : Path) (off : Nat) (v : BitVec 144) : State :=
  (List.range 5).foldl (fun t k => setReg t (updKey (off + 4 * k) p) (dwordOf (v.toNat / 2 ^ (32 * k)))) s

/-- The staging registers loaded from an entry (R391, OP 4h). -/
def loadStaging (s : State) (p : Path) (e : CamEntry) : State :=
  let s1 := load144 (load144 s p 0x40 e.value) p 0x60 e.care
  setReg s1 (updKey 0x28 p)
    (dwordOf (e.prio.toNat + e.width.toNat * 2 ^ 16 + e.pos.toNat * 2 ^ 18 + place e.tenant 20 11))

/-- Whether a path's step waits for its banks. -/
def camBusy (s : State) (p : Path) : Bool := s.cam.steps.any (fun e => e.path == p)

/-- A write of CAM_UPD_CTL issues a step; one issued while BUSY is 1 is ignored (R390). -/
def camIssue (s : State) (p : Path) (op i : Nat) : State :=
  if camBusy s p then s
  else
    let s1 := { s with cam := { s.cam with steps := s.cam.steps ++ [{ path := p, op := op, index := i, tag := pathTenant p }] } }
    setRegFld s1 (updKey 0x24 p) 0 1 1

/-- A granted step applies and its RESULT is set (R390, R391). -/
def camApply (s : State) (p : Path) : State :=
  match s.cam.steps.find? (fun e => e.path == p) with
  | none => s
  | some x =>
    let s0 := { s with cam := { s.cam with steps := s.cam.steps.filter (fun e => e.path != p) } }
    let r := if pathStep p then camStep s0 (pathMay p) (p == .fw) x.op x.index (stagedOf s0 p) else rejectStep s0 6
    let st := updKey 0x24 p
    let s1 := if r.result = 0 && x.op == 4 then loadStaging (setRegFld r.s st 1 1 (bitNat r.entry.valid)) p r.entry else r.s
    setRegFld (setRegFld s1 st 0 1 0) st 4 4 r.result

/-- OP 1h issued. -/
def execCamInvalidate (p : Path) (index : Nat) (s : State) : Out := .next (camIssue s p 1 index)

/-- OP 2h issued. -/
def execCamWrite (p : Path) (index : Nat) (s : State) : Out := .next (camIssue s p 2 index)

/-- OP 3h issued. -/
def execCamValidate (p : Path) (index : Nat) (s : State) : Out := .next (camIssue s p 3 index)

/-- OP 4h issued. -/
def execCamRead (p : Path) (index : Nat) (s : State) : Out := .next (camIssue s p 4 index)

/-- OP 5h issued. -/
def execCamPairedWrite (p : Path) (index : Nat) (s : State) : Out := .next (camIssue s p 5 index)

/-- The path's step is granted its banks. -/
def execCamStepApply (p : Path) (s : State) : Out := .next (camApply s p)

/-- A granted lookup (R383); a bank grants it in the slots of its tenant alone (R388). -/
def execCamLookup (k : SearchKey) (faults : SearchFaults) (s : State) : Out :=
  let r := camLookup s k.tenant k.plate k.key faults
  .next <| if !servesTenant s k.tenant then s else { r.s with cam := { r.s.cam with answer := r.index, answerBad := r.bad } }

/-- The own best priority of a device in a round: FFFFh where its plate of the number is not enabled with CASCADE set, is
another tenant's, or holds no match (R399, R401). -/
def ownBest (s : State) (k : SearchKey) : Found × Nat :=
  let p := plateAt s k.plate
  let r : Found := if p.cascade then camSearch s k.tenant k.plate k.key [] else { s := s, head := none, bad := false }
  (r, match r.head with
      | some h => (camCopy r.s (readIndex r.s p h)).prio.toNat
      | none => 0xFFFF)

/-- A round of the match chain (R399, R400): the stronger of MATCH_IN and the own best goes on, and a provisional winner
replies with its priority and full index. -/
def execMatchRound (k : SearchKey) (matchIn : BitVec 16) (s : State) : Out :=
  let r := ownBest s k
  let win := decide (r.2 < matchIn.toNat)
  let out := if win then BitVec.ofNat 16 r.2 else matchIn
  .next { r.1.s with cam := { r.1.s.cam with
    matchOut := out, winner := if win then r.1.head.map (fun h => (r.2, fullIndex r.1.s h)) else none } }

/-! ### The background check and bank loss (R386, R397) -/

/-- The rows of a bank that differ between the array and the copy; the array does not hold POS. -/
def differingRows (s : State) (b : Nat) : List Nat :=
  let keys := setOfNats ((s.cam.array ++ s.cam.copy).map (·.1))
  keys.filter (fun i => i / 16384 == b && { camArr s i with pos := 0 } != { camCopy s i with pos := 0 })

/-- An uncorrectable word of the copy that the check meets: the chain of its entry is lost (R385). -/
def meetBadWord (s : State) (i : Nat) : State :=
  match tabGet s.cam.copy i, ((List.range 64).map (plateAt s)).find? (fun p => p.en && p.banks.testBit (i / 16384)
      && decide (p.base ≤ i % 16384) && decide (i % 16384 < p.base + p.rows)) with
  | some e, some p => loseChain s p (i - e.pos.toNat) (e.width.toNat + 1)
  | _, _ => s

/-- PERIOD_MS in ticks (CAM_CHECK_CFG). -/
def checkPeriod (s : State) : Nat := within 10 60000 (regFld s 0x1800008 0 16) * msTicks

/-- The array rows of a bank compared with their copies once per PERIOD_MS (R386): differing rows are rewritten; a bank that does not answer,
or has more than 64 of them, is lost. A word of the copy that is uncorrectable costs its chain (R385). -/
def execCamArrayCheck (bank : Nat) (answers : Bool) (badWords : List Nat) (s0 : State) : Out :=
  let due := bankOk s0 bank && answers && isDue s0 (tabAt 0 s0.cam.checkedAt bank) (checkPeriod s0)
  let noted := { s0 with cam := { s0.cam with checkedAt := tabPut s0.cam.checkedAt bank (now s0) } }
  let s := if due then (badWords.filter (fun i => i / 16384 == bank)).foldl meetBadWord noted else s0
  let rows := differingRows s bank
  .next <|
    if !bankOk s bank || (answers && !due) then s
    else if !answers || decide (64 < rows.length) then loseBank s bank
    else if rows.isEmpty then s
    else
      let arr := rows.foldl (fun t i =>
        match tabGet s.cam.copy i with
        | some e => tabPut t i e
        | none => tabDel t i) s.cam.array
      raise { s with cam := { s.cam with array := arr } } evCam 2

/-! ### Lifetime (R380, R393, R394) -/

/-- Whether a plate's rows hold an index, in any of its banks. -/
def plateCovers (p : Plate) (i : Nat) : Bool :=
  p.banks.testBit (i / 16384) && decide (p.base ≤ i % 16384) && decide (i % 16384 < p.base + p.rows)

/-- VALID cleared in every row of a plate (R380). -/
def clearPlate (s : State) (p : Plate) : State :=
  camValid s (((s.cam.array ++ s.cam.copy).map (·.1)).filter (plateCovers p)) false

/-- Whether an enabled plate of another tag covers a row. -/
def othersRow (s : State) (t i : Nat) : Bool :=
  ((List.range 64).map (plateAt s)).any (fun q => q.en && q.tenant != t && plateCovers q i)

/-- The plates of a tag cleared, zeroed and disabled before the tag is given to a new tenant (R394). A plate that was disabled before
leaves the rows that another tag's plate has come to hold. -/
def clearTagPlates (s : State) (t : Nat) : State :=
  (List.range 64).foldl (fun a k =>
    let p := plateAt a k
    if p.tenant = t then
      let keep := fun (l : List (Nat × CamEntry)) => l.filter (fun e => !plateCovers p e.1 || othersRow a t e.1)
      setRegFld { a with cam := { a.cam with array := keep a.cam.array, copy := keep a.cam.copy } } (plateOffA k) 31 1 0
    else a) s

/-- Whether R380 rejects a plate's new fields. `host`: a BAR2 write is among those that apply. -/
def plateRejected (s : State) (n : Nat) (old new : Plate) (host : Bool) : Bool :=
  let others := ((List.range 64).filter (· ≠ n)).map (plateAt s)
  let bad :=
    new.base % 4 ≠ 0 || new.rows % 4 ≠ 0 || decide (16384 < new.base + new.rows) || new.banks == 0
      || others.any (fun q => q.en && q.banks &&& new.banks ≠ 0 && decide (q.base < new.base + new.rows)
          && decide (new.base < q.base + q.rows))
      || (new.lane && others.any (fun q => q.en && q.lane && q.tenant == new.tenant))
  (new.en && bad) || (old.en && new.en && old != new)
    || (host && ((new.en && new.tenant == 0) || (old.en && old.tenant == 0)))

/-- New values of a plate's registers applied together (R380), beside the PLATE_REJECT bits of the boundary so far. -/
def applyPlate (x : State × List Nat) (n : Nat) (a b : Dword) (host : Bool) : State × List Nat :=
  let s := x.1
  let old := plateAt s n
  let new := plateOf a b
  if plateRejected s n old new host then (s, [5])
  else
    let s1 := if old.en && !new.en then clearPlate s old else s
    (setReg (setReg s1 (plateOffA n) a) (plateOffB n) b, x.2)

end Sys2Proof.Machine
end

