-- ==== Sys2Proof/Machine/Float.lean ====
section
/-! DEFINITION. IEEE 754 arithmetic in binary32 and binary64, round to nearest even, subnormal values kept (R455).
A result is computed exactly and rounded once. -/

namespace Sys2Proof.Machine

/-- A binary format: the bits of its significand and of its exponent field. -/
structure Fmt where
  p : Nat
  w : Nat
deriving DecidableEq, Repr

def f32 : Fmt := { p := 24, w := 8 }
def f64 : Fmt := { p := 53, w := 11 }

/-- The exponent of the last place of the smallest values. -/
def Fmt.qmin (f : Fmt) : Int := 3 - (2 ^ (f.w - 1) : Int) - f.p

/-- The pattern of +∞, and the sign bit. -/
def Fmt.inf (f : Fmt) : Nat := (2 ^ f.w - 1) * 2 ^ (f.p - 1)
def Fmt.sign (f : Fmt) : Nat := 2 ^ (f.p + f.w - 1)

/-- A datum: NaN, an infinity or a finite value (−1)^neg × m × 2^e. -/
inductive Fp where
  | nan
  | inf (neg : Bool)
  | fin (neg : Bool) (m : Nat) (e : Int)
deriving DecidableEq, Repr

/-- The datum of a pattern. -/
def Fmt.dec (f : Fmt) (x : Nat) : Fp :=
  let neg := decide (f.sign ≤ x % (2 * f.sign))
  let a := x % f.sign
  if f.inf < a then .nan
  else if a = f.inf then .inf neg
  else if a < 2 ^ (f.p - 1) then .fin neg a f.qmin
  else .fin neg (a % 2 ^ (f.p - 1) + 2 ^ (f.p - 1)) (f.qmin + ((a / 2 ^ (f.p - 1) : Nat) : Int) - 1)

/-- Round to nearest even of m × 2^k downward by `k` places; `sticky` is a remainder below m. -/
def roundEven (m k : Nat) (sticky : Bool) : Nat :=
  let d := m >>> k
  let r := m % 2 ^ k
  let half := 2 ^ k / 2
  if k = 0 then d
  else if half < r || (r = half && (sticky || d % 2 = 1)) then d + 1 else d

/-- The pattern of (−1)^neg × (m + a little when `sticky`) × 2^e, rounded; values too large give ∞. The magnitude m has at
least two bits more than the significand where `sticky` is set. -/
def Fmt.round (f : Fmt) (neg : Bool) (m : Nat) (e : Int) (sticky : Bool) : Nat :=
  let s := if neg then f.sign else 0
  if m = 0 then s
  else
    let q := max (e + (m.log2 + 1 : Nat) - f.p) f.qmin
    let c := if q ≤ e then m <<< (e - q).toNat else roundEven m (q - e).toNat sticky
    let bits := (q - f.qmin).toNat * 2 ^ (f.p - 1) + c
    s + (if f.inf < bits then f.inf else bits)

/-- A signed value m × 2^e of an exact sum; an exact zero takes the sign given. -/
def Fmt.roundInt (f : Fmt) (x : Int) (e : Int) (zeroNeg : Bool) : Nat :=
  if x = 0 then (if zeroNeg then f.sign else 0) else f.round (decide (x < 0)) x.natAbs e false

/-- The sum; none for a NaN. -/
def Fmt.add (f : Fmt) (x y : Nat) : Option Nat :=
  match f.dec x, f.dec y with
  | .nan, _ => none
  | _, .nan => none
  | .inf a, .inf b => if a = b then some x else none
  | .inf _, _ => some x
  | _, .inf _ => some y
  | .fin a m e, .fin b n g =>
    let lo := min e g
    let v : Int := (if a then -1 else 1) * ((m <<< (e - lo).toNat : Nat) : Int)
    let w : Int := (if b then -1 else 1) * ((n <<< (g - lo).toNat : Nat) : Int)
    some (f.roundInt (v + w) lo (a && b))

/-- The pattern with its sign turned. -/
def Fmt.neg (f : Fmt) (x : Nat) : Nat := if f.sign ≤ x then x - f.sign else x + f.sign

/-- The difference. -/
def Fmt.sub (f : Fmt) (x y : Nat) : Option Nat := f.add x (f.neg y)

/-- An infinity of a sign. -/
def Fmt.infOf (f : Fmt) (neg : Bool) : Nat := f.inf + if neg then f.sign else 0

/-- The product. -/
def Fmt.mul (f : Fmt) (x y : Nat) : Option Nat :=
  match f.dec x, f.dec y with
  | .nan, _ => none
  | _, .nan => none
  | .inf a, .inf b => some (f.infOf (a != b))
  | .inf a, .fin b n _ => if n = 0 then none else some (f.infOf (a != b))
  | .fin a m _, .inf b => if m = 0 then none else some (f.infOf (a != b))
  | .fin a m e, .fin b n g => some (f.round (a != b) (m * n) (e + g) false)

/-- The quotient. -/
def Fmt.div (f : Fmt) (x y : Nat) : Option Nat :=
  match f.dec x, f.dec y with
  | .nan, _ => none
  | _, .nan => none
  | .inf _, .inf _ => none
  | .inf a, .fin b _ _ => some (f.infOf (a != b))
  | .fin a _ _, .inf b => some (if a != b then f.sign else 0)
  | .fin a m e, .fin b n g =>
    if n = 0 then (if m = 0 then none else some (f.infOf (a != b)))
    else
      let k := 2 * f.p + 4
      let d := m <<< k
      some (f.round (a != b) (d / n) (e - g - k) (d % n ≠ 0))

/-- The integer square root below 2^b. -/
def isqrtAux (n : Nat) : Nat → Nat → Nat
  | 0, r => r
  | b + 1, r => let t := r + 2 ^ b; if t * t ≤ n then isqrtAux n b t else isqrtAux n b r

/-- The square root. -/
def Fmt.sqrt (f : Fmt) (x : Nat) : Option Nat :=
  match f.dec x with
  | .nan => none
  | .inf neg => if neg then none else some x
  | .fin neg m e =>
    if m = 0 then some x
    else if neg then none
    else
      let k := 2 * f.p + 4 + (if (e % 2 : Int) = 0 then 0 else 1)
      let d := m <<< k
      let r := isqrtAux d (f.p * 2 + 4) 0
      some (f.round false r ((e - k) / 2) (r * r ≠ d))

/-- The outcome of a comparison. -/
inductive FpOrd where
  | lt | eq | gt | unordered
deriving DecidableEq, Repr

/-- A number that orders the patterns that are no NaNs; −0 and +0 are equal. -/
def Fmt.key (f : Fmt) (x : Nat) : Int := if f.sign ≤ x then -((x - f.sign : Nat) : Int) else (x : Int)

/-- The comparison of two patterns. -/
def Fmt.cmp (f : Fmt) (x y : Nat) : FpOrd :=
  if f.dec x = .nan ∨ f.dec y = .nan then .unordered
  else if f.key x < f.key y then .lt
  else if f.key x = f.key y then .eq
  else .gt

/-- An integer as a pattern. -/
def Fmt.ofInt (f : Fmt) (x : Int) : Nat := f.roundInt x 0 false

/-- A finite value truncated toward zero; none for a NaN or an infinity. -/
def Fmt.trunc (f : Fmt) (x : Nat) : Option Int :=
  match f.dec x with
  | .fin neg m e =>
    let a : Nat := if 0 ≤ e then m <<< e.toNat else m >>> (-e).toNat
    some (if neg then -(a : Int) else (a : Int))
  | _ => none

/-- A finite pattern in another format, rounded; none for a NaN. -/
def Fmt.convert (f g : Fmt) (x : Nat) : Option Nat :=
  match f.dec x with
  | .nan => none
  | .inf neg => some (g.infOf neg)
  | .fin neg m e => some (g.round neg m e false)

end Sys2Proof.Machine
end

