-- ==== Sys2Proof/Machine/Hatching.lean ====
section
/-! DEFINITION. The Hatching codec (R350 to R358, R366, R367). -/

namespace Sys2Proof.Machine

/-- A decoded block header (R352). -/
structure HatchHead where
  vtype    : Nat
  raw      : Bool
  nan      : Bool
  qsum     : Nat
  count    : Nat
  length   : Nat
  tag      : Dword
  crc      : Nat
  base     : Nat
  interval : Nat
  min      : Dword
  max      : Dword
deriving DecidableEq, Repr

/-- QSUM of samples: bit c set when some sample has class c (R352). -/
def qsumOf (ws : List W36) : Nat :=
  (List.range 4).foldl (fun a c => if ws.any (fun w => qClass (wQ w) == c) then a + 2 ^ c else a) 0

/-- The values that MIN and MAX look at: good and uncertain samples, NaNs left out (R352, R353). -/
def rangeVals (t : VType) (ws : List W36) : List Dword :=
  (ws.filter (fun w => qClass (wQ w) < 2 && !(t == 2 && isNan (wVal w)))).map wVal

/-- The first smallest and the first largest of values; 0 where there are none (R353). -/
def firstMin (t : VType) (vs : List Dword) : Dword :=
  match vs with
  | [] => 0
  | v :: r => r.foldl (fun m x => if valKey t x < valKey t m then x else m) v
def firstMax (t : VType) (vs : List Dword) : Dword :=
  match vs with
  | [] => 0
  | v :: r => r.foldl (fun m x => if valKey t m < valKey t x then x else m) v

/-- NAN of samples (R353). -/
def nanOf (t : VType) (ws : List W36) : Bool :=
  t == 2 && ws.any (fun w => qClass (wQ w) < 2 && isNan (wVal w))

/-! ### The encoder -/

/-- The maximal runs of quality codes (R355), as (code, length). -/
def qualRuns : List Nat → List (Nat × Nat)
  | [] => []
  | q :: t =>
    match qualRuns t with
    | (p, n) :: r => if p = q then (q, n + 1) :: r else (q, 1) :: (p, n) :: r
    | [] => [(q, 1)]

/-- `k` bits of a number, least significant first. -/
def bitsLsb (n : Nat) (k : Nat) : List Bool := (List.range k).map (fun i => n.testBit i)

/-- The bits of one run (R355). -/
def runBits (r : Nat × Nat) : List Bool :=
  bitsLsb r.1 4 ++ (if r.2 ≤ 8 then [false] ++ bitsLsb (r.2 - 1) 3 else [true] ++ bitsLsb (r.2 - 1) 12)

/-- The zig-zag form of a residual (R356). -/
def zigzag (r : Nat) : Nat :=
  let i := signedOf 32 r
  if 0 ≤ i then (2 * i).toNat else (-2 * i - 1).toNat

/-- The residuals of values from the two before them and MIN (R356): sample `i` on. -/
def residuals (mn : Nat) : Nat → Nat → Nat → List Dword → List Nat
  | _, _, _, [] => []
  | i, p1, p2, v :: t =>
    let x := v.toNat
    let r :=
      if i = 0 then x + 2 ^ 32 - mn
      else if i = 1 then x + 2 ^ 32 - p1
      else x + 2 ^ 33 - 2 * p1 + p2
    zigzag (r % 2 ^ 32) :: residuals mn (i + 1) x p1 t

/-- The width that holds every residual of a group (R357). -/
def groupWidth (zs : List Nat) : Nat := zs.foldl (fun w z => max w (if z = 0 then 0 else Nat.log2 z + 1)) 0

/-- The bits of one residual group. -/
def groupBits (zs : List Nat) : List Bool :=
  let w := groupWidth zs
  bitsLsb w 6 ++ (zs.map (fun z => bitsLsb z w)).foldl (· ++ ·) []

/-- Bytes from bits, least significant first, with zero bits up to the byte boundary (R354). -/
def packBits (bs : List Bool) : List Byte :=
  (chunks 8 bs).map (fun c => BitVec.ofNat 8 (c.zipIdx.foldl (fun a e => a + bitNat e.1 * 2 ^ e.2) 0))

/-- The block of one input record (R352 to R358). -/
def hatchBlock (tag : Dword) (t : VType) (base interval : Nat) (samples : List Byte) : List Byte :=
  let ws := (chunks 5 samples).map sampleOf
  let n := ws.length
  let vs := rangeVals t ws
  let mn := firstMin t vs
  let bits := ((qualRuns (ws.map wQ)).map runBits).foldl (· ++ ·) []
    ++ ((chunks 64 (residuals mn.toNat 0 0 0 (ws.map wVal))).map groupBits).foldl (· ++ ·) []
  let packed := packBits bits
  let raw := 5 * n ≤ packed.length
  let body := if raw then samples else packed
  [0x48, 0x42, BitVec.ofNat 8 (1 + 16 * t + (if raw then 64 else 0) + (if nanOf t ws then 128 else 0)),
    BitVec.ofNat 8 (qsumOf ws)] ++ leBytes (n - 1) 2 ++ leBytes (40 + body.length) 2 ++ leBytes tag.toNat 4
    ++ leBytes (crc32c samples) 4 ++ leBytes base 8 ++ leBytes interval 8 ++ leBytes mn.toNat 4
    ++ leBytes (firstMax t vs).toNat 4 ++ body

/-- The samples of an input record that arrive, checked one by one (R351). -/
def checkSamples : Nat → List Byte → Except CodecErr Unit
  | 0, _ => .ok ()
  | n + 1, l =>
    if l.length < 5 then .error .length
    else
      let q := ((l[4]?).getD 0).toNat
      if 16 ≤ q || q = 3 || q = 15 then .error .illegal else checkSamples n (l.drop 5)

/-- One input record, checked in the order in which its bytes arrive (R350, R351): its block and the bytes after it. -/
def hatchRecord (inp : List Byte) : Except CodecErr (List Byte × List Byte) :=
  let n := inp.length
  let vt := leAt inp 4 1
  let count := leAt inp 6 2
  let base := leAt inp 8 8
  let iv := leAt inp 16 8
  if n < 5 then .error .length
  else if 2 < vt then .error .illegal
  else if n < 6 then .error .length
  else if leAt inp 5 1 ≠ 0 then .error .illegal
  else if n < 8 then .error .length
  else if count = 0 || 4096 < count then .error .illegal
  else if n < 24 then .error .length
  else if 2 ^ 64 - 1 < base + (count - 1) * iv then .error .illegal
  else
    match checkSamples count (inp.drop 24) with
    | .error e => .error e
    | .ok _ =>
      .ok (hatchBlock (dwordOf (leAt inp 0 4)) vt base iv ((inp.drop 24).take (5 * count)),
        inp.drop (24 + 5 * count))

/-- The input records of a Hatching compress stage. -/
def hatchRun : Nat → List Byte → List Byte → Decoded
  | 0, _, out => { out := out, err := none }
  | f + 1, inp, out =>
    if inp.isEmpty then { out := out, err := none }
    else
      match hatchRecord inp with
      | .error e => { out := out, err := some e }
      | .ok (b, rest) => hatchRun f rest (out ++ b)

/-- A Hatching compress stage. -/
def hatchEncode (inp : List Byte) : Decoded := hatchRun (inp.length + 1) inp []

/-! ### The decoder -/

/-- The fields of a header of 40 bytes (R352). -/
def hatchFields (inp : List Byte) : HatchHead :=
  let b (i : Nat) : Nat := ((inp[i]?).getD 0).toNat
  { vtype := b 2 / 16 % 4, raw := (b 2).testBit 6, nan := (b 2).testBit 7, qsum := b 3 % 16, count := leAt inp 4 2 % 4096 + 1
    length := leAt inp 6 2, tag := dwordOf (leAt inp 8 4), crc := leAt inp 12 4, base := leAt inp 16 8, interval := leAt inp 24 8
    min := dwordOf (leAt inp 32 4), max := dwordOf (leAt inp 36 4) }

/-- The header of a block that starts at a non-zero byte, decoded (R352, R367). -/
def hatchHead (inp : List Byte) : Except CodecErr HatchHead :=
  let b (i : Nat) : Nat := ((inp[i]?).getD 0).toNat
  let n := inp.length
  let count := leAt inp 4 2 % 4096 + 1
  let base := leAt inp 16 8
  let iv := leAt inp 24 8
  let len := leAt inp 6 2
  let vt := b 2 / 16 % 4
  let raw := (b 2).testBit 6
  if b 0 ≠ 0x48 || (1 < n && b 1 ≠ 0x42) then .error .illegal
  else if 2 < n && (b 2 % 16 ≠ 1 || vt = 3 || ((b 2).testBit 7 && vt ≠ 2)) then .error .illegal
  else if 3 < n && 16 ≤ b 3 then .error .illegal
  else if 5 < n && 4096 ≤ leAt inp 4 2 then .error .illegal
  else if 7 < n && len < 40 then .error .overrun
  else if 7 < n && raw && len ≠ 40 + 5 * count then .error .overrun
  else if 32 ≤ n && 2 ^ 64 - 1 < base + (count - 1) * iv then .error .illegal
  else if n < 40 then .error .overrun
  else
    .ok (hatchFields inp)

/-- The header of a block as the lane reads it before it decides to skip the block: a skipped block meets no trigger of R367, so
only what finds the block and its end is checked (R320, R344, R368). -/
def hatchPeek (inp : List Byte) : Except CodecErr HatchHead :=
  if inp.length < 40 || leAt inp 0 2 ≠ 0x4248 || leAt inp 6 2 < 40 then hatchHead inp else .ok (hatchFields inp)

/-- The quality runs of a body, newest code first, until they cover `count` samples. -/
def readRuns (count : Nat) : Nat → BitRd → List Nat → Except CodecErr (BitRd × List Nat)
  | 0, _, _ => .error .overrun
  | f + 1, r, qs =>
    if count ≤ qs.length then .ok (r, qs)
    else
      match takeBits 4 r with
      | .error e => .error e
      | .ok (q, r1) =>
        if q = 3 || q = 15 then .error .illegal
        else
          match takeBits 1 r1 with
          | .error e => .error e
          | .ok (x, r2) =>
            match takeBits (if x = 1 then 12 else 3) r2 with
            | .error e => .error e
            | .ok (l, r3) =>
              if count < qs.length + l + 1 then .error .overrun
              else readRuns count f r3 (List.replicate (l + 1) q ++ qs)

/-- The residuals of a body, `left` of them to come. -/
def readResiduals : Nat → Nat → BitRd → Except CodecErr (BitRd × List Nat)
  | 0, _, r => .ok (r, [])
  | f + 1, left, r =>
    if left = 0 then .ok (r, [])
    else
      match takeBits 6 r with
      | .error e => .error e
      | .ok (w, r1) =>
        if 32 < w then .error .illegal
        else
          let k := min left 64
          match takeMany w k r1 with
          | .error e => .error e
          | .ok (zs, r2) =>
            match readResiduals f (left - k) r2 with
            | .error e => .error e
            | .ok (r3, more) => .ok (r3, zs ++ more)

/-- The signed residual of its zig-zag form, as an integer. -/
def unzig (z : Nat) : Int := if z % 2 = 0 then (z / 2 : Nat) else -((z + 1) / 2 : Nat)

/-- The values of residuals (R356), from sample `i`. -/
def unresidual (mn : Nat) : Nat → Nat → Nat → List Nat → List Dword
  | _, _, _, [] => []
  | i, p1, p2, z :: t =>
    let pred : Int := if i = 0 then mn else if i = 1 then p1 else 2 * p1 - p2
    let v := bitsOf 32 (unzig z + pred)
    BitVec.ofNat 32 v :: unresidual mn (i + 1) v p1 t

/-- The sample bytes of a raw body checked in order (R358, R367). -/
def rawSamples : Nat → List Byte → Except CodecErr (List W36)
  | 0, _ => .ok []
  | n + 1, l =>
    if l.length < 5 then .error .overrun
    else
      let q := ((l[4]?).getD 0).toNat
      if 16 ≤ q || q = 3 || q = 15 then .error .illegal
      else
        match rawSamples n (l.drop 5) with
        | .error e => .error e
        | .ok ws => .ok (sampleOf (l.take 5) :: ws)

/-- The samples of a body, with what follows the last of them: a padding bit that is not zero, or a byte left unused. -/
def bodySamples (h : HatchHead) (body : List Byte) : Except CodecErr (List W36 × Bool × Bool) :=
  if h.raw then
    match rawSamples h.count body with
    | .error e => .error e
    | .ok ws => .ok (ws, false, false)
  else
    match readRuns h.count (h.count + 1) (bitRd body) [] with
    | .error e => .error e
    | .ok (r, qs) =>
      match readResiduals (h.count / 64 + 1) h.count r with
      | .error e => .error e
      | .ok (r2, zs) =>
        .ok (List.zipWith mkW qs.reverse (unresidual h.min.toNat 0 0 0 zs), r2.acc % 2 ^ (r2.n % 8) != 0, bytesLeft (alignBits r2) != 0)

/-- The samples of a block (R354 to R358, R367), its triggers met in stream order: those of the body to its last sample, the
summary and CRC there, then the padding bits and the bytes behind them (log 97). -/
def hatchSamples (h : HatchHead) (inp : List Byte) : Except CodecErr (List W36) :=
  match bodySamples h ((inp.take h.length).drop 40) with
  | .error e => .error e
  | .ok (ws, pad, unused) =>
    let vs := rangeVals h.vtype ws
    if qsumOf ws ≠ h.qsum || nanOf h.vtype ws ≠ h.nan || firstMin h.vtype vs ≠ h.min || firstMax h.vtype vs ≠ h.max then
      .error .illegal
    else if crc32c ((ws.map sampleBytes).foldl (· ++ ·) []) ≠ h.crc then .error .check
    else if pad then .error .illegal
    else if unused || inp.length < h.length then .error .overrun
    else .ok ws

/-- A block decoded from its first byte (R367). -/
def hatchDecode (inp : List Byte) : Except CodecErr (List W36) :=
  match hatchHead inp with
  | .error e => .error e
  | .ok h => hatchSamples h inp

end Sys2Proof.Machine
end

