-- ==== Sys2Proof/Machine/LaneProgram.lean ====
section
/-! DEFINITION. Lane programs (R316 to R345): their form and the checks at load, the evaluation of records and Hatching
blocks, aggregation and the merger. A record is a list of bytes; a program is parsed once into `LaneProg`. -/

namespace Sys2Proof.Machine

/-! ### The program (R327 to R336, R340) -/

/-- A field descriptor. -/
structure LField where
  off : Nat
  ty  : Nat
  len : Nat
deriving DecidableEq, Repr

/-- A comparison descriptor. -/
structure LCmp where
  field : Nat
  op    : Nat
  byField : Bool
  qmask : Nat
  k1    : Nat
  k2    : Nat
deriving DecidableEq, Repr

/-- The aggregation block. -/
structure LAgg where
  field : Nat
  src   : Nat
  group : Nat
  time  : Nat
  accept : Nat
  base  : Nat
  width : Nat
  groupBase : Nat
  mergeMax : Nat
deriving DecidableEq, Repr

/-- A lane program. -/
structure LaneProg where
  form     : Nat
  fields   : List LField
  cmps     : List LCmp
  proj     : List Nat
  truth    : Nat
  terms    : List (Nat × Nat)
  table    : List Byte
  qfMask   : Nat
  qfFields : Nat
  output   : Nat
  prefix_  : Nat
  inclusive : Bool
  maxLen   : Nat
  seg      : Nat
  stype    : Nat
  agg      : LAgg
  keys     : List Nat
deriving DecidableEq, Repr

/-- The bytes of a type (R329). -/
def typeBytes (ty width : Nat) : Nat :=
  if ty = 13 then width
  else if ty = 0 ∨ ty = 4 then 1
  else if ty = 1 ∨ ty = 5 then 2
  else if ty = 2 ∨ ty = 6 ∨ ty = 8 then 4
  else if ty = 3 ∨ ty = 7 ∨ ty = 9 then 8
  else 5

/-- Types by kind: integers, signed ones, floating point ones (constants are f64), qualified samples. -/
def isQs (ty : Nat) : Bool := 10 ≤ ty && ty ≤ 12
def isInt (ty : Nat) : Bool := ty ≤ 7
def isSignedTy (ty : Nat) : Bool := (4 ≤ ty && ty ≤ 7) || ty == 10
def isFloatTy (ty : Nat) : Bool := ty == 8 || ty == 9 || ty == 12

/-- The program of an image. -/
def parseLane (im : List Byte) : LaneProg :=
  let b (i : Nat) : Nat := leAt im i 1
  let nkey := b 0x2A0
  { form := b 5
    fields := (List.range (b 6)).map (fun k =>
      let o := 0x40 + 8 * k
      { off := leAt im o 2, ty := b (o + 2), len := typeBytes (b (o + 2)) (b (o + 3)) })
    cmps := (List.range (b 7)).map (fun k =>
      let o := 0xC0 + 24 * k
      { field := b o, op := b (o + 1), byField := (b (o + 2)).testBit 0, qmask := b (o + 3) % 16, k1 := leAt im (o + 8) 8,
        k2 := leAt im (o + 16) 8 })
    proj := (List.range (b 8)).map (fun k => b (0x240 + 4 * k))
    truth := b 9
    terms := (List.range (b 10)).map (fun k => (leAt im (0x300 + 4 * k) 2, leAt im (0x302 + 4 * k) 2))
    table := (im.drop 0x400).take 8192
    qfMask := b 11, qfFields := leAt im 12 2, output := b 14
    prefix_ := if b 15 % 4 = 0 then 1 else if b 15 % 4 = 1 then 2 else 4
    inclusive := (b 15).testBit 2, maxLen := leAt im 16 4, seg := b 20, stype := b 21
    agg :=
      { field := b 0x280, src := b 0x281, group := b 0x282, time := b 0x283, accept := b 0x284, base := leAt im 0x288 8,
        width := leAt im 0x290 8, groupBase := leAt im 0x298 4, mergeMax := leAt im 0x29C 4 }
    keys := (List.range nkey).map (fun k => b (0x2A1 + k)) }

/-- The descriptor of a field. -/
def laneField (p : LaneProg) (k : Nat) : LField := (p.fields[k]?).getD { off := 0, ty := 255, len := 0 }

/-- Whether bytes [a, b) of an image are zero. -/
def zeroIn (im : List Byte) (a b : Nat) : Bool := ((im.drop a).take (b - a)).all (· == 0)

/-! ### The checks at load (R343) -/

/-- A field descriptor in use; in the Hatching form it misses the reserved bytes of the sample record, and a QS field at
offset 16 agrees with SAMPLE_TYPE. -/
def fieldOk (im : List Byte) (p : LaneProg) (k : Nat) : Bool :=
  let o := 0x40 + 8 * k
  let f := laneField p k
  let width := leAt im (o + 3) 1
  zeroIn im (o + 4) (o + 8)
    && (if f.ty = 13 then decide (1 ≤ width) && decide (width ≤ 16) else decide (f.ty ≤ 12) && width == 0)
    && (p.form != 2 ||
      ([6, 7, 21, 22, 23].all (fun r => !(decide (f.off ≤ r) && decide (r < f.off + f.len)))
        && !(isQs f.ty && f.off == 16 && f.ty - 10 != p.stype)))

/-- A comparison descriptor in use (R331, R332). -/
def cmpOk (im : List Byte) (p : LaneProg) (k : Nat) : Bool :=
  let o := 0xC0 + 24 * k
  match p.cmps[k]? with
  | none => false
  | some c =>
    let f := laneField p c.field
    let qm := leAt im (o + 3) 1
    let byQ := c.op == 9 || c.op == 10
    zeroIn im (o + 4) (o + 8) && decide (c.field < p.fields.length) && decide (c.op ≤ 10)
      && decide (leAt im (o + 2) 1 < 2)
      && (if isQs f.ty then byQ || (decide (0 < qm) && decide (qm < 16)) else qm == 0)
      && (c.op != 8 || isInt f.ty || f.ty == 10 || f.ty == 11)
      && (!byQ || (isQs f.ty && !c.byField))
      && (f.ty != 13 || (decide (c.op ≤ 7) && (decide (c.op < 6) || decide (f.len ≤ 8))))
      && (!c.byField || (decide (c.k1 < p.fields.length) && decide (c.k1 < 16)
        && (laneField p c.k1).ty == f.ty && (laneField p c.k1).len == f.len))

/-- The aggregation block (R336). -/
def aggOk (im : List Byte) (p : LaneProg) : Bool :=
  let a := p.agg
  let n := p.fields.length
  let aty := (laneField p a.field).ty
  let tty := (laneField p a.time).ty
  decide (a.field < n) && (aty == 2 || aty == 6 || aty == 8 || isQs aty)
    && decide (a.src ≤ 2) && (a.src != 1 || (decide (a.group < n) && isInt (laneField p a.group).ty))
    && (a.time == 255 || (decide (a.time < n) && (tty == 3 || tty == 7)
      && decide (1 ≤ (if tty = 7 then signedOf 64 a.width else (a.width : Int)))))
    && a.accept % 2 == 1 && decide (a.accept < 8) && zeroIn im 0x285 0x288
    && decide (1 ≤ a.mergeMax) && decide (a.mergeMax ≤ 1048576)

/-- The header's fields that depend on FORM (R328). -/
def formOk (im : List Byte) (p : LaneProg) : Bool :=
  let pfx := leAt im 15 1
  if p.form = 0 then
    decide (1 ≤ p.maxLen) && decide (p.maxLen ≤ 4096) && pfx == 0 && p.seg == 0 && p.stype == 0
  else if p.form = 1 then
    decide (pfx < 8) && pfx % 4 != 3 && decide (1 ≤ p.maxLen) && decide (p.maxLen ≤ 65536)
      && (p.seg == 0 || (decide (12 ≤ p.seg) && decide (p.seg ≤ 20))) && p.stype == 0
  else p.form == 2 && p.maxLen == 0 && pfx == 0 && p.seg == 0 && decide (p.stype ≤ 2)

/-- Whether an image is a lane program that passes the checks of R343. -/
def laneOk (im : List Byte) : Bool :=
  let b (i : Nat) : Nat := leAt im i 1
  let p := parseLane im
  let nf := b 6
  let nkey := b 0x2A0
  leAt im 0 4 == 0x31504C4B && b 4 == 1 && decide (b 9 ≤ 2) && im.length == (if b 9 = 1 then 9216 else 1024)
    && decide (nf ≤ 16) && decide (b 7 ≤ (if nkey = 0 then 16 else 15)) && decide (b 8 ≤ 16)
    && (if b 9 = 2 then decide (b 10 ≤ 64) else b 10 == 0)
    && decide (b 11 < 16) && decide (p.qfFields < 2 ^ nf) && decide (b 14 ≤ 1)
    && zeroIn im 22 64 && formOk im p && decide (nkey ≤ 4)
    && zeroIn im (0x40 + 8 * nf) 0xC0 && zeroIn im (0xC0 + 24 * b 7) 0x240 && zeroIn im (0x240 + 4 * b 8) 0x280
    && zeroIn im (0x2A1 + nkey) 0x300 && zeroIn im (0x300 + 4 * b 10) 0x400
    && (List.range nf).all (fieldOk im p) && (List.range (b 7)).all (cmpOk im p)
    && p.proj.all (fun s => decide (s < nf) || s == 16 || s == 17)
    && (List.range (b 8)).all (fun k => zeroIn im (0x241 + 4 * k) (0x244 + 4 * k))
    && p.terms.all (fun t => t.1 &&& t.2 == t.1)
    && p.keys.all (fun k => decide (k < nf)) && decide (p.keys.foldl (fun a k => a + (laneField p k).len) 0 ≤ 72)
    && (if b 14 = 1 then aggOk im p else zeroIn im 0x280 0x2A0)

/-! ### Field values (R318, R329, R330) -/

/-- The value of a field: an integer, an f64 pattern or bytes. -/
inductive LVal where
  | int (i : Int)
  | flt (bits : Nat)
  | bytes (l : List Byte)
deriving DecidableEq, Repr

/-- The f64 pattern of an f32 pattern; a NaN stays one. -/
def widen32 (x : Nat) : Nat := (f32.convert f64 x).getD 0x7FF8000000000000

/-- The bytes of a field, none where it lies beyond the end of the record (R330). -/
def rawField (f : LField) (rec : List Byte) : Option (List Byte) :=
  if rec.length < f.off + f.len then none else some ((rec.drop f.off).take f.len)

/-- The value of a field's bytes. -/
def valOf (f : LField) (raw : List Byte) : LVal :=
  let n := leNat (raw.take (if isQs f.ty then 4 else f.len))
  if f.ty = 13 then .bytes raw
  else if f.ty = 8 ∨ f.ty = 12 then .flt (widen32 n)
  else if f.ty = 9 then .flt n
  else if isSignedTy f.ty then .int (signedOf (if isQs f.ty then 32 else 8 * f.len) n)
  else .int (n : Int)

/-- The quality code of a QS field; an absent one has code Dh (R330). -/
def codeOf (raw : Option (List Byte)) : Nat :=
  match raw with
  | some r => ((r[4]?).getD 0).toNat % 16
  | none => 13

/-- A field's bytes as the lanes write them: a QS field with bits [7:4] of byte 4 zero, an absent field as zeros with
quality Dh (R318, R330). -/
def emitField (f : LField) (rec : List Byte) : List Byte :=
  match rawField f rec with
  | some r => if isQs f.ty then r.take 4 ++ [BitVec.ofNat 8 (codeOf (some r))] else r
  | none => if isQs f.ty then zeros 4 ++ [13] else zeros f.len

/-! ### Comparisons (R331, R332) -/

/-- A constant in a field's type. -/
def constOf (f : LField) (k : Nat) : LVal :=
  if isFloatTy f.ty then .flt k else if isSignedTy f.ty then .int (signedOf 64 k) else .int (k : Int)

/-- The bytes of a constant pair (K1 followed by K2) and of one constant. -/
def constBytes (a b : Nat) : List Byte := leBytes a 8 ++ leBytes b 8

/-- The order of two values of one type. -/
def lvalCmp : LVal → LVal → FpOrd
  | .int a, .int b => if a < b then .lt else if a = b then .eq else .gt
  | .flt a, .flt b => f64.cmp a b
  | .bytes a, .bytes b => if beNat a < beNat b then .lt else if beNat a = beNat b then .eq else .gt
  | _, _ => .unordered

/-- OP 00h to 07h on values: a comparison that involves a NaN yields 0, but NE yields 1. -/
def applyOp (op : Nat) (a x y : LVal) : Bool :=
  let c := lvalCmp a x
  let d := lvalCmp a y
  if op = 0 then c == .eq
  else if op = 1 then c != .eq
  else if op = 2 then c == .lt
  else if op = 3 then c == .lt || c == .eq
  else if op = 4 then c == .gt
  else if op = 5 then c == .gt || c == .eq
  else if c == .unordered || d == .unordered then false
  else if op = 6 then c != .lt && d != .gt
  else c == .lt || d == .gt

/-- MASKEQ: (a AND K2) = x on 64-bit patterns. -/
def maskEq (a x : LVal) (k2 : Nat) : Bool :=
  match a, x with
  | .int a, .int x => (bitsOf 64 a &&& k2) == bitsOf 64 x
  | _, _ => false

/-- The two bounds of a comparison of a field of `f` against constants. -/
def boundsOf (f : LField) (c : LCmp) : LVal × LVal :=
  if f.ty = 13 then
    if 6 ≤ c.op then (.bytes ((leBytes c.k1 8).take f.len), .bytes ((leBytes c.k2 8).take f.len))
    else (.bytes ((constBytes c.k1 c.k2).take f.len), .bytes [])
  else (constOf f c.k1, constOf f c.k2)

/-- The result of a comparison on a record. -/
def cmpRecord (p : LaneProg) (rec : List Byte) (c : LCmp) : Bool :=
  let f := laneField p c.field
  match rawField f rec with
  | none => false
  | some r =>
    let q := codeOf (some r)
    if c.op = 9 then (c.k1 % 16).testBit (qClass q)
    else if c.op = 10 then (c.k1 % 65536).testBit q
    else if isQs f.ty && !c.qmask.testBit (qClass q) then false
    else
      let a := valOf f r
      let k := boundsOf f c
      if c.byField then
        let g := laneField p (c.k1 % 16)
        match rawField g rec with
        | none => false
        | some b =>
          let y := if f.ty = 13 then LVal.bytes ((leBytes c.k2 8).take f.len) else k.2
          if c.op = 8 then maskEq a (valOf g b) c.k2 else applyOp c.op a (valOf g b) (if 6 ≤ c.op then y else valOf g b)
      else if c.op = 8 then maskEq a k.1 c.k2
      else applyOp c.op a k.1 (if 6 ≤ c.op then k.2 else k.1)

/-- The row index of a record, with bit 15 clear under NKEY (R333). -/
def rowIndex (p : LaneProg) (rec : List Byte) : Nat :=
  (p.cmps.zipIdx).foldl (fun a e => if cmpRecord p rec e.1 then a + 2 ^ e.2 else a) 0

/-- The predicate T (R333). -/
def truthOf (p : LaneProg) (c : Nat) : Bool :=
  if p.truth = 1 then (((p.table[c / 8]?).getD 0).toNat).testBit (c % 8)
  else if p.truth = 2 then p.terms.any (fun t => c &&& t.2 == t.1)
  else true

/-- The quality filter (R334). -/
def qualityOk (p : LaneProg) (rec : List Byte) : Bool :=
  (List.range 16).all (fun k =>
    !p.qfFields.testBit k ||
      (let f := laneField p k
       isQs f.ty && p.qfMask.testBit (qClass (codeOf (rawField f rec)))))

/-- The key of a record, none where a key field is absent (R340, R341). -/
def keyOf (p : LaneProg) (rec : List Byte) : Option (List Byte) :=
  if p.keys.any (fun k => (rawField (laneField p k) rec).isNone) then none
  else
    let bs := p.keys.foldl (fun a k => a ++ emitField (laneField p k) rec) []
    some (padTo (18 * Nat.max 1 (ceilDiv bs.length 18)) bs)

/-! ### Aggregation (R337) -/

/-- The value type of the aggregated field: 0 i32, 1 u32, 2 f32. -/
def aggType (p : LaneProg) : VType :=
  let ty := (laneField p p.agg.field).ty
  if ty = 6 ∨ ty = 10 then 0 else if ty = 2 ∨ ty = 11 then 1 else 2

/-- What the manual leaves open in an aggregation: the pattern of a NaN sum, and which of two equal f32 values MIN and MAX
keep (R338). -/
structure AggFree where
  nan  : Nat
  keep : Bool

/-- An addition to a SUM: i64, u64 or f64; whether it overflowed (R337). -/
def addSum (t : VType) (fr : AggFree) (a b : Int) : Int × Bool :=
  if t = 2 then (((f64.add a.toNat b.toNat).getD fr.nan : Nat), false)
  else
    let lo : Int := if t = 0 then -(2 ^ 63) else 0
    let hi : Int := if t = 0 then 2 ^ 63 - 1 else 2 ^ 64 - 1
    if hi < a + b then (hi, true) else if a + b < lo then (lo, true) else (a + b, false)

/-- The lesser and the greater of two values. -/
def minVal (t : VType) (fr : AggFree) (a b : Dword) : Dword :=
  if valKey t a < valKey t b then a else if valKey t b < valKey t a then b else if fr.keep then a else b
def maxVal (t : VType) (fr : AggFree) (a b : Dword) : Dword :=
  if valKey t b < valKey t a then a else if valKey t a < valKey t b then b else if fr.keep then a else b

/-- Two accumulators of one key combined (R337, R338). -/
def combine (t : VType) (fr : AggFree) (x y : Acc) : Acc :=
  let s := addSum t fr x.sum y.sum
  let w := Nat.max x.worst y.worst
  { bucket := x.bucket, count := x.count + y.count
    sum := if x.count = 0 then y.sum else if y.count = 0 then x.sum else s.1
    min := if x.count = 0 then y.min else if y.count = 0 then x.min else minVal t fr x.min y.min
    max := if x.count = 0 then y.max else if y.count = 0 then x.max else maxVal t fr x.max y.max
    worst := if x.count = 0 ∨ y.count = 0 then w else if s.2 then 2 else w }

/-- A sample as an accumulator of its own; a NaN counts for the class only. -/
def oneAcc (t : VType) (bucket q : Nat) (v : Dword) : Acc :=
  if t = 2 ∧ isNan v then { bucket := bucket, worst := 1 }
  else
    let sum : Int := if t = 0 then v.toInt else if t = 1 then (v.toNat : Int) else (widen32 v.toNat : Int)
    { bucket := bucket, count := 1, sum := sum, min := v, max := v, worst := q }

/-- The group of a survivor (R337). -/
def groupOf (p : LaneProg) (rec : List Byte) (hit : Option Nat) : Option Int :=
  if p.agg.src = 0 then some 0
  else if p.agg.src = 1 then
    let f := laneField p p.agg.group
    match (rawField f rec).map (valOf f) with
    | some (.int i) => some i
    | _ => none
  else hit.map (fun i => (i : Int) - p.agg.groupBase)

/-- The bucket of a survivor. -/
def bucketOf (p : LaneProg) (rec : List Byte) : Option Nat :=
  if p.agg.time = 255 then some 0
  else
    let f := laneField p p.agg.time
    let base : Int := if f.ty = 7 then signedOf 64 p.agg.base else p.agg.base
    let width : Int := if f.ty = 7 then signedOf 64 p.agg.width else p.agg.width
    match (rawField f rec).map (valOf f) with
    | some (.int t) => if t < base ∨ (2 ^ 32 - 1 : Int) < (t - base) / width then none else some ((t - base) / width).toNat
    | _ => none

/-- The sample of a survivor: its class and its value; good where the field is not of a QS type. -/
def sampleIn (p : LaneProg) (rec : List Byte) : Option (Nat × Dword) :=
  let f := laneField p p.agg.field
  match rawField f rec with
  | none => none
  | some r => some (if isQs f.ty then qClass (codeOf (some r)) else 0, dwordOf (leNat (r.take 4)))

/-! ### Running a piece -/

/-- What a lane needs to run a piece: the program, the searcher's tenant and plate, SKIP_EN, and the open values. -/
structure LaneCtx where
  p      : LaneProg
  tenant : Nat
  plate  : Option Nat
  skip   : Bool
  free   : AggFree
  bad    : List Nat

/-- The state of a lane within a piece: output so far (newest first), open accumulators by group, spills by key (newest
first), and the failure. -/
structure LaneRun where
  s      : State
  out    : List (List Byte)
  accs   : List (Nat × Acc)
  spills : List (Nat × Acc)
  err    : Option Status

/-- The key of a group and bucket in the merge table. -/
def mergeKey (g b : Nat) : Nat := g * 2 ^ 32 + b

/-- A survivor folded into its group's accumulator (R337). -/
def foldRecord (x : LaneCtx) (r : LaneRun) (rec : List Byte) (hit : Option Nat) : LaneRun :=
  match groupOf x.p rec hit, bucketOf x.p rec, sampleIn x.p rec with
  | some g, some b, some (q, v) =>
    if g < 0 ∨ 255 < g ∨ q = 3 ∨ x.p.agg.accept.testBit q = false then r
    else
      let t := aggType x.p
      let one := oneAcc t b q v
      match tabGet r.accs g.toNat with
      | none => { r with accs := tabPut r.accs g.toNat one }
      | some a =>
        if a.bucket = b then { r with accs := tabPut r.accs g.toNat (combine t x.free a one) }
        else { r with accs := tabPut r.accs g.toNat one, spills := (mergeKey g.toNat a.bucket, a) :: r.spills }
  | _, _, _ => r

/-- A lookup of a key: the full index of the match, and whether it failed under R385. -/
def laneLookup (x : LaneCtx) (s : State) (key : List Byte) : State × Option Nat × Bool :=
  match x.plate with
  | none => (s, none, false)
  | some pl =>
    let r := camLookup s x.tenant pl key { upsets := [], badWords := x.bad, dead := [] }
    (r.s, r.index, r.bad)

/-- The output record of a survivor (R335). -/
def project (p : LaneProg) (rec : List Byte) (hit : Option Nat) (src : Nat) : List Byte :=
  p.proj.foldl (fun a k =>
    a ++ (if k = 16 then leBytes (hit.getD 0xFFFFFFFF) 4 else if k = 17 then leBytes src 8 else emitField (laneField p k) rec)) []

/-- A record evaluated (R333 to R337, R341). `block` is the result of a lookup made once for its block. -/
def runRecord (x : LaneCtx) (r : LaneRun) (rec : List Byte) (src : Nat) (block : Option (Option Nat)) : LaneRun :=
  let p := x.p
  let c := rowIndex p rec
  let want := !p.keys.isEmpty && truthOf p (c + 32768)
  let got : State × Option Nat × Bool :=
    if !want then (r.s, none, false)
    else
      match block, keyOf p rec with
      | some h, _ => (r.s, h, false)
      | none, some k => laneLookup x r.s k
      | none, none => (r.s, none, false)
  let r1 := { r with s := got.1 }
  if got.2.2 then { r1 with err := some stEngineFault }
  else if truthOf p (if got.2.1.isSome then c + 32768 else c) && qualityOk p rec then
    if p.output = 1 then foldRecord x r1 rec got.2.1 else { r1 with out := project p rec got.2.1 src :: r1.out }
  else r1

/-! ### Records in the input (R320, R323, R324) -/

/-- What starts at an offset of the source: a record (bytes before its body, body, and all bytes to the next), padding, an
input that breaks the form, or the end. -/
inductive Unit1 where
  | one (pre body : Nat)
  | pad (n : Nat)
  | bad
deriving DecidableEq, Repr

/-- A length-prefixed unit at `off`, with `rest` from there to the end of the input. -/
def prefixedAt (p : LaneProg) (off : Nat) (rest : List Byte) : Unit1 :=
  let n := p.prefix_
  let left := rest.length
  let seg := if p.seg = 0 then left else 2 ^ p.seg - off % 2 ^ p.seg
  if p.seg ≠ 0 ∧ seg < n then (if zeroIn rest 0 seg then .pad seg else .bad)
  else if left < n then .bad
  else
    let v := leAt rest 0 n
    if v = 0 ∧ p.seg ≠ 0 then .pad seg
    else
      let body := if p.inclusive then v - n else v
      if (p.inclusive ∧ v < n) ∨ p.maxLen < body ∨ left < n + body ∨ seg < n + body then .bad else .one n body

/-- What starts at an offset, in the fixed-length and length-prefixed forms. -/
def unitAt (p : LaneProg) (off : Nat) (rest : List Byte) : Unit1 :=
  if p.form = 0 then (if rest.length < p.maxLen then .bad else .one 0 p.maxLen) else prefixedAt p off rest

/-- Bytes to the next span of 4,096 (R366). -/
def spanLeft (off : Nat) : Nat := 4096 - off % 4096

/-- The bytes of the record, block or padding that starts at an offset, by which the splitter finds the next boundary; none
where it cannot (R320). -/
def splitLen (p : LaneProg) (off : Nat) (rest : List Byte) : Option Nat :=
  if p.form = 2 then
    if rest.headD 0 = 0 then some (spanLeft off)
    else
      let l := leAt rest 6 2
      if l < 40 ∨ rest.length < l then none else some l
  else if p.seg ≠ 0 then some (2 ^ p.seg)
  else
    match unitAt p off rest with
    | .one a b => some (a + b)
    | .pad n => some n
    | .bad => none

/-- The offsets at which pieces start (R320), newest first; `k` is the number of the next piece. -/
def pieceStarts (p : LaneProg) : Nat → Nat → List Byte → Nat → List Nat → List Nat
  | 0, _, _, _, acc => acc
  | f + 1, off, rest, k, acc =>
    if rest.isEmpty then acc
    else
      let acc1 := if k * 1048576 ≤ off then off :: acc else acc
      let k1 := if k * 1048576 ≤ off then off / 1048576 + 1 else k
      match splitLen p off rest with
      | none => acc1
      | some n => pieceStarts p f (off + n) (rest.drop n) k1 acc1

/-- The pieces of an input: first byte and bytes. -/
def cutPieces (p : LaneProg) (inp : List Byte) : List (Nat × List Byte) :=
  let starts := pieceStarts p (inp.length + 1) 0 inp 0 []
  (starts.foldl (fun a o => ((o, (inp.drop o).take (a.2 - o)) :: a.1, o)) (([] : List (Nat × List Byte)), inp.length)).1

/-- Records of a piece one by one; the fuel bounds their number. -/
def runRecords (x : LaneCtx) : Nat → Nat → List Byte → LaneRun → LaneRun
  | 0, _, _, r => r
  | f + 1, off, rest, r =>
    if rest.isEmpty ∨ r.err.isSome then r
    else
      match unitAt x.p off rest with
      | .bad => { r with err := some stLengthMismatch, s := raise r.s evFln 2 }
      | .pad n => runRecords x f (off + n) (rest.drop n) r
      | .one a b => runRecords x f (off + a + b) (rest.drop (a + b)) (runRecord x r ((rest.drop a).take b) off none)

/-! ### Hatching blocks (R325, R326, R341, R344, R345) -/

/-- The sample record of a sample (R325). -/
def sampleRecord (h : HatchHead) (i : Nat) (w : W36) : List Byte :=
  leBytes h.tag.toNat 4 ++ leBytes i 2 ++ zeros 2 ++ leBytes (h.base + i * h.interval) 8 ++ sampleBytes w ++ zeros 3

/-- The four fields with fixed names (R325): 0 TAG, 1 INDEX, 2 TIME, 3 SAMPLE, 4 any other. -/
def namedField (f : LField) : Nat :=
  if f.off = 0 ∧ f.ty = 2 then 0
  else if f.off = 4 ∧ f.ty = 1 then 1
  else if f.off = 8 ∧ f.ty = 3 then 2
  else if f.off = 16 ∧ isQs f.ty then 3
  else 4

/-- What a range [a, b] of values decides of a comparison against constants, OP 00h to 07h; none where it decides nothing. -/
def rangeDecides (op : Nat) (a b x y : LVal) : Option Bool :=
  let ltA := lvalCmp a x
  let ltB := lvalCmp b x
  if lvalCmp a b == .unordered || ltA == .unordered || (6 ≤ op && lvalCmp a y == .unordered) then none
  else if op = 0 ∨ op = 1 then
    let r : Option Bool :=
      if ltA == .eq && ltB == .eq then some true else if ltA == .gt || ltB == .lt then some false else none
    if op = 0 then r else r.map (!·)
  else if op ≤ 5 then
    if applyOp op a x x && applyOp op b x x then some true
    else if !applyOp op a x x && !applyOp op b x x then some false
    else none
  else
    let inside := ltA != .lt && lvalCmp b y != .gt
    let outside := ltB == .lt || lvalCmp a y == .gt || lvalCmp x y == .gt
    if op = 6 then (if inside then some true else if outside then some false else none)
    else (if inside then some false else if outside then some true else none)

/-- The codes that samples of a class can have in a block: 3h and Fh never occur (R367). -/
def codesOf (c : Nat) : Nat := if c = 0 then 7 else if c = 3 then 7 * 4096 else 15 * 2 ^ (4 * c)

/-- What a block's summary decides of a comparison (R344, R353). -/
def summaryDecides (p : LaneProg) (h : HatchHead) (c : LCmp) : Option Bool :=
  let f := laneField p c.field
  let k := boundsOf f c
  let n := namedField f
  let i (x : Nat) : LVal := .int (x : Int)
  if c.byField then none
  else if n = 0 then
    some (if c.op = 8 then maskEq (i h.tag.toNat) k.1 c.k2 else applyOp c.op (i h.tag.toNat) k.1 (if 6 ≤ c.op then k.2 else k.1))
  else if n = 1 ∧ c.op ≤ 7 then rangeDecides c.op (i 0) (i (h.count - 1)) k.1 k.2
  else if n = 2 ∧ c.op ≤ 7 then rangeDecides c.op (i h.base) (i (h.base + (h.count - 1) * h.interval)) k.1 k.2
  else if n = 3 ∧ c.op = 9 then
    if h.qsum &&& (c.k1 % 16) = h.qsum then some true else if h.qsum &&& (c.k1 % 16) = 0 then some false else none
  else if n = 3 ∧ c.op = 10 then
    let codes := (List.range 4).foldl (fun a q => if h.qsum.testBit q then a + codesOf q else a) 0
    if codes &&& c.k1 = codes then some true else if codes &&& c.k1 = 0 then some false else none
  else if n = 3 ∧ c.op ≤ 7 then
    let v (d : Dword) : LVal := valOf f (leBytes d.toNat 4)
    if c.qmask &&& h.qsum = 0 then some false
    else if h.nan || h.qsum % 4 == 0 || (c.qmask &&& h.qsum) / 4 ≠ 0 then none
    else
      match rangeDecides c.op (v h.min) (v h.max) k.1 k.2 with
      | some true => if h.qsum &&& c.qmask = h.qsum then some true else none
      | r => r
  else none

/-- Whether T is 1 for some row index that agrees with the known bits (mask and value) (R341, R345). -/
def possible (p : LaneProg) (mask value : Nat) : Bool :=
  if p.truth = 0 then true
  else if p.truth = 2 then p.terms.any (fun t => (t.1 ^^^ value) &&& t.2 &&& mask == 0)
  else (List.range 65536).any (fun c => c &&& mask == value && truthOf p c)

/-- The bits of the row index that a block settles, as mask and value; bits from NCMP up are 0, bit 15 under NKEY apart. -/
def knownBits (p : LaneProg) (h : HatchHead) : Nat × Nat :=
  (List.range (if p.keys.isEmpty then 16 else 15)).foldl (fun a i =>
    match p.cmps[i]? with
    | none => (a.1 + 2 ^ i, a.2)
    | some c =>
      match summaryDecides p h c with
      | none => a
      | some b => (a.1 + 2 ^ i, if b then a.2 + 2 ^ i else a.2)) (0, 0)

/-- Whether every key field is the TAG field: the lane looks up once per block (R341). -/
def tagKeyed (p : LaneProg) : Bool := !p.keys.isEmpty && p.keys.all (fun k => namedField (laneField p k) == 0)

/-- Whether the quality filter alone rules a block out (R345). -/
def filterSkips (p : LaneProg) (h : HatchHead) : Bool :=
  (List.range 16).any (fun k => p.qfFields.testBit k && namedField (laneField p k) == 3) && h.qsum &&& p.qfMask == 0

/-- The status of a decode error (R367). -/
def codecStatus : CodecErr → Status
  | .illegal => stIllegalCode
  | .distance => stDistance
  | .overrun => stOverrun
  | .check => stCheckValue
  | .length => stLengthMismatch

/-- The samples of a block that is not skipped. -/
def runSamples (x : LaneCtx) (h : HatchHead) (src : Nat) (block : Option (Option Nat)) (ws : List W36) (r : LaneRun) : LaneRun :=
  ws.zipIdx.foldl (fun r e => if r.err.isSome then r else runRecord x r (sampleRecord h e.2 e.1) src block) r

/-- One block: its lookup, the decision to skip it, or its samples (R326, R341, R345). -/
def runBlock (x : LaneCtx) (off : Nat) (rest : List Byte) (h : HatchHead) (r : LaneRun) : LaneRun :=
  let p := x.p
  if h.vtype ≠ p.stype then { r with err := some stIllegalCode, s := raise r.s evFln 1 }
  else
    let kn := knownBits p h
    let tagged := tagKeyed p
    let look := tagged && possible p (kn.1 + 32768) (kn.2 + 32768)
    let key := padTo (18 * Nat.max 1 (ceilDiv (4 * p.keys.length) 18))
      (p.keys.foldl (fun a _ => a ++ leBytes h.tag.toNat 4) [])
    let got : State × Option Nat × Bool := if look then laneLookup x r.s key else (r.s, none, false)
    let r1 := { r with s := got.1 }
    let noHit := tagged && got.2.1.isNone
    let mask := if noHit then kn.1 + 32768 else kn.1
    if got.2.2 then { r1 with err := some stEngineFault }
    else if x.skip && (!possible p mask kn.2 || filterSkips p h) then r1
    else
      match hatchDecode rest with
      | .error e => { r1 with err := some (codecStatus e) }
      | .ok ws => runSamples x h off (if tagged then some got.2.1 else none) ws r1

/-- Blocks of a piece one by one. -/
def runBlocks (x : LaneCtx) : Nat → Nat → List Byte → LaneRun → LaneRun
  | 0, _, _, r => r
  | f + 1, off, rest, r =>
    if rest.isEmpty ∨ r.err.isSome then r
    else if rest.headD 0 = 0 then runBlocks x f (off + spanLeft off) (rest.drop (spanLeft off)) r
    else
      match hatchPeek rest with
      | .error e => { r with err := some (codecStatus e) }
      | .ok h => runBlocks x f (off + h.length) (rest.drop h.length) (runBlock x off rest h r)

/-- A piece run to its end: its output in order, and its spills with those of its open accumulators (R321, R337). -/
def runPiece (x : LaneCtx) (s : State) (base : Nat) (bytes : List Byte) : LaneRun :=
  let r0 : LaneRun := { s := s, out := [], accs := [], spills := [], err := none }
  let r := if x.p.form = 2 then runBlocks x (bytes.length + 1) base bytes r0 else runRecords x (bytes.length + 1) base bytes r0
  { r with out := r.out.reverse, accs := []
           spills := r.spills.reverse ++ r.accs.map (fun e => (mergeKey e.1 e.2.bucket, e.2)) }

/-! ### The merger (R338, R339) -/

/-- The spills of one key combined in an order that nothing constrains (log 10). -/
def mergeAll (t : VType) (fr : AggFree) (seed : Nat) : Nat → Acc → List Acc → Acc
  | 0, a, _ => a
  | n + 1, a, l =>
    match l[Config.mergeOrder (seed + n) % l.length]? with
    | none => a
    | some y => mergeAll t fr seed n (combine t fr a y) (l.eraseIdx (Config.mergeOrder (seed + n) % l.length))

/-- The aggregate record of a key; one with COUNT 0 emits nothing. -/
def aggRecord (t : VType) (fr : AggFree) (seed : Nat) (e : Nat × List Acc) : List Byte :=
  let a := mergeAll t fr seed e.2.length {} e.2
  if a.count = 0 then []
  else
    [BitVec.ofNat 8 (e.1 / 2 ^ 32), (if a.worst = 0 then 2 else if a.worst = 1 then 7 else 11), 0, 0]
      ++ leBytes (e.1 % 2 ^ 32) 4 ++ leBytes a.count 8 ++ leBytes (bitsOf 64 a.sum) 8 ++ leBytes a.min.toNat 4
      ++ leBytes a.max.toNat 4

/-- The merger's output: one record per key, by GROUP and then by BUCKET. -/
def emitTable (t : VType) (fr : AggFree) (seed : Nat) (table : List (Nat × List Acc)) : List Byte :=
  (table.map (aggRecord t fr seed)).foldl (· ++ ·) []

/-- The open values of an aggregation at a moment. -/
def aggFreeNow (s : State) : AggFree :=
  { nan := (0x7FF8000000000000 ||| ((freeNow s).toNat &&& 0x8007FFFFFFFFFFFF)), keep := (freeNow s).getLsbD 63 }

end Sys2Proof.Machine
end

