-- ==== Sys2Proof/Machine/Regions.lean ====
section
/-! DEFINITION. The region table of the Hedgerow (R512 to R516) and the quotas of R510. A space is 0 for DRAM, in units
of 4 KiB, and 8 + i for the cluster memory of Sward island i, in units of 64 words. -/

namespace Sys2Proof.Machine

/-- TNT_EVENT.DENIED (R513) and TNT_EVENT.QUOTA (R510). -/
def denied (s : State) : State := raise s evTnt 0
def quotaEvent (s : State) : State := raise s evTnt 4

/-- Units of a space: the DRAM in use (R528), or 1 Mi words of cluster memory. -/
def spaceUnits (s : State) (sp : Nat) : Nat := if sp = 0 then dramBytes s / 4096 else 16384

/-- Insertion of an interval by its base. -/
def insertSpan (x : Nat × Nat) : List (Nat × Nat) → List (Nat × Nat)
  | [] => [x]
  | y :: ys => if x.1 ≤ y.1 then x :: y :: ys else y :: insertSpan x ys

/-- The used spans (first, last unit) of a space, rising. -/
def usedSpans (s : State) (sp : Nat) : List (Nat × Nat) :=
  ((s.tenants.regions.filter (fun r => r.2.space == sp)).map (fun r => (r.2.base, r.2.last))).foldr insertSpan []

/-- The lowest place of `n` free units from `lo` below `stop`, given the used spans (log 17). -/
def findRun (n stop : Nat) : Nat → List (Nat × Nat) → Option Nat
  | lo, [] => if lo + n ≤ stop then some lo else none
  | lo, (a, b) :: t => if lo + n ≤ a then some lo else findRun n stop (Nat.max lo (b + 1)) t

/-- A place for `n` units in a space. -/
def placeRegion (s : State) (sp n : Nat) : Option Nat := findRun n (spaceUnits s sp) 0 (usedSpans s sp)

/-- The lowest free device entry, 1,024 to 8,191 (R512). -/
def freeEntry (s : State) : Option Nat :=
  (List.range' 1024 7168).find? (fun i => (tabGet s.tenants.regions i).isNone)

/-- The words or bytes of a span of a space set to zero (R514). -/
def zeroSpan (s : State) (sp base n : Nat) : State :=
  if sp = 0 then { s with drc := { s.drc with dram := memClear s.drc.dram (base * 4096) (n * 4096) } }
  else
    let a := (sp - 8) * 2 ^ 20 + base * 64
    { s with sch := { s.sch with cluster := s.sch.cluster.filter (fun e => e.1 < a || a + n * 64 ≤ e.1) } }

/-- A region zeroed and enabled at an entry (R514, R515). -/
def enableRegion (s : State) (i : Nat) (r : Region) : State :=
  let s1 := zeroSpan s r.space r.base (r.last + 1 - r.base)
  { s1 with tenants := { s1.tenants with regions := tabPut s1.tenants.regions i r } }

/-- A device region of `n` units for a tenant with its rights; none where no entry or no room is free. -/
def allocRegion (s : State) (sp n tenant : Nat) (r w x : Bool) : Option (State × Nat) :=
  match freeEntry s, placeRegion s sp n with
  | some i, some b =>
    if n = 0 then none
    else some (enableRegion s i { base := b, last := b + n - 1, tenant := tenant, read := r, write := w, exec := x,
                                  space := sp, named := false }, i)
  | _, _ => none

/-- A region disabled and zeroed (R514). -/
def freeRegion (s : State) (i : Nat) : State :=
  match tabGet s.tenants.regions i with
  | none => s
  | some r =>
    let s1 := zeroSpan s r.space r.base (r.last + 1 - r.base)
    { s1 with tenants := { s1.tenants with regions := tabDel s1.tenants.regions i } }

/-- Several regions freed. -/
def freeRegions (s : State) (is : List Nat) : State := is.foldl freeRegion s

/-- The base unit of a region. -/
def regionBase (s : State) (i : Nat) : Nat := ((tabGet s.tenants.regions i).map (·.base)).getD 0

/-- Bytes that a tenant's regions count against DRAM_MIB (R512). -/
def tenantDram (s : State) (t : Nat) : Nat :=
  s.tenants.regions.foldl (fun a e =>
    if e.2.tenant = t then a + (e.2.last + 1 - e.2.base) * (if e.2.space = 0 then 4096 else 512) else a) 0

/-- Whether `n` more bytes stay within a tenant's DRAM_MIB (R510). -/
def dramFits (s : State) (t n : Nat) : Bool := decide (tenantDram s t + n ≤ (tenantAt s t).dramMib * 1048576)

/-- The rights that an access may need (R512). -/
inductive Right where
  | read | write | exec
deriving DecidableEq, Repr

/-- Whether a region gives a right. -/
def hasRight (r : Region) : Right → Bool
  | .read => r.read
  | .write => r.write
  | .exec => r.exec

/-- Whether an access of units `a` to `b` lies wholly within one enabled entry of the tenant with the right (R513);
accesses with tag 0 are not checked. -/
def accessOk (s : State) (tenant sp a b : Nat) (x : Right) : Bool :=
  tenant == 0 ||
  s.tenants.regions.any (fun e => e.2.space == sp && e.2.tenant == tenant && hasRight e.2 x && decide (e.2.base ≤ a) && decide (b ≤ e.2.last))

/-- 4 KiB units for a number of bytes. -/
def dramUnits (bytes : Nat) : Nat := ceilDiv bytes 4096

/-- Regions of DRAM for a list of sizes in bytes, all or none; a size of 0 needs none. -/
def allocDram (s : State) (tenant : Nat) : List Nat → Option (State × List Nat)
  | [] => some (s, [])
  | n :: t =>
    if n = 0 then allocDram s tenant t
    else
      match allocRegion s 0 (dramUnits n) tenant true true false with
      | none => none
      | some (s1, i) =>
        match allocDram s1 tenant t with
        | none => none
        | some (s2, is) => some (s2, i :: is)

end Sys2Proof.Machine
end

