-- ==== Sys2Proof/Machine/Digest.lean ====
section
/-! DEFINITION. The digest engine (R424 to R434): messages of paths, threads, stages and privileged units, the general
units that hash them, results, the Proof unit. -/

namespace Sys2Proof.Machine

/-! ### Tables keyed by an owner -/

/-- The entry of an owner, the table with it set, and the table without it. -/
def ownGet {α : Type} (l : List (DgsOwner × α)) (o : DgsOwner) : Option α := (l.find? (fun e => e.1 == o)).map (·.2)
def ownPut {α : Type} (l : List (DgsOwner × α)) (o : DgsOwner) (v : α) : List (DgsOwner × α) :=
  if l.any (fun e => e.1 == o) then l.map (fun e => if e.1 == o then (o, v) else e) else l ++ [(o, v)]
def ownDel {α : Type} (l : List (DgsOwner × α)) (o : DgsOwner) : List (DgsOwner × α) := l.filter (fun e => e.1 != o)

/-- The message of an owner, and the state with it set. -/
def msgOf (s : State) (o : DgsOwner) : Option Msg := ownGet s.cry.msgs o
def setMsg (s : State) (o : DgsOwner) (m : Msg) : State := { s with cry := { s.cry with msgs := ownPut s.cry.msgs o m } }
def updMsg (s : State) (o : DgsOwner) (g : Msg → Msg) : State :=
  match msgOf s o with
  | some m => setMsg s o (g m)
  | none => s

/-- The Proof verdict of an owner, and the 64 expected bytes (R430, R431). -/
def verdictOf (s : State) (o : DgsOwner) : Nat := (ownGet s.cry.verdicts o).getD 0
def expectOf (s : State) (o : DgsOwner) : List Byte := (ownGet s.cry.expect o).getD (zeros 64)
def setExpect (s : State) (o : DgsOwner) (b : List Byte) : State :=
  { s with cry := { s.cry with expect := ownPut s.cry.expect o b } }

/-! ### General units (R424, R433) -/

/-- Whether the owner's messages run on general units; a privileged unit's run on that unit (R434). -/
def onGeneral : DgsOwner → Bool
  | .unit _ => false
  | _ => true

/-- The general units that no message holds. -/
def freeDgs (s : State) : List Nat :=
  (usableUnits s .dgs 0).filter (fun u => !s.cry.msgs.any (fun e => e.2.unit == some u && onGeneral e.1))

/-- The message that has waited longest among those that the slot in progress serves (R433, R521). -/
def oldestWaiter (s : State) : Option (DgsOwner × Msg) :=
  s.cry.msgs.foldl (fun a e =>
    if e.2.waiting && servesFor s e.2.tenant 300 then
      match a with
      | none => some e
      | some b => if e.2.order < b.2.order then some e else a
    else a) none

/-- Waiting messages take free units, oldest first; a saved one waits for its restore (R433). -/
def settleDgs (s : State) : Nat → State
  | 0 => s
  | n + 1 =>
    match freeDgs s, oldestWaiter s with
    | u :: _, some (o, m) =>
      if m.saved then s
      else settleDgs (setMsg s o { m with waiting := false, unit := some u, since := now s }) n
    | _, _ => s

/-- Every free unit offered. -/
def fillDgs (s : State) : State := settleDgs s 33

/-- A message closed: its unit and its context area are free (R427, R432, R517). -/
def closeMsg (s : State) (o : DgsOwner) : State :=
  let s1 := match (msgOf s o).bind (·.region) with
    | some r => freeRegion s r
    | none => s
  fillDgs { s1 with cry := { s1.cry with msgs := ownDel s1.cry.msgs o } }

/-- An owner gone: its message, its verdict, its EARLY and its expected bytes. -/
def dropOwner (s : State) (o : DgsOwner) : State :=
  let c := s.cry
  closeMsg { s with cry := { c with verdicts := ownDel c.verdicts o, expect := ownDel c.expect o, early := c.early.erase o } } o

/-- A message opened by START: it abandons an open one and takes a free unit or waits (R426, R433). A verdict of a Proof
message starts at none (R431). -/
def openMsg (s : State) (o : DgsOwner) (alg dest : BitVec 2) (tenant : Nat) (bytes : List Byte) : State :=
  let s1 := closeMsg s o
  let k := s1.cry.msgOrder
  let m : Msg :=
    { alg := alg, dest := dest, bytes := bytes, tenant := tenant, opened := true, finished := false, done := false,
      waiting := onGeneral o, saved := false, unit := none, since := now s, order := k, ctxErr := false,
      lenErr := false, result := [] }
  let s2 := { s1 with cry := { s1.cry with msgOrder := k + 1, msgs := ownPut s1.cry.msgs o m, early := s1.cry.early.erase o } }
  let s3 := if dest = 1 then { s2 with cry := { s2.cry with verdicts := ownPut s2.cry.verdicts o 0 } } else s2
  fillDgs s3

/-- The bytes of a message in progress extended. -/
def feedMsg (s : State) (o : DgsOwner) (bs : List Byte) : State :=
  updMsg s o (fun m => if m.finished then m else { m with bytes := m.bytes ++ bs })

/-- FINISH: the last `drop` bytes of the latest dword do not count (TAIL, R425). -/
def finishMsg (s : State) (o : DgsOwner) (drop : Nat) : State :=
  updMsg s o (fun m => if m.finished then m else { m with finished := true, bytes := m.bytes.take (m.bytes.length - drop) })

/-- The bytes of a result: zeros where the message is too long (R425). -/
def resultOf (m : Msg) : List Byte :=
  let d := digestOf m.alg m.bytes
  if 2 ^ 61 ≤ m.bytes.length then zeros d.length else d

/-- The verdict of a comparison; a fault gives a value that is neither of the two nor zero (R431). -/
def verdictValue (s : State) (equal fault : Bool) : Nat :=
  if fault then
    let v := natFld (freeNow s).toNat 0 16
    if v = 0 ∨ v = 0x5AA5 ∨ v = 0xA55A then Nat.xor v 1 else v
  else if equal then 0x5AA5 else 0xA55A

/-- The Proof unit compares a result with the expected value, reports the verdict and zeroes the expected value (R430). -/
def proofCompare (s : State) (o : DgsOwner) (result : List Byte) (fault : Bool) : State :=
  let v := verdictValue s ((expectOf s o).take result.length == result) fault
  let s1 := if fault then takeFree (raise s evCry 5) else s
  setExpect { s1 with cry := { s1.cry with verdicts := ownPut s1.cry.verdicts o v } } o (zeros 64)

/-- The last block of a finished message is hashed: the result goes to the registers or the Proof unit (R427, R430). -/
def doneMsg (s : State) (o : DgsOwner) (m : Msg) (fault : Bool) : State :=
  let r := resultOf m
  let m1 := { m with done := true, unit := none, waiting := false, lenErr := decide (2 ^ 61 ≤ m.bytes.length)
                     result := if m.dest = 1 then [] else r }
  let s1 := setMsg s o m1
  fillDgs (if m.dest = 1 then proofCompare s1 o r fault else s1)

/-- The CRY_DGS_STATUS value of an owner; EARLY is kept from START to START (R428). -/
def dgsStatus (s : State) (o : DgsOwner) : Nat :=
  8 * bitNat (s.cry.early.contains o) +
    match msgOf s o with
    | none => 0
    | some m => bitNat m.opened + 2 * bitNat m.waiting + 4 * bitNat m.done + 16 * bitNat m.ctxErr + 32 * bitNat m.lenErr

/-- Four result bytes of an owner as a dword (R427): zero before DONE and beyond the result's length. -/
def resultDword (s : State) (o : DgsOwner) (k : Nat) : Dword :=
  match msgOf s o with
  | some m => if m.done then dwordOf (leNat (sliceOf m.result (4 * k) 4)) else 0
  | none => 0

/-- A result read too early (R428). -/
def readEarly (s : State) (o : DgsOwner) : State :=
  let l := s.cry.early
  raise { s with cry := { s.cry with early := if l.contains o then l else l ++ [o] } } evCry 4

/-- Whether an owner's result is final. -/
def isDone (s : State) (o : DgsOwner) : Bool := ((msgOf s o).map (·.done)).getD false

/-- CRY_DGS_CFG.SLICE_US. -/
def dgsSlice (s : State) : Nat := regFld s 0x1A00008 0 16

/-- The message that has held a general unit longest (R433). -/
def longestHolder (s : State) : Option (DgsOwner × Msg) :=
  s.cry.msgs.foldl (fun a e =>
    if e.2.unit.isSome && onGeneral e.1 then
      match a with
      | none => some e
      | some b => if e.2.since < b.2.since then some e else a
    else a) none

/-- A message saved to its context area: it waits for a unit again (R432, R433). -/
def saveMsg (s : State) (o : DgsOwner) (m : Msg) : State :=
  let k := s.cry.msgOrder
  let s1 := { s with cry := { s.cry with msgOrder := k + 1 } }
  setMsg s1 o { m with unit := none, waiting := true, saved := true, order := k }

/-! ### The register port (R426 to R428) -/

/-- START on a register port; a reserved ALG or DEST starts nothing (log 35). The message's context area is allocated then, and
counts for its tenant (R432). -/
def portStart (s : State) (o : DgsOwner) (alg dest : BitVec 2) (tenant : Nat) : State :=
  if alg = 3 ∨ 2 ≤ dest.toNat then s
  else
    let s1 := openMsg s o alg dest tenant []
    match if tenant = 0 then none else allocDram s1 tenant [384] with
    | some (s2, r :: _) => updMsg s2 o (fun m => { m with region := some r })
    | _ => s1

/-- FINISH on a register port: TAIL is the number of valid bytes in the last dword, 00b meaning 4. -/
def portFinish (s : State) (o : DgsOwner) (tail : BitVec 2) : State :=
  finishMsg s o (if tail = 0 then 0 else 4 - tail.toNat)

/-- START writes CRY_DGS_CTL of a path. -/
def execDigestStart (p : Path) (alg dest : BitVec 2) (s : State) : Out :=
  .next (portStart s (.path p) alg dest (pathTenant p))

/-- A dword written to CRY_DGS_DATA feeds the path's open message. -/
def execDigestDataWrite (p : Path) (v : Dword) (s : State) : Out :=
  .next (feedMsg s (.path p) (leBytes v.toNat 4))

/-- FINISH closes the input of the path's message (R425). -/
def execDigestFinish (p : Path) (tail : BitVec 2) (s : State) : Out := .next (portFinish s (.path p) tail)

/-- ABANDON closes the path's message; its result is gone and its unit free (R427). -/
def execDigestAbandon (p : Path) (s : State) : Out := .next (closeMsg s (.path p))

/-- The last block of a message is hashed (R427, R430): it must be finished and hold a unit. -/
def execDigestDone (o : DgsOwner) (proofFault : Bool) (s : State) : Out :=
  .next <|
    match msgOf s o with
    | some m =>
      if m.finished && !m.done && (m.unit.isSome || !onGeneral o) && !m.ctxErr then doneMsg s o m proofFault else s
    | none => s

/-- The longest-held general unit, held for SLICE_US or more, is preempted for a waiting message (R433). -/
def execDigestPreempt (s : State) : Out :=
  .next <|
    match longestHolder s, oldestWaiter s with
    | some (o, m), some _ =>
      if (freeDgs s).isEmpty && dgsSlice s ≠ 0 && decide (m.since + dgsSlice s * usTicks ≤ now s) then
        fillDgs (saveMsg s o m)
      else s
    | _, _ => s

/-- A read of a result register of a path before DONE returns 0 and sets EARLY (R428). -/
def execResultEarlyRead (p : Path) (_k : Nat) (s : State) : Out :=
  .next (if isDone s (.path p) then s else readEarly (answerRead s p 0) (.path p))

/-- A saved message is restored on a free unit; a bad CRC or tag fails it (R433). A stage that fails so fails with 8Dh at
its end. -/
def execDigestRestore (ok : Bool) (s : State) : Out :=
  .next <|
    match freeDgs s, oldestWaiter s with
    | u :: _, some (o, m) =>
      if !m.saved then s
      else if ok then fillDgs (setMsg s o { m with waiting := false, saved := false, unit := some u, since := now s })
      else fillDgs (raise (setMsg s o { m with waiting := false, saved := false, ctxErr := true }) evCry 6)
    | _, _ => s

end Sys2Proof.Machine
end

