-- ==== Sys2Proof/Machine/Sched.lean ====
section
/-! DEFINITION. The thread scheduler's shared operations: descriptors, ready queues, dispatch, preemption (R478 to
R495), core time (R489), Furrow flows (R496 to R498). A core is numbered island × 8 + core. -/

namespace Sys2Proof.Machine

/-- Descriptor states (R482). -/
def dsFree : BitVec 4 := 0
def dsReady : BitVec 4 := 1
def dsRunning : BitVec 4 := 2
def dsSleeping : BitVec 4 := 3
def dsBlocked : BitVec 4 := 4
def dsHalted : BitVec 4 := 5

/-- A descriptor, a core, and the state with one changed. -/
def descAt (s : State) (d : Nat) : Desc := tabAt {} s.sch.descs d
def updDesc (s : State) (d : Nat) (g : Desc → Desc) : State :=
  { s with sch := { s.sch with descs := tabUpd {} s.sch.descs d g } }
def coreAt (s : State) (c : Nat) : Core := tabAt {} s.sch.cores c
def updCore (s : State) (c : Nat) (g : Core → Core) : State :=
  { s with sch := { s.sch with cores := tabUpd {} s.sch.cores c g } }

/-- A thread that waits for something (R487), since now unless it does already. -/
def waitFor (s : State) (d n : Nat) : State :=
  updDesc s d (fun x => { x with wait := n, waitAt := if x.wait = 0 then now s else x.waitAt })

/-- Descriptors for supervisor threads: 64 × FW_DESC, applied within 1 to 255 (R478). -/
def fwDescs (s : State) : Nat := 64 * within 1 255 (regFld s 0x1C0000C 24 8)

/-- Firmware flows: 16 × FW_FLOWS, applied within 1 to 255. -/
def fwFlows (s : State) : Nat := 16 * within 1 255 (regFld s 0x1C0000C 16 8)

/-- SCH_CFG within its bounds. -/
def affinityDepth (s : State) : Nat := within 1 15 (regFld s 0x1C00008 0 4)
def skipMax (s : State) : Nat := regFld s 0x1C00008 8 4
def sliceUs (s : State) : Nat := within 10 10000 (regFld s 0x1C00008 16 16)

/-- A SCH_EVENT bit set; one that SCH_EVENT_EN enables raises interrupt 11h (R495). -/
def schEvent (s : State) (bit : Nat) : State :=
  let s1 := raise s evSch bit
  if (regFld s 0x1C00034 0 7).testBit bit && !((rsqAt s evSch).bits.any (fun e => e.1 == bit)) then
    { s1 with sch := { s1.sch with sched11 := true } }
  else s1

/-- Sward islands that run: all in PS0 and PS1, 0 to 3 in PS2 (log 28), 0 in PS3, none in PS4 (R15). -/
def swardCount (p : Nat) : Nat := if p ≤ 1 then 8 else if p = 2 then 4 else if p = 3 then 1 else 0
def swardRuns (s : State) (i : Nat) : Bool := i < swardCount s.power.pstate

/-- Whether a core may take a thread. -/
def coreOk (s : State) (c : Nat) : Bool := !(coreAt s c).failed && swardRuns s (c / 8)

/-- The cores of an island that may take a thread. -/
def coresOf (s : State) (i : Nat) : List Nat := (List.range' (i * 8) 8).filter (coreOk s)

/-- A ready queue, and the state with one changed. -/
def queueKey (i p : Nat) : Nat := i * 64 + p
def queueAt (s : State) (k : Nat) : List Nat := tabAt [] s.sch.queues k
def setQueue (s : State) (k : Nat) (q : List Nat) : State :=
  { s with sch := { s.sch with queues := tabSet [] s.sch.queues k q } }

/-- Whether a thread may be dispatched in the slot in progress (R494). -/
def mayDispatch (s : State) (d : Nat) : Bool := (descAt s d).sup || servesFor s (descAt s d).tenant 100

/-- The threads of a ready queue that may be dispatched. -/
def readyIn (s : State) (i p : Nat) : List Nat := (queueAt s (queueKey i p)).filter (mayDispatch s)

/-- The strongest priority of an island with a thread to dispatch. -/
def strongest (s : State) (i : Nat) : Option Nat := (List.range 64).find? (fun p => !(readyIn s i p).isEmpty)

/-- The thread that R484 dispatches to a core, if the core is free. -/
def chosen (s : State) (c : Nat) : Option Nat :=
  match strongest s (c / 8) with
  | none => none
  | some p =>
    match readyIn s (c / 8) p with
    | [] => none
    | h :: t =>
      if skipMax s ≤ tabAt 0 s.sch.skips h then some h
      else some ((((h :: t).take (affinityDepth s)).find? (fun d => (descAt s d).lastCore == some c)).getD h)

/-- A thread taken out of its ready queue, with the count of the passes over it as a head. -/
def dequeue (s : State) (d : Nat) : State :=
  let k := queueKey (descAt s d).island (descAt s d).prio.toNat
  let s1 := setQueue s k ((queueAt s k).erase d)
  { s1 with sch := { s1.sch with skips := tabDel s1.sch.skips d } }

/-- A thread dispatched to a core (R482, R484): FL.S takes the descriptor's mode. A head passed over counts. -/
def dispatchTo (s : State) (c d : Nat) : State :=
  let s1 := dequeue s d
  let s2 :=
    match (readyIn s (descAt s d).island (descAt s d).prio.toNat).head? with
    | some h => if h = d then s1 else { s1 with sch := { s1.sch with skips := tabUpd 0 s1.sch.skips h (· + 1) } }
    | none => s1
  let s3 := updDesc s2 d (fun x =>
    { x with st := dsRunning, lastCore := some c,
             fl := (x.fl &&& ~~~(0x100 : W36)) ||| (if x.sup then 0x100 else 0) })
  updCore s3 c (fun x => { x with run := some d, since := now s, pend := false })

/-- The free cores of an island take threads, the lower-numbered first (R484). -/
def dispatchIsland (s : State) (i : Nat) : State :=
  (coresOf s i).foldl (fun t c =>
    if (coreAt t c).run.isNone then
      match chosen t c with
      | some d => dispatchTo t c d
      | none => t
    else t) s

/-- The prefetch slots of an island hold the thread that each core would take (R490, R491). -/
def settlePrefetch (s : State) (i : Nat) : State :=
  (List.range' (i * 8) 8).foldl (fun t c => updCore t c (fun x => { x with pf := if coreOk t c then chosen t c else none })) s

/-- The island's cores and prefetch slots settle after a change. -/
def settleIsland (s : State) (i : Nat) : State := settlePrefetch (dispatchIsland s i) i

/-- A thread at the tail or the head of its ready queue (R483). -/
def enqueue (s : State) (d : Nat) (head : Bool) : State :=
  let k := queueKey (descAt s d).island (descAt s d).prio.toNat
  let q := queueAt s k
  setQueue (updDesc s d (fun x => { x with st := dsReady })) k (if head then d :: q else q ++ [d])

/-- Core time of a stage (R489): µs of a user thread are added to its job's total. -/
def addCoreTime (s : State) (d us : Nat) : State :=
  let s1 := updDesc s d (fun x => { x with runtime := Nat.min (x.runtime + us) 0xFFFFFFFF })
  match (descAt s d).job with
  | none => s1
  | some j =>
    match tabGet s1.chn.jobs j with
    | none => s1
    | some b =>
      let im := b.im.map (fun m => { m with coreUs := m.coreUs + us })
      { s1 with chn := { s1.chn with jobs := tabPut s1.chn.jobs j { b with im := im } } }

/-- The core that runs a thread. -/
def coreRunning (s : State) (d : Nat) : Option Nat := (s.sch.cores.find? (fun e => e.2.run == some d)).map (·.1)

/-- A running thread leaves its core (R487). -/
def leaveCore (s : State) (d : Nat) : State :=
  match coreRunning s d with
  | none => s
  | some c =>
    let us := (now s - (coreAt s c).since) / usTicks
    addCoreTime (updCore s c (fun x => { x with run := none, pend := false })) d us

/-- The core with the weakest thread of an island, on a tie the longest run since dispatch (R485). -/
def weakestCore (s : State) (cs : List Nat) : Option Nat :=
  cs.foldl (fun a c =>
    match a, (coreAt s c).run with
    | none, some _ => some c
    | some b, some d =>
      let pb := (((coreAt s b).run.map (fun x => (descAt s x).prio.toNat)).getD 0)
      let pc := (descAt s d).prio.toNat
      if pb < pc || (pb == pc && decide ((coreAt s c).since < (coreAt s b).since)) then some c else a
    | a, none => a) none

/-- FL.IE of a thread. -/
def ieOf (d : Desc) : Bool := d.fl.getLsbD 9

/-- A core's thread is preempted (R485, R486): to the tail where the slice caused it, else to the head. -/
def preemptCore (s : State) (c : Nat) (slice : Bool) : State :=
  match (coreAt s c).run with
  | none => s
  | some d => enqueue (leaveCore s d) d (!slice)

/-- A preemption of a core, which waits while a supervisor thread's FL.IE is 0 (R485). -/
def tryPreempt (s : State) (c : Nat) (slice : Bool) : State :=
  match (coreAt s c).run with
  | none => s
  | some d =>
    if (descAt s d).sup && !ieOf (descAt s d) then updCore s c (fun x => { x with pend := true })
    else settleIsland (preemptCore s c slice) (c / 8)

/-- The preemption that a thread which became ready causes when every core runs a strictly weaker thread (R485). -/
def preemptFor (s : State) (d : Nat) : State :=
  let i := (descAt s d).island
  let cs := coresOf s i
  let weaker := cs.all (fun c => ((coreAt s c).run.map (fun x => decide ((descAt s d).prio.toNat < (descAt s x).prio.toNat))).getD false)
  if (descAt s d).st = dsReady && mayDispatch s d && weaker then
    match weakestCore s cs with
    | some c => tryPreempt s c false
    | none => s
  else s

/-- A thread becomes ready at the tail of its queue; a free core takes it, or it preempts (R483 to R485). -/
def makeReady (s : State) (d : Nat) : State :=
  let s1 := settleIsland (enqueue s d false) (descAt s d).island
  preemptFor s1 d

/-- A thread ends or is killed: its descriptor is free (R487), and its digest message is closed (R432). -/
def freeDesc (s0 : State) (d : Nat) : State :=
  let s := dropOwner s0 (.thread d)
  let x := descAt s d
  let s1 := if x.st = dsReady then dequeue s d else if x.st = dsRunning then leaveCore s d else s
  { s1 with sch := { s1.sch with descs := tabDel s1.sch.descs d } }

/-- Every descriptor of a list is freed, and the islands settle. -/
def killThreads (s : State) (ds : List Nat) (i : Nat) : State := settleIsland (ds.foldl freeDesc s) i

/-- A running thread gives up its core for a state other than ready (R487). -/
def leaveFor (s : State) (d : Nat) (st : BitVec 4) : State :=
  settleIsland (updDesc (leaveCore s d) d (fun x => { x with st := st })) (descAt s d).island

/-- A running thread returns to the tail of its queue (R487). -/
def yieldCore (s : State) (d : Nat) : State :=
  settleIsland (enqueue (leaveCore s d) d false) (descAt s d).island

/-- The time copy of a thread's island (R18). -/
def swardTime (s : State) (d : Nat) : Nat := islandTime s (isSward (descAt s d).island)

/-- The WAIT target of a thread that sleeps (R488). -/
def wakeDue (s : State) (d : Nat) : Bool := decide ((descAt s d).wake.toNat ≤ swardTime s d)

/-! ### Furrow flows (R496 to R498) -/

/-- A flow, and the state with one changed. -/
def flowAt (s : State) (f : Nat) : Flow := tabAt {} s.sch.flows f
def setFlow (s : State) (f : Nat) (x : Flow) : State :=
  { s with sch := { s.sch with flows := tabSet {} s.sch.flows f x } }

/-- Whether a firmware flow is enabled. -/
def flowEnabled (s : State) (f : Nat) : Bool := regFld s (0x1C10000 + 16 * f) 31 1 == 1

/-- REL moves past every consecutive done item; at most 256 are open (R496, R498). -/
def advanceRel (f : Flow) : Nat → Flow
  | 0 => f
  | n + 1 =>
    if f.done.contains f.rel then
      advanceRel { f with rel := (f.rel + 1) % 2 ^ 32, done := f.done.filter (fun x => x ≠ f.rel) } n
    else f

/-- Every thread blocked in FTAKE on a flow becomes ready (R487, R497, R503). -/
def wakeTakers (s : State) (f : Nat) (fail : Bool) : State :=
  let ds := (s.sch.descs.filter (fun e => e.2.st == dsBlocked && e.2.wait == 2 && e.2.flow == f)).map (·.1)
  ds.foldl (fun t d => makeReady (updDesc t d (fun x => { x with wait := 0, flowFail := fail })) d) s

/-- An advance of REL: the new REL goes to RELEASE_ADDR and WAITER wakes when it sleeps (R498). -/
def flowAdvanced (s : State) (f : Nat) : State :=
  let a := regAt s (0x1C10000 + 16 * f)
  let w := (regAt s (0x1C10004 + 16 * f)).toNat
  let rel := (flowAt s f).rel
  let key := fld a 17 3 * 2 ^ 20 + w % 2 ^ 20
  let s1 :=
    if w / 2 ^ 20 = 1 then { s with sch := { s.sch with cluster := tabSet 0 s.sch.cluster key (mkW 0 (dwordOf rel)) } } else s
  let d := fld a 0 14
  let s2 := if bitOf a 16 && (descAt s1 d).st == dsSleeping then makeReady s1 d else s1
  wakeTakers s2 f false

/-- FREL of an item in a firmware flow (R498). -/
def flowRelease (s : State) (f item : Nat) : State :=
  let x := flowAt s f
  let open_ := (x.next + 2 ^ 32 - x.rel) % 2 ^ 32
  let idx := (item + 2 ^ 32 - x.rel) % 2 ^ 32
  if !flowEnabled s f || open_ ≤ idx || x.done.contains item then schEvent s 2
  else
    let y := advanceRel { x with done := x.done ++ [item] } 257
    let s1 := setFlow s f y
    if y.rel = x.rel then s1 else flowAdvanced s1 f

end Sys2Proof.Machine
end

