-- ==== Sys2Proof/Machine/Threads.lean ====
section
/-! DEFINITION. The threads of program stages (R443, R445, R474 to R480, R492): segments, start and end of threads, the
end of a stage's threads, the failure of a core. -/

namespace Sys2Proof.Machine

/-! ### The Difel image (R477) -/

/-- Fields of a program image. -/
def imgCode (im : List Byte) : Nat := leAt im 8 4
def imgData (im : List Byte) : Nat := leAt im 12 4
def imgBss (im : List Byte) : Nat := leAt im 16 4
def imgStack (im : List Byte) : Nat := leAt im 20 4
def imgEntry (im : List Byte) : Nat := leAt im 24 4
def imgOutMax (im : List Byte) : Nat := leAt im 28 4
def imgThreads (im : List Byte) : Nat := leAt im 32 2
def imgLimit (im : List Byte) : Nat := leAt im 34 2
def imgWindow (im : List Byte) (k : Nat) : Nat := leAt im (64 + 4 * k) 4

/-- Word `i` of an image: CODE then DATA. -/
def imgWord (im : List Byte) (i : Nat) : W36 := BitVec.ofNat 36 (leAt im (128 + 8 * i) 8)

/-- The job of a thread, and the state with a job changed. -/
def jobAt (s : State) (j : Nat) : Option Job := tabGet s.chn.jobs j
def updJob (s : State) (j : Nat) (g : Job → Job) : State :=
  match tabGet s.chn.jobs j with
  | some b => { s with chn := { s.chn with jobs := tabPut s.chn.jobs j (g b) } }
  | none => s

/-- The stage in which a thread runs. -/
def imOf (s : State) (d : Nat) : Option (Job × ImStage) :=
  match (descAt s d).job with
  | none => none
  | some j =>
    match jobAt s j with
    | none => none
    | some b => b.im.map (fun m => (b, m))

/-! ### Segments (R443) -/

/-- Words written to cluster memory from a key. -/
def writeWords (s : State) (k : Nat) (ws : List W36) : State :=
  { s with sch := { s.sch with cluster := (ws.foldl (fun a w => (tabSet 0 a.1 a.2 w, a.2 + 1)) (s.sch.cluster, k)).1 } }

/-- The words of a span of an image. -/
def imgWords (im : List Byte) (a n : Nat) : List W36 := (List.range n).map (fun i => imgWord im (a + i))

/-- The segments and the output buffer of a stage as its start gives them: DATA from the image, the rest zero (R443,
R447). -/
def loadSegments (s : State) (m : ImStage) (img : List Byte) : State :=
  let zero := m.regions.foldl (fun t i =>
    match tabGet t.tenants.regions i with
    | some r => zeroSpan t r.space r.base (r.last + 1 - r.base)
    | none => t) s
  writeWords zero m.dataBase (imgWords img (imgCode img) (imgData img))

/-! ### Threads -/

/-- A user thread starts (R476): at a PC, with G1, G2 and its index in G3. -/
def startThread (s : State) (j : Nat) (d index : Nat) (pc g1 g2 : Dword) : State :=
  match jobAt s j with
  | none => s
  | some b =>
    match b.im with
    | none => s
    | some m =>
      let g := tabSet 0 (tabSet 0 (tabSet 0 [] 1 (mkW 0 g1)) 2 (mkW 0 g2)) 3 (mkW 0 (dwordOf index))
      let prio := within 16 63 (tenantAt s b.tenant).prio
      let x : Desc :=
        { st := dsReady, prio := BitVec.ofNat 6 prio, island := m.island, tenant := b.tenant, index := index, job := some j,
          g := g, pc := pc, sp := dwordOf (0x600000 + m.stackLen) }
      makeReady { s with sch := { s.sch with descs := tabPut s.sch.descs d x } } d

/-- The entry thread of a stage starts on its reserved descriptor (R476). -/
def startEntry (s : State) (j : Nat) (img : List Byte) (inLen : Nat) : State :=
  match (jobAt s j).bind (·.im) with
  | none => s
  | some m =>
    match m.descs with
    | d :: _ => startThread s j d 0 (dwordOf (0x200000 + imgEntry img)) (dwordOf inLen) (dwordOf m.outCap)
    | [] => s

/-- Every thread of a job's stage ends (R474, R476). -/
def killStage (s : State) (j : Nat) : State :=
  match (jobAt s j).bind (·.im) with
  | none => s
  | some m => killThreads s (m.descs.filter (fun d => (descAt s d).st ≠ dsFree)) m.island

/-- The stage of a job as its program's threads have ended it, with a failure status or with its output. -/
def endIm (s : State) (j : Nat) (fail : Option Status) (out : List Byte) : State :=
  updJob (killStage s j) j (fun b =>
    { b with failed := (match b.failed with | some x => some x | none => fail)
             output := if fail.isSome then [] else out
             im := b.im.map (fun m => { m with done := true, out := [] }) })

/-- The declared IN_LEN of the stage in which a job is. -/
def inLenOf (b : Job) : Nat := (b.desc.inLen[b.stage]?).getD 0xFFFFFFFF

/-- A program stage starts again from the beginning of its job (R47). -/
def restartIm (s : State) (j : Nat) : State :=
  match jobAt s j with
  | none => s
  | some b =>
    match b.im with
    | none => s
    | some m =>
      match tabGet s.chn.programs m.prog with
      | none => s
      | some p =>
        let s1 := loadSegments (killStage s j) m p.image
        let s2 := updJob s1 j (fun x => { x with im := x.im.map (fun y => { y with out := [], coreUs := 0, done := false }) })
        startEntry s2 j p.image (inLenOf b)

/-! ### Failures -/

/-- An exception of a user thread ends its stage (R474): the status of the job, and the program's count of faults. -/
def userFault (s : State) (d : Nat) (st : Status) : State :=
  match (descAt s d).job, imOf s d with
  | some j, some (_, m) =>
    let s1 := endIm s j (some st) []
    match tabGet s1.chn.programs m.prog with
    | some p => { s1 with chn := { s1.chn with programs := tabPut s1.chn.programs m.prog { p with faults := p.faults + 1 } } }
    | none => s1
  | _, _ => s

/-- A core fails (R46, R47, R492): no dispatch to it, LAST_VALID cleared; a user thread's stage restarts, a supervisor
thread restarts at RESTART. -/
def coreFail (s : State) (c : Nat) : State :=
  let held := (coreAt s c).run
  let s0 := match held with
    | some d => leaveCore s d
    | none => s
  let s1 := updCore s0 c (fun x => { x with failed := true, run := none, pend := false, pf := none })
  let s2 := { s1 with sch := { s1.sch with descs := s1.sch.descs.map (fun e =>
                (e.1, if e.2.lastCore = some c then { e.2 with lastCore := none } else e.2)) } }
  let s3 := schEvent (wantFaultEvent s2) 4
  match held with
  | none => settleIsland s3 (c / 8)
  | some d =>
    let x := descAt s3 d
    if x.sup then
      let y := tabAt x s3.sch.created d
      let g := tabSet 0 y.g 1 (mkW 0 (dwordOf d))
      let z : Desc := { y with prio := x.prio, runtime := x.runtime, lastCore := none, g := g, pc := x.restart }
      makeReady (updDesc s3 d (fun _ => z)) d
    else
      match x.job with
      | some j => restartIm (updDesc s3 d (fun x => { x with st := dsBlocked })) j
      | none => s3

end Sys2Proof.Machine
end

