-- ==== Sys2Proof/Machine/JobBegin.lean ====
section
/-! DEFINITION. How the stages of jobs begin (R278, R301 to R304, R320, R348, R404, R418, R447, R476, R480, R499). -/

namespace Sys2Proof.Machine

/-! ### Channels and their stages -/

/-- A channel, and the state with one changed. -/
def channelAt (s : State) (slot : Nat) : Option Channel := tabGet s.chn.slots slot
def updChannel (s : State) (slot : Nat) (g : Channel → Channel) : State :=
  match tabGet s.chn.slots slot with
  | some c => { s with chn := { s.chn with slots := tabPut s.chn.slots slot (g c) } }
  | none => s

/-- The steps of a channel: one with no stages has one, which passes its input on (log 43). -/
def stageSteps (c : Channel) : Nat := Nat.max c.stages.length 1

/-- A stage of a channel. -/
def stageOf (c : Channel) (k : Nat) : StageDef := (c.stages[k]?).getD { kind := 0, param := 0 }

/-- The stage that a job is in. -/
def stageNow (s : State) (b : Job) : StageDef :=
  match channelAt s b.slot with
  | some c => stageOf c b.stage
  | none => { kind := 0, param := 0 }

/-- The jobs that entered a channel before a job. -/
def jobsBefore (c : Channel) (j : Nat) : List Nat := c.jobs.takeWhile (fun i => i ≠ j)

/-- Whether the chain of a channel starts with a stream source (R369); a chain holds at most 4 channels. -/
def streamHeaded (s : State) : Nat → Nat → Bool
  | 0, _ => false
  | n + 1, slot =>
    match channelAt s slot with
    | none => false
    | some c => c.src == srcStream || (match c.up with | some u => streamHeaded s n u | none => false)

/-! ### Declared lengths (R297, R303) -/

/-- The declared lengths of a stage: IN_LEN and OUT_LEN with whether each is a bound; undeclared ones have no limit. -/
def inLen (b : Job) (k : Nat) : Nat := (b.desc.inLen[k]?).getD 0xFFFFFFFF
def outLen (b : Job) (k : Nat) : Nat := (b.desc.outLen[k]?).getD 0xFFFFFFFF
def inMax (b : Job) (k : Nat) : Bool := bitOf b.desc.flags (2 * k) || (b.desc.inLen[k]?).isNone
def outMax (b : Job) (k : Nat) : Bool := bitOf b.desc.flags (2 * k + 1) || (b.desc.outLen[k]?).isNone

/-- Whether an input of `n` bytes is too long for a stage, or too short. -/
def inTooLong (b : Job) (k n : Nat) : Bool := decide (inLen b k < n) && !(inMax b k && inLen b k == 0xFFFFFFFF)
def inTooShort (b : Job) (k n : Nat) : Bool := !inMax b k && decide (n < inLen b k)

/-- What an output of `n` bytes of a stage breaks (R303). -/
def outBroken (b : Job) (k n : Nat) : Option Status :=
  if outMax b k then (if outLen b k ≠ 0xFFFFFFFF ∧ outLen b k < n then some stOutputSpace else none)
  else if n ≠ outLen b k then some stLengthMismatch
  else none

/-! ### Codec stages (R348, R349, R371, R372) -/

/-- The input records of a Hatching compress stage, for the number of encoders that they can use. -/
def hatchRecords : Nat → List Byte → Nat
  | 0, _ => 0
  | f + 1, inp => if inp.length < 24 then (if inp.isEmpty then 0 else 1) else 1 + hatchRecords f (inp.drop (24 + 5 * leAt inp 6 2))

/-- The members of a raw-form input that begin a history chain. -/
def rawChains : Nat → Nat → List Byte → Nat
  | 0, _, _ => 0
  | f + 1, pos, inp =>
    if inp.length < 12 then (if inp.isEmpty then 0 else 1)
    else if inp.headD 0 = 0 then rawChains f (pos + (4096 - pos % 4096)) (inp.drop (4096 - pos % 4096))
    else
      let n := 16 + leAt inp 4 4
      (if leAt inp 2 1 = 1 then 0 else 1) + rawChains f (pos + n) (inp.drop n)

/-- CDC_DEFLATE_CFG within its bounds. -/
def compMax (s : State) : Nat := within 1 32 (regFld s 0x1600008 16 8)
def decMax (s : State) : Nat := within 1 64 (regFld s 0x1600008 24 8)
def resetMib (s : State) : Nat := within 1 4096 (regFld s 0x1600008 0 16)

/-- The pool of a codec stage and the units that it may hold. -/
def codecWants (s : State) (d : StageDef) (inp : List Byte) : Pool × Nat :=
  if d.kind = 2 then
    (.dec, if d.param % 4 = 1 then 1 else Nat.min (decMax s) (Nat.max 1 (rawChains (inp.length + 1) 0 inp)))
  else if d.param % 4 = 2 then (.henc, Nat.min 8 (Nat.max 1 (hatchRecords (inp.length + 1) inp)))
  else (.comp, Nat.min (compMax s) (Nat.max 1 (ceilDiv inp.length 1048576)))

/-- The free units of a codec pool. -/
def freeCodec (s : State) (p : Pool) : List Nat :=
  (usableUnits s p 0).filter (fun u => !s.codec.uses.any (fun x => x.pool == p && x.unit == some u))

/-- The least time of a run for a unit of a codec pool (R522). -/
def codecLeast (p : Pool) : Nat := if p == .comp then 2200 else if p == .dec then 18400 else 3300

/-- A piece that waits for a unit of a pool: one that was saved, or one that has not begun. -/
def codecWaits (s : State) (p : Pool) (saved : Bool) (x : CodecUse) : Bool :=
  x.pool == p && x.unit.isNone && x.saved == saved && servesFor s x.tenant (codecLeast p)

/-- The oldest piece that waits takes a unit. -/
def takeCodec (s : State) (p : Pool) (saved : Bool) (u : Nat) : State :=
  { s with codec := { s.codec with
      uses := updFirst (codecWaits s p saved) (fun x => { x with unit := some u, since := now s, saved := false })
        s.codec.uses } }

/-- Free units taken by pieces that have not begun, oldest first. -/
def fillCodec (s : State) (p : Pool) : State := (freeCodec s p).foldl (fun t u => takeCodec t p false u) s

/-- A codec stage begins: its pieces take free units or wait. -/
def beginCodec (s : State) (j : Nat) (b : Job) (d : StageDef) : State :=
  let w := codecWants s d b.input
  let x : CodecUse :=
    { pool := w.1, unit := none, job := j, stage := b.stage, since := now s, tenant := b.tenant, saved := false }
  fillCodec { s with codec := { s.codec with uses := s.codec.uses ++ List.replicate w.2 x } } w.1

/-! ### Cipher stages (R404, R405, R409, R413 to R418) -/

/-- The committed marks of a key slot (R417). -/
def usedMarkOf (s : State) (slot : Nat) : Nat := (tabAt {} (settingsInForce s).keys slot).used
def nextMarkOf (s : State) (slot : Nat) : Nat := (tabAt {} (settingsInForce s).keys slot).next

/-- A key slot, and the state with one changed. -/
def slotAt (s : State) (slot : Nat) : KeySlot := tabAt {} s.cry.slots slot
def updSlot (s : State) (slot : Nat) (g : KeySlot → KeySlot) : State :=
  { s with cry := { s.cry with slots := tabUpd {} s.cry.slots slot g } }

/-- Expanded keys of destroyed slots leave every island's cache once no job holds them (R413). -/
def forgetKeys (s : State) : State :=
  let keeps (k : Nat) : Bool := (slotAt s k).st != 0 || s.chn.jobs.any (fun e => (e.2.cipher.map (·.slot)) == some k)
  { s with cry := { s.cry with burin := s.cry.burin.map (fun e => (e.1, { e.2 with cache := e.2.cache.filter keeps })) } }

/-- The marks of a slot raised, and the settings update that commits them (R417). -/
def raiseSlotMark (s : State) (slot : Nat) (gcm : Bool) (used next : Nat) : State :=
  wantSettings (updSlot s slot (fun k => { k with
    usedMark := max k.usedMark (used + if gcm then 65536 else 2 ^ 30)
    nextMark := if gcm then max k.nextMark (next + 65536) else k.nextMark })) []

/-- Data units counted in a slot's USED, with CRY_EVENT.LIMIT_REACHED (R418). -/
def countSlot (s : State) (slot units : Nat) : State :=
  let before := (slotAt s slot).st
  let s1 := updSlot s slot (fun k => useUnits k units)
  raiseIf (before ≠ 2 && (slotAt s1 slot).st == 2) s1 evCry 3

/-- The data units of a job's XTS stage; a last unit shorter than 16 bytes is none (R404). -/
def xtsUnits (n : Nat) : Nat := if 1 ≤ n % 4096 ∧ n % 4096 < 16 then n / 4096 else ceilDiv n 4096
def xtsShort (n : Nat) : Bool := 1 ≤ n % 4096 && n % 4096 < 16

/-- The island whose request queue is the shortest, if one has room (R402, R409). -/
def shortestBurin (s : State) : Option Nat :=
  let len (g : Nat) : Nat := (tabAt {} s.cry.burin g).queue.length
  let g := (List.range 8).foldl (fun a g => if len g < len a then g else a) 0
  if len g < 512 then some g else none

/-- The sequence number or IV of a data unit of a stage (R404, R405). -/
def unitIv (b : Job) (r : CipherRun) (i : Nat) : BitVec 128 :=
  if r.gcm then BitVec.ofNat 128 (leNat (leBytes r.fixed.toNat 4 ++ leBytes b.desc.iv.toNat 8)) else BitVec.ofNat 128 (b.desc.iv.toNat + i)

/-- The requests of a cipher stage pushed while a queue has room; the fuel bounds their number. -/
def pushRequests (s : State) (j : Nat) : Nat → State
  | 0 => s
  | f + 1 =>
    match jobAt s j with
    | none => s
    | some b =>
      match b.cipher with
      | none => s
      | some r =>
        let units := if r.gcm then 1 else xtsUnits b.input.length
        match shortestBurin s with
        | none => s
        | some g =>
          if units ≤ r.next ∨ r.failed.isSome then s
          else
            let data := if r.gcm then b.input else (b.input.drop (4096 * r.next)).take 4096
            let q : CipherReq := { job := j, index := r.next, iv := unitIv b r r.next, tenant := b.tenant, data := data }
            let s1 := { s with cry := { s.cry with
                burin := tabUpd {} s.cry.burin g (fun x => { x with queue := x.queue ++ [q] }) } }
            pushRequests (updJob s1 j (fun y => { y with
              cipher := some { r with next := r.next + 1, out := r.out + 1 } })) j f

/-- How many requests a stage can have waiting at once. -/
def requestFuel : Nat := 4097

/-- Why a cipher stage fails when its job's first block reaches it (R418); a slot of the wrong KIND counts as empty
(log 44). -/
def keyCheck (k : KeySlot) (tenant units : Nat) (gcm encrypt : Bool) (iv : Nat) : Option Status :=
  if k.st ≠ 1 ∨ k.owner ≠ tenant ∨ k.kind ≠ (if gcm then 1 else 2) then some stKeyLimit
  else if encrypt ∧ k.limit < k.used + Nat.max 1 units then some stKeyLimit
  else if encrypt ∧ gcm ∧ iv < k.next then some stKeyLimit
  else none

/-- A cipher stage begins: its slot is checked, its use counted, and its requests go to the islands. It waits while its marks
are being committed (R417), and a GCM decryption for its stage buffer (R405, R514). The Bool says whether it has begun. -/
def beginCipher (s : State) (j : Nat) (b : Job) (d : StageDef) : State × Bool :=
  let slot := d.param % 4096
  let gcm := d.param.testBit 12
  let encrypt := d.kind = 8
  let k := slotAt s slot
  let n := b.input.length
  let iv := b.desc.iv.toNat
  let known := gcm || !inMax b b.stage
  let units := if gcm then 1 else if known then ceilDiv (inLen b b.stage) 4096 else 0
  let r : CipherRun :=
    { slot := slot, key := k.key, owner := k.owner, fixed := k.fixed, gcm := gcm, encrypt := encrypt
      count := encrypt && !known, next := 0, out := 0, parts := [], failed := none }
  let tooLong := gcm && decide ((if encrypt then 1048576 else 1048592) < n)
  let start (t : State) (f : Option Status) : State × Bool :=
    match allocDram t b.tenant [if gcm && !encrypt && f.isNone then 1048576 else 0] with
    | none => (t, false)
    | some (t1, rs) =>
      (pushRequests (updJob t1 j (fun y => { y with cipher := some { r with failed := f }, regions := y.regions ++ rs })) j
        requestFuel, true)
  if n = 0 && !gcm then start s none
  else
    match keyCheck k b.tenant units gcm encrypt iv with
    | some st => start s (some st)
    | none =>
      if tooLong then start s (some stLengthMismatch)
      else if !encrypt then start s none
      else if usedMarkOf s slot < k.used + Nat.max 1 units ∨ (gcm ∧ nextMarkOf s slot < iv + 1) then
        (raiseSlotMark s slot gcm (k.used + units) (iv + 1), false)
      else
        let s1 := countSlot s slot units
        start (if gcm then updSlot s1 slot (fun x => { x with next := iv + 1 }) else s1) none

/-! ### Lane stages (R320, R321, R338) -/

/-- The program and the program ID of a lane stage: a parameter of 0 in a Query names the inline program (R315). -/
def laneImage (s : State) (b : Job) (d : StageDef) : List Byte × Nat :=
  if d.param = 0 then (b.inline, 0) else (((tabGet s.chn.programs d.param).map (·.image)).getD [], d.param)

/-- A program counted as run by one more job (R290). -/
def countRun (s : State) (id : Nat) : State :=
  match tabGet s.chn.programs id with
  | some p => { s with chn := { s.chn with programs := tabPut s.chn.programs id { p with runs := p.runs + 1 } } }
  | none => s

/-- Bytes of the merge table of a lane program (R338). -/
def mergeBytes (im : List Byte) : Nat := let p := parseLane im; if p.output = 1 then p.agg.mergeMax * 32 else 0

/-- A lane stage begins: the splitter queues its pieces, and its merge table has a region; it waits where no region is free
(R514). -/
def beginLane (s : State) (j : Nat) (b : Job) (d : StageDef) : State × Bool :=
  let im := laneImage s b d
  let p := parseLane im.1
  match allocDram s b.tenant [mergeBytes im.1] with
  | none => (s, false)
  | some (s1, rs) =>
    let cuts := cutPieces p b.input
    let pieces := cuts.zipIdx.map (fun e =>
      ({ job := j, index := e.2, base := e.1.1, bytes := e.1.2, tenant := b.tenant } : Piece))
    let lj : LaneJob :=
      { image := im.1, prog := im.2, maxLanes := within 1 8 (regFld s 0x1400008 0 4), skip := regFld s 0x1400008 8 1 == 1
        outs := [], left := pieces.length, table := [], failed := none, failAt := pieces.length }
    let s2 := { s1 with lanes := { s1.lanes with queue := s1.lanes.queue ++ pieces, jobs := tabPut s1.lanes.jobs j lj } }
    (updJob s2 j (fun y => { y with regions := y.regions ++ rs }), true)

/-! ### Program stages (R443, R447, R476, R480, R499) -/

/-- Units of 64 words for a segment. -/
def segUnits (words : Nat) : Nat := ceilDiv words 64

/-- Regions of cluster memory for a list of segments in words, all or none; a segment of 0 words has none. -/
def allocSegs (s : State) (island tenant : Nat) (x : Bool) : List Nat → Option (State × List Nat)
  | [] => some (s, [])
  | n :: t =>
    if n = 0 then allocSegs s island tenant x t
    else
      match allocRegion s (8 + island) (segUnits n) tenant true (!x) x with
      | none => none
      | some (s1, i) =>
        match allocSegs s1 island tenant x t with
        | none => none
        | some (s2, is) => some (s2, i :: is)

/-- The descriptors that stages in progress have reserved. -/
def reservedDescs (s : State) : List Nat :=
  s.chn.jobs.foldl (fun a e => a ++ ((e.2.im.map (·.descs)).getD [])) []

/-- The lowest `n` free user descriptors from `d` on; the fuel bounds the search. -/
def takeDescs (s : State) (held : List Nat) : Nat → Nat → Nat → List Nat
  | 0, _, _ => []
  | f + 1, d, n =>
    if n = 0 then []
    else if (descAt s d).st = dsFree ∧ !held.contains d then d :: takeDescs s held f (d + 1) (n - 1)
    else takeDescs s held f (d + 1) n

/-- User threads of an island that are ready or running. -/
def userThreads (s : State) (i : Nat) : Nat :=
  (s.sch.descs.filter (fun e => !e.2.sup && e.2.island == i && (e.2.st == dsReady || e.2.st == dsRunning))).length

/-- The running islands in the order of preference for a program (R480). -/
def islandOrder (s : State) (prog : Nat) : List Nat :=
  (setOfNats (((List.range 8).filter (fun i => decide (i < swardCount (powerFor s)))).map (fun i =>
    (if (tabGet s.sch.codes (prog * 8 + i)).isSome then 0 else 2 ^ 40) + userThreads s i * 16 + i))).map (· % 16)

/-- The CODE segment of a program on an island: the one resident there, or a new one loaded from its image (R443). -/
def codeOn (s : State) (prog island tenant j : Nat) (img : List Byte) : Option State :=
  let key := prog * 8 + island
  match tabGet s.sch.codes key with
  | some c => some { s with sch := { s.sch with codes := tabPut s.sch.codes key { c with jobs := c.jobs ++ [j] } } }
  | none =>
    match allocSegs s island tenant true [imgCode img] with
    | some (s1, r :: _) =>
      let base := regionBase s1 r * 64
      let s2 := writeWords s1 (island * 2 ^ 20 + base) (imgWords img 0 (imgCode img))
      some { s2 with sch := { s2.sch with codes := tabPut s2.sch.codes key { region := r, base := base, jobs := [j] } } }
    | _ => none

/-- The output capacity of a program stage (R447). -/
def outCapOf (b : Job) (img : List Byte) : Nat :=
  if outMax b b.stage && outLen b b.stage == 0xFFFFFFFF then imgOutMax img else outLen b b.stage

/-- The windows of a program that bind: named regions of the program's tenant (R477, R515). -/
def bindWindows (s : State) (tenant : Nat) (img : List Byte) : List (Nat × Nat × Bool) :=
  (List.range' 2 13).filterMap (fun k =>
    let w := imgWindow img k
    match tabGet s.tenants.regions (w % 8192) with
    | some r => if w.testBit 13 && r.named && r.tenant == tenant then some (k, w % 8192, w.testBit 14) else none
    | none => none)

/-- The segments, the output buffer and the digest context areas of a stage on an island; none where there is no room. -/
def placeStage (s : State) (j : Nat) (b : Job) (prog : Nat) (img : List Byte) (descs : List Nat) (island : Nat) :
    Option (State × ImStage) :=
  let data := imgData img + imgBss img
  match codeOn s prog island b.tenant j img with
  | none => none
  | some s1 =>
    match allocSegs s1 island b.tenant false (data :: List.replicate (imgThreads img) (imgStack img)) with
    | none => none
    | some (s2, rs) =>
      match allocDram s2 b.tenant (outCapOf b img :: List.replicate (imgThreads img) 384) with
      | none => none
      | some (s3, ds) =>
        let bases := rs.map (fun r => regionBase s3 r * 64)
        let stackBases := if data = 0 then bases else bases.drop 1
        let code := tabGet s3.sch.codes (prog * 8 + island)
        some (s3,
          { prog := prog, island := island, codeBase := (code.map (·.base)).getD 0, codeLen := imgCode img
            dataBase := if data = 0 then 0 else bases.headD 0, dataLen := data, stackLen := imgStack img, stackBases := stackBases
            outCap := outCapOf b img, exactOut := !outMax b b.stage, out := [], windows := tabAt [] b.windows b.stage
            descs := descs, limitMs := imgLimit img, coreUs := 0, regions := rs ++ ds, done := false })

/-- The first island of a list on which a stage fits. -/
def placeFirst (s : State) (j : Nat) (b : Job) (prog : Nat) (img : List Byte) (descs : List Nat) :
    List Nat → Option (State × ImStage)
  | [] => none
  | i :: t =>
    match placeStage s j b prog img descs i with
    | some r => some r
    | none => placeFirst s j b prog img descs t

/-- A program stage begins (R476, R480); it waits while too few descriptors are free or no island has room. -/
def beginProgram (s : State) (j : Nat) (b : Job) (d : StageDef) : State × Bool :=
  match tabGet s.chn.programs d.param with
  | none => (updJob s j (fun y => { y with failed := some stInvalidHandle }), true)
  | some p =>
    let n := imgThreads p.image
    let descs := takeDescs s (reservedDescs s) (16384 - fwDescs s) (fwDescs s) n
    if descs.length < n then (schEvent s 0, false)
    else
      match placeFirst s j b d.param p.image descs (islandOrder s d.param) with
      | none => (s, false)
      | some (s1, m) =>
        let s2 := updJob s1 j (fun y => { y with im := some m })
        (startEntry (loadSegments s2 m p.image) j p.image (if inMax b b.stage && inLen b b.stage == 0xFFFFFFFF then 0xFFFFFFFF
          else inLen b b.stage), true)

/-- The free channel flows: those that firmware does not own (R496). -/
def freeFlow (s : State) : Option Nat :=
  (List.range' (fwFlows s) (4096 - fwFlows s)).find? (fun f => (flowAt s f).chan.isNone)

/-- Whether a program stage may run one more job of its channel, taking a flow where it needs one (R499, R500). -/
def imAdmit (s : State) (slot : Nat) (c : Channel) (j k : Nat) : State × Bool :=
  let ahead := (jobsBefore c j).filter (fun i => ((jobAt s i).map (fun e => e.stage == k && !e.sinking)).getD false)
  let busy := ahead.any (fun i => ((jobAt s i).map (·.running)).getD false)
  if !busy then (s, decide (ahead.length ≤ 255))
  else if c.flows.any (fun e => e.1 == k) then (s, decide (ahead.length ≤ 255))
  else
    match freeFlow s with
    | none => (schEvent s 1, false)
    | some f =>
      (updChannel (setFlow s f { flowAt s f with chan := some slot }) slot (fun x => { x with flows := tabPut x.flows k f }), true)

/-! ### Digest stages (R426, R432) -/

/-- A digest stage begins: its input is one message. -/
def beginDigest (s : State) (j : Nat) (b : Job) (d : StageDef) : State :=
  let o : DgsOwner := .stage j b.stage
  finishMsg (openMsg s o (BitVec.ofNat 2 d.param) 0 b.tenant b.input) o 0

/-! ### Beginning -/

/-- The engine of a stage starts on the whole of its input; false where it waits. -/
def startEngine (s : State) (j : Nat) (b : Job) (d : StageDef) : State × Bool :=
  if d.kind = 1 ∨ d.kind = 8 then beginCipher s j b d
  else if d.kind = 2 ∨ d.kind = 6 then (beginCodec s j b d, true)
  else if d.kind = 3 then beginLane s j b d
  else if d.kind = 5 then beginProgram s j b d
  else if d.kind = 7 then (beginDigest s j b d, true)
  else (s, true)

/-- A job in its stage begins it: an input that exceeds IN_LEN fails it (R303), and a job that has failed already starts no
engine. -/
def beginStage (s : State) (j : Nat) (b : Job) (d : StageDef) : State :=
  let go (t : State) : State := updJob t j (fun y => { y with running := true })
  if b.failed.isSome then go s
  else if inTooLong b b.stage b.input.length && (channelAt s b.slot).any (fun c => !c.stages.isEmpty) then
    go (updJob s j (fun y => { y with failed := some stLengthMismatch, failStage := b.stage }))
  else
    let r := startEngine s j b d
    if r.2 then go (if (d.kind = 3 ∨ d.kind = 5) ∧ !b.rerun then countRun r.1 d.param else r.1) else r.1

/-- The order of R301 for a stage: every job that entered before has been released from it, or for a program stage has
started it. -/
def stageTurn (s : State) (c : Channel) (j k : Nat) : Bool :=
  (jobsBefore c j).all (fun i =>
    match jobAt s i with
    | none => true
    | some e => decide (k < e.stage) || e.sinking || ((stageOf c k).kind == 5 && e.stage == k && (e.running || e.ended)))

/-- The namespace of a channel's source or sink, checked again for each job (R280): attached to a controller whose function is
bound to the channel's tenant. -/
def nsUsable (s : State) (nsid tenant : Nat) : Option Namespace :=
  match tabGet s.ftl.namespaces nsid with
  | some n => if n.attach.any (fun f => fnTenant s f == tenant) then some n else none
  | none => none

/-- The windows of the program stages of a channel, bound for a job of a tenant as it starts there (R515). -/
def bindStages (s : State) (tenant : Nat) (c : Channel) : List (Nat × List (Nat × Nat × Bool)) :=
  (List.range c.stages.length).filterMap (fun k =>
    if (stageOf c k).kind = 5 then
      (tabGet s.chn.programs (stageOf c k).param).map (fun p => (k, bindWindows s tenant p.image))
    else none)

/-- A job begins its first stage: it takes its source. A namespace's units give their entries, and their data once the
codewords have been read (R255, R277); false where it waits for order, map pages or masks (R407). -/
def takeSource (s : State) (j : Nat) (b : Job) (c : Channel) : State × Bool :=
  let begun (t : State) : State := updCmd (updJob t j (fun y => { y with begun := true, windows := bindStages t b.tenant c })) b.cmd (fun x => { x with phase := .running })
  let held := match findCmd s b.cmd with
    | some e => heldByOrder s e
    | none => false
  if held || (c.src == srcHost && !servesTenant s b.tenant) then (s, false)
  else if c.src ≠ srcNamespace then (begun s, true)
  else
    match tabGet s.ftl.namespaces c.srcParam with
    | none => (begun (updJob s j (fun y => { y with failed := some stInvalidNs })), true)
    | some n =>
      let a := b.desc.src0.toNat
      let cnt := b.desc.src8.toNat + 1
      let keys := (unitsOf n a cnt).map (unitKey c.srcParam)
      let pages := pagesFor s keys
      if !pages.isEmpty then (wantPages s pages, false)
      else
        let ts := takeAll s c.srcParam n a cnt
        let s1 := noteAccess s c.srcParam keys
        if ts.any (·.bad) then (begun (updJob s1 j (fun y => { y with failed := some stUnrecovered })), true)
        else if takenHeld s n ts then (s1, false)
        else
          let s2 := startTaken (takeHolds s1 (takenBlocks ts) (takenSlots ts)) (.job j) c.srcParam n ts
          let pend := takenWords ts
          let s3 := updJob s2 j (fun y => { y with
            input := (ts.map (·.bytes)).foldl (· ++ ·) [], pend := pend, blocks := takenBlocks ts, slots := takenSlots ts })
          let s4 := if pend = 0 then updJob (releaseHolds s3 (takenBlocks ts) (takenSlots ts)) j (fun y => { y with
            blocks := [], slots := [] }) else s3
          (begun s4, true)

/-- STAGE_BEGIN (R301): a job starts the stage that it has reached, in entry order. The first stage takes the source; over pages of
the media it starts once they are decoded, deciphered and expanded (R22). -/
def execStageBegin (job stage : Nat) (s : State) : Out :=
  .next <| resumeCmds <|
    match jobAt s job with
    | none => s
    | some b =>
      match channelAt s b.slot with
      | none => s
      | some c =>
        if !b.entered || b.running || b.ended || b.sinking || b.stage ≠ stage || !stageTurn s c job stage then s
        else
          let d := stageOf c stage
          let adm := if d.kind = 5 then imAdmit s b.slot c job stage else (s, true)
          if !adm.2 then adm.1
          else
            let src := if b.begun then (adm.1, true) else takeSource adm.1 job b c
            if !src.2 then src.1
            else
              match jobAt src.1 job with
              | some x => if 0 < x.pend then src.1 else beginStage src.1 job x d
              | none => src.1

end Sys2Proof.Machine
end

