-- ==== Sys2Proof/Machine/JobRun.lean ====
section
/-! DEFINITION. How the stages of jobs end, their release in order, the sinks and the completion of jobs (R283, R300 to R310,
R369, R370, R429, R500). -/

namespace Sys2Proof.Machine

/-! ### Handles (R284 to R287) -/

/-- The generation of a slot: drawn at the start of its epoch, from 1 to 16,383 (R287). -/
def genOf (s : State) (slot : Nat) : Nat :=
  (tabGet s.chn.gens slot).getD ((Config.drbg (2 ^ 64 + s.chn.epoch * 2 ^ 15 + slot)).toNat % 16383 + 1)

/-- The handle of a live channel. -/
def handleOf (s : State) (slot : Nat) : Nat := genOf s slot * 2 ^ 18 + slot

/-- The slot that a handle names for a tenant (R286); a channel being destroyed, or a Query's, resolves no more (R308,
R315). -/
def resolve (s : State) (tenant : Nat) (h : Dword) : Option Nat :=
  let slot := fld h 0 14
  match channelAt s slot with
  | none => none
  | some c =>
    if fld h 14 4 = 0 ∧ fld h 18 14 = genOf s slot ∧ c.tenant = tenant ∧ c.dying.isNone ∧ !c.temp then some slot else none

/-! ### Ending a stage -/

/-- What an engine has given: whether it has ended, its output and its failure. -/
structure StageOut where
  ok  : Bool
  out : List Byte
  err : Option Status

/-- A cipher stage: its units' outputs in order (R409); a GCM stage that fails releases nothing (R405). -/
def cipherOut (b : Job) (r : CipherRun) : StageOut :=
  let units := if r.gcm then 1 else xtsUnits b.input.length
  { ok := r.out == 0 && (r.failed.isSome || decide (units ≤ r.next))
    out := if r.gcm && r.failed.isSome then [] else (r.parts.map (·.2)).foldl (· ++ ·) []
    err := match r.failed with
      | some f => some f
      | none => if !r.gcm && xtsShort b.input.length then some stLengthMismatch else none }

/-- The history that a raw-form codec stage starts with (R369). -/
def histOf (s : State) (b : Job) : List Byte :=
  if streamHeaded s 4 b.slot then ((channelAt s b.slot).map (fun c => tabAt [] c.ctx b.stage)).getD [] else []

/-- The members of a compress stage in the raw form so far (R369): their bytes, the history of the next, the original bytes of
this input since its last member with CONT 0, and the original bytes since the last member with CONT 0 of the channel. -/
structure RawOut where
  out   : List Byte
  hist  : List Byte
  own   : List Byte
  since : Option Nat

/-- One piece more: it continues the chain until `reset` bytes of original have passed. -/
def rawPiece (stream : Bool) (reset : Nat) (a : RawOut) (p : List Byte) : RawOut :=
  let cont := stream && (match a.since with | some n => decide (n < reset) | none => false)
  let own := if cont then a.own ++ p else p
  { out := a.out ++ rawMemberOf cont a.hist p, hist := lastHist own, own := own
    since := some (if cont then a.since.getD 0 + p.length else p.length) }

/-- A compress stage of a job in the raw form. -/
def compressRaw (s : State) (b : Job) : RawOut :=
  let since := (channelAt s b.slot).bind (fun c => tabGet c.ctxBytes b.stage)
  (compressPieces b.input).foldl (rawPiece (streamHeaded s 4 b.slot) (resetMib s * 1048576))
    { out := [], hist := histOf s b, own := [], since := since }

/-- The chain's output so far in a raw-form decompress stage, for the history it carries (R369). -/
def decodeHist : Nat → Nat → List Byte → List Byte → List Byte
  | 0, _, hist, _ => hist
  | f + 1, pos, hist, inp =>
    match inp with
    | [] => hist
    | b :: _ =>
      if b = 0 then decodeHist f (skipPad pos inp).1 hist (skipPad pos inp).2
      else
        match rawMember hist inp with
        | .error _ => hist
        | .ok (o, rest) => decodeHist f (pos + (inp.length - rest.length)) (chainHist hist (leAt inp 2 1 = 1) o) rest

/-- A codec stage: its output and failure (R348, R350, R359). -/
def codecOut (s : State) (b : Job) (d : StageDef) : StageOut :=
  let of (r : Decoded) : StageOut := { ok := true, out := r.out, err := r.err.map codecStatus }
  if d.kind = 2 then (if d.param % 4 = 1 then of (decompressGzip b.input) else of (decompressRaw (histOf s b) b.input))
  else if d.param % 4 = 2 then of (hatchEncode b.input)
  else if d.param % 4 = 1 then { ok := true, out := ((compressPieces b.input).map gzipMemberOf).foldl (· ++ ·) [], err := none }
  else { ok := true, out := (compressRaw s b).out, err := none }

/-- Whether a codec stage's pieces have had a unit. -/
def codecServed (s : State) (j : Nat) : Bool := s.codec.uses.any (fun x => x.job == j && x.unit.isSome)

/-- The outputs of the pieces of a lane stage in source order, to the first that failed. -/
def laneOuts (l : LaneJob) : List Byte := ((l.outs.filter (fun e => e.1 ≤ l.failAt)).map (·.2)).foldl (· ++ ·) []

/-- A lane stage: its pieces' outputs, or the merger's records once every piece has ended; of aggregates a failed stage emits
none (R335, R338). -/
def laneOut (s : State) (j : Nat) : StageOut :=
  match tabGet s.lanes.jobs j with
  | none => { ok := true, out := [], err := none }
  | some l =>
    let p := parseLane l.image
    { ok := l.left == 0
      out := if p.output = 1 then (if l.failed.isSome then [] else emitTable (aggType p) (aggFreeNow s) s.freeCount l.table)
        else laneOuts l
      err := l.failed }

/-- The output of a stage. -/
def stageOut (s : State) (j : Nat) (b : Job) (d : StageDef) : StageOut :=
  if d.kind = 1 ∨ d.kind = 8 then
    (match b.cipher with | some r => cipherOut b r | none => { ok := false, out := [], err := none })
  else if d.kind = 2 ∨ d.kind = 6 then
    (if codecServed s j then codecOut s b d else { ok := false, out := [], err := none })
  else if d.kind = 3 then laneOut s j
  else if d.kind = 5 then { ok := (b.im.map (·.done)).getD false, out := b.output, err := b.failed }
  else if d.kind = 7 then
    match msgOf s (.stage j b.stage) with
    | some m =>
      { ok := m.done || m.ctxErr, out := if d.param / 4 % 4 = 0 then b.input ++ m.result else b.input
        err := if m.ctxErr then some stEngineFault else none }
    | none => { ok := false, out := [], err := none }
  else { ok := true, out := b.input, err := none }

/-- What a stage's engine leaves behind besides its output: the histories of R369, the key of a derive stage (R429), the
events of R351 and R367. -/
def stageEffects (s : State) (j : Nat) (b : Job) (d : StageDef) (r : StageOut) : State :=
  let stream := streamHeaded s 4 b.slot
  let save (t : State) (h : List Byte) (n : Option Nat) : State :=
    { updChannel t b.slot (fun c => { c with
        ctx := tabPut c.ctx b.stage h
        ctxBytes := match n with | some k => tabPut c.ctxBytes b.stage k | none => c.ctxBytes }) with
      codec := { t.codec with saves := Nat.min 65535 (t.codec.saves + 1) } }
  if d.kind = 2 then
    if r.err.isSome then raiseIf (r.err != some stEngineFault) s evCdc 1
    else if stream && d.param % 4 = 0 then save s (decodeHist (b.input.length + 1) 0 (histOf s b) b.input) none
    else s
  else if d.kind = 6 then
    if r.err.isSome then raiseIf (r.err != some stEngineFault) s evCdc 2
    else if stream && d.param % 4 = 0 then save s (compressRaw s b).hist (compressRaw s b).since
    else s
  else if d.kind = 7 && d.param / 4 % 4 = 1 then
    match msgOf s (.stage j b.stage) with
    | some m => updJob s j (fun y => { y with derives := y.derives ++ [(d.param / 16, m.alg.toNat, m.result)] })
    | none => s
  else if d.kind = 3 then { s with freeCount := s.freeCount + 1 }
  else s

/-- Releases a CODE segment for a job; it is freed with the last job that runs on it (log 45). -/
def leaveCode (s : State) (j : Nat) (m : ImStage) : State :=
  let key := m.prog * 8 + m.island
  match tabGet s.sch.codes key with
  | none => s
  | some c =>
    if (c.jobs.erase j).isEmpty then
      let s1 := freeRegion s c.region
      { s1 with sch := { s1.sch with codes := tabDel s1.sch.codes key } }
    else { s with sch := { s.sch with codes := tabPut s.sch.codes key { c with jobs := c.jobs.erase j } } }

/-- Channel flows that no job of their channel is running any more are returned (R499). -/
def returnFlows (s : State) (slot : Nat) : State :=
  match channelAt s slot with
  | none => s
  | some c =>
    let busy (k : Nat) : Bool := c.jobs.any (fun i => ((jobAt s i).map (fun e => e.stage == k && e.running)).getD false)
    (c.flows.filter (fun e => !busy e.1)).foldl (fun t e =>
      updChannel (setFlow t e.2 { flowAt t e.2 with chan := none }) slot (fun x => { x with flows := tabDel x.flows e.1 })) s

/-- Everything that a job holds in its stage's engines let go, and zeroed where R517 and R514 say so. -/
def clearEngine (s : State) (j : Nat) (b : Job) : State :=
  let s1 := killStage s j
  let s2 := match b.im with
    | some m => leaveCode (freeRegions s1 m.regions) j m
    | none => s1
  let s3 := freeRegions s2 b.regions
  let s4 := { s3 with
    codec := { s3.codec with uses := s3.codec.uses.filter (fun x => x.job ≠ j) }
    lanes := { s3.lanes with
      queue := s3.lanes.queue.filter (fun p => p.job ≠ j), jobs := tabDel s3.lanes.jobs j
      lanes := s3.lanes.lanes.map (fun e => (e.1, if (e.2.piece.map (·.job)) = some j then { e.2 with piece := none } else e.2)) }
    cry := { s3.cry with
      burin := s3.cry.burin.map (fun e => (e.1, { e.2 with queue := e.2.queue.filter (fun q => q.job ≠ j) })) } }
  let s5 := closeMsg s4 (.stage j b.stage)
  let s6 := updJob s5 j (fun y => { y with im := none, cipher := none, regions := [] })
  fillCodec (fillCodec (fillCodec (if b.cipher.isSome then forgetKeys s6 else s6) .comp) .dec) .henc

/-! ### Completion (R307) -/

/-- DW1 of a job's completion. -/
def jobDw1 (segs : Nat) (part : Bool) (failStage pos : Nat) : Nat :=
  segs % 8192 + bitNat part * 2 ^ 13 + failStage * 2 ^ 16 + pos * 2 ^ 20

/-- A channel's slot freed: its pool and context areas are zeroed and free, its flows returned, its links gone, and GEN
increments (R283, R285, R291, R310, R373). -/
def freeChannel (s : State) (slot : Nat) : State :=
  match channelAt s slot with
  | none => s
  | some c =>
    let s1 := freeRegions s ((match c.pool with | some r => [r] | none => []) ++ c.areas)
    let s2 := c.flows.foldl (fun t e => setFlow t e.2 { flowAt t e.2 with chan := none }) s1
    let s3 := match c.up with | some u => updChannel s2 u (fun x => { x with down := none }) | none => s2
    let s4 := match c.down with | some d => updChannel s3 d (fun x => { x with up := none }) | none => s3
    let g := genOf s slot
    { s4 with chn := { s4.chn with
        slots := tabDel s4.chn.slots slot, gens := tabPut s4.chn.gens slot (if g = 16383 then 1 else g + 1)
        freed := s4.chn.freed ++ [slot] } }

/-- The channels of a chain from a slot on. -/
def chainFrom (s : State) : Nat → Nat → List Nat
  | 0, _ => []
  | n + 1, slot => slot :: (match (channelAt s slot).bind (·.down) with | some d => chainFrom s n d | none => [])

/-- The histories of the codec stages of a chain headed by a stream are discarded (R370). -/
def dropHistories (s : State) (head : Nat) : State :=
  if streamHeaded s 4 head then
    let codecs := (chainFrom s 4 head).any (fun c => ((channelAt s c).map (fun x => x.stages.any (fun d => d.kind == 2 || d.kind == 6))).getD false)
    let s1 := (chainFrom s 4 head).foldl (fun t c => updChannel t c (fun x => { x with ctx := [], ctxBytes := [] })) s
    raiseIf codecs s1 evCdc 3
  else s

/-- A job taken out of its channel and the job table; a Query's channel goes with it (R315). -/
def removeJob (s : State) (j : Nat) (b : Job) : State :=
  let s1 := updChannel s b.slot (fun c => { c with jobs := c.jobs.erase j, waitJobs := c.waitJobs.erase j })
  let s2 := returnFlows (dropReads { s1 with chn := { s1.chn with jobs := tabDel s1.chn.jobs j } } (.job j)) b.slot
  if ((channelAt s2 b.slot).map (·.temp)).getD false then freeChannel s2 b.slot else s2

/-- A job ends with a failure, the first that it met (R304, R307): its holds are let go, the histories of its chain are
discarded. -/
def failJob (s : State) (j : Nat) (b : Job) (st0 : Status) (bytes : Nat) (data : List Byte) : State :=
  let st := b.failed.getD st0
  let s1 := releaseHolds s b.blocks b.slots
  let s2 := dropHistories (removeJob s1 j b) b.head
  let s3 := if st = stEngineFault then raise s2 evChn 2 else if st = stProgramFault then raise s2 evChn 3 else s2
  completeWith s3 b.cmd st (dwordOf bytes) (dwordOf (jobDw1 b.segs (!data.isEmpty) b.failStage b.chainPos)) data

/-- The default LIMIT of a kind of key (R415). -/
def defaultLimit (gcm : Bool) : Nat := if gcm then 2 ^ 32 else 2 ^ 54

/-- The keys that a job's digest stages have derived go to their slots (R429). -/
def putDerived (s : State) (tenant : Nat) (l : List (Nat × Nat × List Byte)) : State :=
  l.foldl (fun t e =>
    let gcm := e.2.1 ≠ 1
    updSlot t e.1 (fun _ =>
      { st := 1, kind := if gcm then 1 else 2, origin := 2, owner := tenant, fixed := 0, limit := defaultLimit gcm, used := 0
        next := 0, key := e.2.2, usedMark := 0, nextMark := 0 })) s

/-- A job ends without failure (R307); one that derives a key completes after the settings commit, and fails where its slot no
longer holds a key of its tenant or no settings commit is possible (R429, log 46). -/
def finishJob (s : State) (j : Nat) (b : Job) (bytes : Nat) (data : List Byte) : State :=
  let dw1 := jobDw1 b.segs false 15 0
  if b.derives.isEmpty then completeWith (removeJob s j b) b.cmd stSuccess (dwordOf bytes) (dwordOf dw1) data
  else if b.derives.any (fun e => (slotAt s e.1).owner ≠ b.tenant || (slotAt s e.1).st = 0) then failJob s j b stKeyLimit 0 []
  else if !canSave s then failJob s j b stNotReady 0 []
  else completeSaved (putDerived (removeJob s j b) b.tenant b.derives) b.cmd (bytes % 2 ^ 32 + dw1 * 2 ^ 32) data

/-! ### The sink (R306) -/

/-- Whether a segment of a job is on its way to the journal. -/
def sinkBusy (s : State) (j : Nat) : Bool := (s.etch.moving ++ s.etch.built).any (fun b => b.job == some j)

/-- The next segment of a namespace sink: 1 MiB of output, counted from the first LBA, through steps 1 to 4 of R203, the last
partial LBA filled with zeros. -/
def placeSegment (s : State) (j : Nat) (b : Job) (nsid : Nat) (n : Namespace) : State :=
  let r := segRange b n
  let keys := (unitsOf n r.1 r.2).map (unitKey nsid)
  let pages := pagesFor s keys
  let need := slotsNeeded n r.1 r.2 false
  if etchGone s then failJob s j b stNotReady (Nat.min (b.segs * 1048576) b.output.length) []
  else if s.power.fence || keys.any (fun k => (busyUnits s).contains k) then s
  else if !pages.isEmpty then wantPages s pages
  else if mergeHeld s nsid n r.1 r.2 then s
  else
    match admission s b.tenant nsid n need need b.append with
    | .wait => if tenantSlots s b.tenant + need ≤ etchShare s b.tenant then s else quotaEvent s
    | .fail st => failJob (if st = stQuota then quotaEvent s else s) j b st (Nat.min (b.segs * 1048576) b.output.length) []
    | .pass =>
      let data := (b.output.drop (b.segs * 1048576)).take 1048576
      let p := placePiece s (.job j) nsid b.tenant n r.1 r.2 data false
      if !p.ok then s
      else
        let x : Built := { type := 1, tenant := b.tenant, entries := p.entries, cmd := none, job := some j, last := false }
        let s1 := settleAdmission (noteAccess p.st nsid keys)
        updJob { s1 with etch := { s1.etch with moving := s1.etch.moving ++ [x] } } j (fun y => { y with
          sinkPend := p.pend, blocks := p.blocks })

/-- The segments that a job still has to commit: of a failed one those that are whole, and none of an output of at most
1 MiB. -/
def segsDue (b : Job) : Nat :=
  let n := b.output.length
  if b.failed.isSome then (if n ≤ 1048576 then 0 else n / 1048576) else ceilDiv n 1048576

/-- A job that hands its output to the downstream channel (R282, R283, R306): it is that channel's job now, without declared
lengths (log 26). -/
def moveDown (s : State) (j : Nat) (b : Job) (d : Nat) (c : Channel) : State :=
  let s1 := returnFlows (updChannel s b.slot (fun x => { x with jobs := x.jobs.erase j })) b.slot
  let enters := decide (c.jobs.length < c.qdepth)
  let s2 := updChannel s1 d (fun x =>
    if enters then { x with jobs := x.jobs ++ [j], items := (x.items + 1) % 2 ^ 32 } else { x with waitJobs := x.waitJobs ++ [j] })
  updJob s2 j (fun y => { y with
    slot := d, stage := 0, ended := false, running := false, sinking := false, rerun := false, input := b.output
    output := [], windows := bindStages s b.tenant c, entered := enters, item := c.items, chainPos := b.chainPos + 1
    desc := { b.desc with inLen := [], outLen := [] } })

/-- The sink takes the output of the job at the head of its channel. -/
def sinkStep (s : State) (j : Nat) (b : Job) (c : Channel) : State :=
  if c.snk = snkChannel then
    match c.down with
    | none => failJob s j b stChanDestroyed 0 []
    | some d =>
      match channelAt s d with
      | some x => moveDown s j b d x
      | none => s
  else if c.snk = snkHost then (if servesTenant s b.tenant then finishJob s j b b.output.length b.output else s)
  else if c.snk = snkPool then
    let a := (c.pool.map (regionBase s)).getD 0 * 4096 + (if b.append then 0 else b.desc.snk0.toNat)
    finishJob { s with drc := { s.drc with dram := memWrite s.drc.dram a b.output } } j b b.output.length []
  else if sinkBusy s j then s
  else if segsDue b ≤ b.segs then
    match b.failed with
    | some st => failJob s j b st (Nat.min (b.segs * 1048576) b.output.length) []
    | none => finishJob s j b b.output.length []
  else if b.append && !((findCmd s b.cmd).map (·.assigned)).getD false then s
  else
    match nsUsable s c.snkParam b.tenant with
    | some n => placeSegment s j b c.snkParam n
    | none => failJob s j b stInvalidNs (Nat.min (b.segs * 1048576) b.output.length) []

/-- A job whose stage has ended passes on, fails, or comes to its sink (R304, R306). -/
def releaseJob (s : State) (j : Nat) (b : Job) (c : Channel) : State :=
  match b.failed with
  | some st =>
    if c.snk = snkHost then failJob s j b st b.output.length b.output
    else if c.snk = snkNamespace ∧ 1048576 < b.output.length then
      updJob s j (fun y => { y with ended := false, sinking := true, stage := b.stage + 1 })
    else failJob s j b st 0 []
  | none =>
    if b.stage + 1 < stageSteps c then
      updJob s j (fun y => { y with stage := b.stage + 1, ended := false, rerun := false, input := b.output, output := [] })
    else updJob s j (fun y => { y with ended := false, sinking := true, stage := b.stage + 1 })

/-- Whether every job that entered before has been released from a job's stage (R500). -/
def releaseTurn (s : State) (c : Channel) (j k : Nat) : Bool :=
  (jobsBefore c j).all (fun i =>
    match jobAt s i with
    | none => true
    | some e => decide (k < e.stage) || e.sinking)

/-- A job moved as far as its order lets it go. -/
def settleJob (s : State) (j : Nat) : State :=
  match jobAt s j with
  | none => s
  | some b =>
    match channelAt s b.slot with
    | none => s
    | some c =>
      let s1 := if b.ended && releaseTurn s c j b.stage then releaseJob s j b c else s
      match jobAt s1 j, channelAt s1 b.slot with
      | some x, some y => if x.sinking && y.jobs.head? == some j then sinkStep s1 j x y else s1
      | _, _ => s1

/-- The jobs of a channel moved on in entry order. -/
def settleChannel (s : State) (slot : Nat) : State :=
  match channelAt s slot with
  | none => s
  | some c => c.jobs.foldl settleJob s

/-- Every job that waits at its sink is tried again. -/
def resumeJobs (s : State) : State :=
  ((s.chn.jobs.filter (fun e => e.2.sinking)).map (·.1)).foldl settleJob s

/-! ### STAGE_END -/

/-- The output that a failed stage has delivered (R306): nothing unless it is the job's last stage, and nothing of an output
that is released only whole. -/
def partialOut (b : Job) (c : Channel) (whole : Bool) (r : StageOut) (st : Status) : List Byte :=
  if b.stage + 1 ≠ stageSteps c ∨ c.snk = snkChannel ∨ st = stEngineFault ∨ whole then []
  else
    let n := Nat.min r.out.length (if outLen b b.stage = 0xFFFFFFFF ∧ outMax b b.stage then r.out.length else outLen b b.stage)
    r.out.take (match b.cap with | some k => Nat.min n k | none => n)

/-- The stage of a job ends with its output or a failure, found in the order of R303 and R304. -/
def endStage (s : State) (j : Nat) (b : Job) (c : Channel) (d : StageDef) (r : StageOut) : State :=
  let last := b.stage + 1 = stageSteps c && c.snk ≠ snkChannel
  let tooMuch := last && (match b.cap with | some k => decide (k < r.out.length) | none => false)
  let staged := !c.stages.isEmpty
  let whole := d.kind = 5 || (d.kind = 3 && (parseLane (laneImage s b d).1).output = 1)
  let broken : Option Status :=
    if r.err.isSome then r.err
    else if staged && inTooShort b b.stage b.input.length then some stLengthMismatch
    else
      match (if staged then outBroken b b.stage r.out.length else none) with
      | some st => some st
      | none => if tooMuch then some stOutputSpace else none
  let s1 := stageEffects s j b d r
  let s2 := clearEngine s1 j b
  let own := b.failed.isNone || (b.im.map (·.done)).getD false
  let s3 := updJob s2 j (fun y => { y with
    running := false, ended := true
    failed := match b.failed with | some st => some st | none => broken
    failStage := if own && broken.isSome && staged then b.stage else b.failStage
    output := match (match b.failed with | some st => some st | none => broken) with
      | some st => partialOut b c whole r st
      | none => r.out })
  settleChannel (returnFlows s3 b.slot) b.slot

/-- An engine fault under a stage: one rerun of the stage from its start, then failure with 8Dh (R304, R305). -/
def faultStage (s : State) (j : Nat) (b : Job) (c : Channel) (d : StageDef) : State :=
  if b.rerun then
    endStage s j b c d { ok := true, out := [], err := some stEngineFault }
  else
    let s1 := raise (clearEngine s j b) evChn 1
    let s2 := updJob s1 j (fun y => { y with rerun := true, running := false, output := [] })
    match jobAt s2 j with
    | some x => beginStage s2 j x d
    | none => s2

/-- STAGE_END (R304): a stage ends when its engine has, or an engine fault strikes it. -/
def execStageEnd (job stage : Nat) (f : StageFinish) (s : State) : Out :=
  .next <| resumeCmds <|
    match jobAt s job with
    | none => s
    | some b =>
      match channelAt s b.slot with
      | none => s
      | some c =>
        let d := stageOf c stage
        if !b.running || b.stage ≠ stage then s
        else
          match f with
          | .engineFault => if b.failed.isSome then s else faultStage s job b c d
          | .normal =>
            if b.failed.isSome then
              endStage s job b c d { ok := true, out := [], err := if (b.im.map (·.done)).getD false then b.failed else none }
            else
              let r := stageOut s job b d
              if !r.ok || 0 < b.pend then s else endStage s job b c d r

/-- JOB_ENTER (R300): the job that has waited longest enters its channel when the channel has fewer than QDEPTH jobs. -/
def execJobEnter (job : Nat) (s : State) : Out :=
  .next <|
    match jobAt s job with
    | none => s
    | some b =>
      match channelAt s b.slot with
      | none => s
      | some c =>
        if c.waitJobs.head? ≠ some job ∨ c.qdepth ≤ c.jobs.length then s
        else
          let s1 := updChannel s b.slot (fun x => { x with
            jobs := x.jobs ++ [job], waitJobs := x.waitJobs.erase job, items := (x.items + 1) % 2 ^ 32 })
          updJob s1 job (fun y => { y with entered := true, item := c.items })

end Sys2Proof.Machine
end

