-- ==== Sys2Proof/Machine/Media.lean ====
section
/-! DEFINITION. The commands of the media bus (R87 to R122). -/

namespace Sys2Proof.Machine

/-- MED_EYE_CFG within its bounds. -/
def retrainPct (s : State) (ch : Nat) : Nat := within 15 45 (regFld s (medBase ch + 0xC) 0 8)
def floorPct (s : State) (ch : Nat) : Nat := within 10 (retrainPct s ch) (regFld s (medBase ch + 0xC) 8 8)

/-- The sample period of the eye monitor in ticks. -/
def eyePeriod (s : State) (ch : Nat) : Nat := Nat.max 10 (regFld s (medBase ch + 0xC) 16 16) * msTicks

/-! ### Training and the eye monitor -/

/-- A channel fully trained: at the best step it reaches, no faster than what a RATE_DROP since the start has left (R109), and at the
steps below it whose training is kept (R103), or, where it does not reach 800 MT/s, fenced with an entry of KIND 22h (R109). -/
def trainFully (s : State) (ch : Nat) (best : Option (BitVec 3)) : State :=
  match best with
  | none => fenceChannel (addFault s ch 0xFF 0x22 0xFF 0 0) ch
  | some r =>
    let s1 := updChan s ch (fun c => { c with st := chanActive, background := false, trained := if c.trained < r then c.trained else r })
    settleRate (((keptSteps s1 ch).filter (fun p => decide (p ≤ r.toNat))).foldl (fun t p => trainChan t ch p) s1) ch

/-- CHANNEL_BACKGROUND_TRAIN_END (R105): the channel returns to direct reads at the best step that its training reached. -/
def execChannelBackgroundTrainEnd (e : TrainEnd) (s : State) : Out :=
  if (chanAt s e.chan).background then .next (wantSettings (trainFully s e.chan e.best) []) else .next s

/-- EYE_SAMPLE (R106): every SAMPLE_MS MED_EYE_STATUS takes the margin; three consecutive samples below RETRAIN_PCT make a retraining due. -/
def execEyeSample (ch margin pin die : Nat) (s : State) : Out :=
  if (chanAt s ch).st ≠ chanActive || !isDue s (chanAt s ch).eyeAt (eyePeriod s ch) then .next s
  else
    let off := medBase ch + 0x10
    let s1 := setReg s off (dwordOf (place margin 0 8 + place pin 8 5 + place die 16 4 + place (regFld s off 24 8) 24 8))
    let low := if margin < retrainPct s ch then (chanAt s ch).low + 1 else 0
    .next (updChan s1 ch (fun c => { c with eyeAt := now s, low := if 3 ≤ low then 0 else low, due := c.due || decide (3 ≤ low) }))

/-- Whether a channel's bus is free for a training or a pin test: no grant is taken back (R111, R118). -/
def busFree (c : Chan) : Bool := c.holder.isNone && !c.pinRunning && c.st == chanActive

/-- Whether a channel is retraining: one at most (R107). -/
def someRetrains (s : State) : Bool := s.media.chans.any (fun e => e.2.st == chanRetraining)

/-- RETRAIN_START (R107): a due retraining starts between two operations on the bus while no other channel is retraining, at the
step that R93 gives. -/
def execRetrainStart (ch : Nat) (s : State) : Out :=
  let c := chanAt s ch
  if c.due && !someRetrains s && busFree c then
    .next (settleRate (updChan s ch (fun c => { c with st := chanRetraining, due := false })) ch)
  else .next s

/-- The steps down of a retraining (R109): at each step whose eye is below the floor, RATE_DROP and an entry of KIND 21h, and
at 800 MT/s a fence with KIND 22h. An eye not given reaches the floor. -/
def stepDown (ch : Nat) : Nat → List Nat → State → State
  | 0, eyes, s =>
    if (eyes.head?).getD 255 < floorPct s ch then fenceChannel (addFault s ch 0xFF 0x22 0xFF 0 0) ch else s
  | r + 1, eyes, s =>
    if (eyes.head?).getD 255 < floorPct s ch then
      let s1 := raise (addFault s ch 0xFF 0x21 0xFF 0 0) (evMed ch) 4
      let s2 := updChan s1 ch (fun c => { c with trained := BitVec.ofNat 3 r })
      stepDown ch r (eyes.drop 1) (wantFaultEvent s2)
    else s

/-- RETRAIN_END (R107, R109): the channel resumes, at a lower step where the floor was not reached; a pin test that became due
starts. `eyes` are the smallest eyes reached at the step in force and at each step below it. -/
def execRetrainEnd (ch : Nat) (eyes : List Nat) (s : State) : Out :=
  let c := chanAt s ch
  if c.st ≠ chanRetraining then .next s
  else
    let s1 := updChan s ch (fun c => { c with st := chanActive, low := 0, pinRunning := c.pinDue, pinDue := false })
    let off := medBase ch + 0x10
    let s2 := raise (setRegFld s1 off 24 8 (min 255 (regFld s1 off 24 8 + 1))) (evMed ch) 3
    let s3 := stepDown ch c.rate.toNat eyes s2
    if (chanAt s3 ch).st = chanFenced then .next s3
    else
      -- the values reached at the step on which the retraining ended, and the step that R93 gives now (R103, R110)
      let step := min c.rate.toNat (chanAt s3 ch).trained.toNat
      let s4 := updChan (trainChan s3 ch step) ch (fun c => { c with rate := BitVec.ofNat 3 step })
      .next (wantSettings (changeRate s4 ch) [])

/-! ### Pin tests (R111 to R113) -/

/-- A pin test starts on a free bus, and otherwise as soon as the bus is free, after a retraining where one is under way. -/
def startPinTest (s : State) (ch : Nat) : State :=
  let c := chanAt s ch
  if busFree c then updChan s ch (fun c => { c with pinRunning := true, pinAt := now s })
  else if chanServes c then updChan s ch (fun c => { c with pinDue := !c.pinRunning })
  else s

/-- PINTEST_INTERVAL in ticks within its bound. -/
def pinInterval (s : State) (ch : Nat) : Nat := Nat.max 10 (regFld s (medBase ch + 8) 16 8) * secTicks

/-- PINTEST_DUE (R111): the periodic test starts, an interval after the latest test. -/
def execPintestDue (ch : Nat) (s : State) : Out :=
  if bitOf (regAt s (medBase ch + 8)) 8 && decide ((chanAt s ch).pinAt + pinInterval s ch ≤ now s) then .next (startPinTest s ch)
  else .next s

/-- What a pin test finds, recorded (R112, R122): MED_PINTEST_RESULT, an entry of KIND 0Fh + class and PIN_FAULT, and for the
classes that fence, the fence. A class 7h fault of which the page holds an entry added since the start only shows in the
result. -/
def pinFound (s : State) (ch : Nat) (cls : BitVec 4) (pin other : BitVec 5) : State :=
  let s1 := setReg s (medBase ch + 0x20) (dwordOf (cls.toNat + place pin.toNat 4 5 + place (if cls = 1 then other.toNat else 0) 9 5))
  if cls = 0 || 8 ≤ cls.toNat then s1
  else if cls = 7 && s.media.faults.any (fun f => f.chan == ch && f.kind == 0x16 && f.fresh) then s1
  else
    let s2 := raise (addFault s1 ch 0xFF (0xF + cls.toNat) pin.toNat 0 0) (evMed ch) 2
    if cls = 7 then wantSettings s2 [] else fenceChannel s2 ch

/-- PINTEST_END (R112): the test that was running ends. A die that gave no status is reset when no fault was found (R182), and
step 5 of a read may start (R133). -/
def execPintestEnd (ch : Nat) (cls : BitVec 4) (pin other : BitVec 5) (s : State) : Out :=
  if !(chanAt s ch).pinRunning then .next s
  else
    let s1 := freePinWaits (updChan s ch (fun c => { c with
      pinRunning := false
      dies := c.dies.map (fun d => (d.1, if d.2.silent && cls = 0 then { d.2 with resets := 1, resetAt := now s } else d.2)) })) ch
    .next (pinFound s1 ch cls pin other)

/-- The open swaths that have a block in a media group. -/
def groupSwaths (s : State) (g : Nat) : List Swath :=
  s.ftl.swaths.filter (fun w => w.opened && w.members.any (fun m => m.1 / 256 == g))

/-- WPG_STUCK (R116): WPGg_N reads back low while it is driven high. Group g takes no more stripe pages, with an entry of
KIND 30h: the open swaths with a block there close. -/
def execWpgStuck (g : Nat) (s : State) : Out :=
  if s.media.excluded.getLsbD g || !s.power.wpg.getLsbD g then .next s
  else
    let s1 := { s with media := { s.media with excluded := s.media.excluded ||| BitVec.ofNat 8 (2 ^ g) } }
    let s2 := ((groupSwaths s1 g).map (·.id)).foldl closeSwath s1
    .next (wantFaultEvent (addFault s2 0xFFFF g 0x30 0xFF 0 0))

/-! ### Dies that do not answer (R182) -/

/-- DIE_STATUS_TIMEOUT (R111): a pin test starts. -/
def execDieStatusTimeout (ch die : Nat) (s : State) : Out :=
  if (dieAt s (ch * 16 + die)).st ≠ dieActive then .next s
  else
    .next (startPinTest (updDie s (ch * 16 + die) (fun d => { d with silent := true, resets := 0 })) ch)

/-- DIE_RESET_TIMEOUT (R182): a die that is not ready 10 ms after the first Reset receives a second; after the second it has failed. -/
def execDieResetTimeout (ch die : Nat) (s : State) : Out :=
  let n := ch * 16 + die
  let d := dieAt s n
  if d.st ≠ dieActive || !d.silent || d.resets = 0 || !elapsed s d.resetAt (10 * msTicks) then .next s
  else if d.resets = 1 then .next (updDie s n (fun d => { d with resets := 2, resetAt := now s }))
  else .next (failDie s n)

/-! ### Sharing the bus (R117 to R120) -/

/-- The rank of a die on its channel. -/
def dieRank (s : State) (ch die : Nat) : Nat := regFld s (medBase ch + 0x30 + die / 8 * 4) (die % 8 * 4) 4

/-- The requests that may be granted: while a hold is on, those of the die it is for, and the data transfers of operations already
started (R120). -/
def grantable (c : Chan) : List DieWait :=
  c.reqs.filter (fun r => c.hold.isNone || c.hold == some r.req.die || r.req.data)

/-- The strongest of the dies that may be granted. -/
def nextDie (s : State) (ch : Nat) (c : Chan) : Option Nat :=
  match (grantable c).map (·.req.die) with
  | [] => none
  | d :: ds => some (ds.foldl (fun a x => if dieRank s ch x < dieRank s ch a then x else a) d)

/-- The requests that come to wait: of active dies alone, since a stranger and a colliding die are never selected (R96, R102), and
one of each die. -/
def freshReqs (s : State) (ch : Nat) (c : Chan) (l : List BusRequest) : List DieWait :=
  (l.foldl (fun a r =>
    if (dieAt s (ch * 16 + r.die)).st = dieActive && r.die < 16 && !c.reqs.any (fun x => x.req.die == r.die)
      && !a.any (fun x => x.req.die == r.die) then a ++ [{ req := r, at_ := now s }] else a) [])

/-- A channel whose bus is granted to a die. -/
def grantDie (c : Chan) (d : Nat) : Chan :=
  { c with
    holder := some d, reqs := c.reqs.filter (fun r => r.req.die ≠ d), hold := if c.hold = some d then none else c.hold
    ops := c.ops + 1 }

/-- MEDIA_TRANSACTION_END (R117, R118): the requests in `arrivals` have come to wait, the bus is free, and the next transaction is
granted by rank. A pin test that is due takes the bus instead, and a retraining that may start finds it free (R107, R111). -/
def execMediaTransactionEnd (ch : Nat) (arrivals : List BusRequest) (s : State) : Out :=
  let c := chanAt s ch
  let c1 := { c with reqs := c.reqs ++ freshReqs s ch c arrivals, holder := none }
  if c.st ≠ chanActive then .next s
  else if c.pinRunning || (c.due && !c.pinDue && !someRetrains s) then .next (updChan s ch (fun _ => c1))
  else if c.pinDue then
    .next (updChan s ch (fun _ => { c1 with pinRunning := true, pinDue := false, pinAt := now s }))
  else
    match nextDie s ch c1 with
    | none => .next (updChan s ch (fun _ => c1))
    | some d => .next (updChan s ch (fun _ => grantDie c1 d))

/-- HOLD_US in ticks. -/
def holdTicks (s : State) (ch : Nat) : Nat := regFld s (medBase ch + 0x38) 0 16 * usTicks

/-- MEDIA_HOLD_EXPIRY (R120): a die whose request has waited HOLD_US holds the others until it is granted. -/
def execMediaHoldExpiry (ch die : Nat) (s : State) : Out :=
  let c := chanAt s ch
  if holdTicks s ch ≠ 0 && c.reqs.any (fun r => r.req.die == die && decide (r.at_ + holdTicks s ch ≤ now s)) && c.hold = none then
    .next (updChan s ch (fun c => { c with hold := some die }))
  else .next s

/-- DIE_TEMPERATURE_READ (R136). -/
def execDieTemperatureRead (ch die : Nat) (temp : Int) (s : State) : Out :=
  let n := ch * 16 + die
  if (dieAt s n).st = dieActive && (dieAt s n).params.hasTemp then .next (updDie s n (fun d => { d with temp := temp }))
  else .next s

end Sys2Proof.Machine
end

