-- ==== Sys2Proof/Machine/Scrub.lean ====
section
/-! DEFINITION. Decoding, the read ladder, DRAM and SRAM ECC, line remap and the Stipple (R123 to R153). -/

namespace Sys2Proof.Machine

/-! ### What a transfer brings (R126, R137, R192) -/

/-- Array reads counted in a block record. -/
def countReads (s : State) (k n : Nat) : State :=
  if (tabGet s.ftl.blocks k).isSome then updBlock s k (fun b => { b with reads := b.reads + n }) else s

/-- The array reads of a ladder step on the codeword's own die (R131). -/
def senses (step : Nat) : Nat := ([1, 2, 1, 4][step - 1]?).getD 0

/-- Whether a page has been programmed. -/
def pageProgrammed (s : State) (die block page : Nat) : Bool :=
  match swathOf s die block with
  | some w => decide (page < w.next)
  | none => false

/-- The codeword that a place holds once its sequence is removed (R125). -/
def wordOn (s : State) (key : Nat) : Option Codeword :=
  if (tabGet s.ftl.flash key).isSome then heldWord s key
  else if pageProgrammed s (keyDie (key / 32768)) (keyBlock (key / 32768)) (key / 4 % 8192) then some (fillerWord s key)
  else none

/-- Whether a codeword matches the entry that led to it (R192). -/
def matchesEntry (q : ReadReq) (w : Codeword) : Bool :=
  w.nsid == q.nsid && w.tenant == q.tenant && w.unit == q.unit && w.part == q.part

/-- What a transfer amounts to: a codeword decoded that matches its entry; one that does not match; a decoding failure with some
unsatisfied checks; a lane signature. -/
inductive ReadVerdict where
  | taken
  | other
  | undecoded (checks : Nat)
  | signature
deriving DecidableEq, Repr

/-- The verdict on a transfer: a zero syndrome counts only where the CRC field verifies (R126), and a lane signature at step 1
(R133). -/
def readVerdict (s : State) (q : ReadReq) (o : DecodeOutcome) : ReadVerdict :=
  match o with
  | .failed checks sig => if sig && q.step == 1 then .signature else .undecoded checks
  | .converged _ flips =>
    match wordOn s q.key with
    | none => .undecoded 0
    | some w => if !outputVerifies w flips then .undecoded 0 else if matchesEntry q w then .taken else .other

/-- The offsets of a set as a read keeps them: PCS_RTS_SET_t_s_0 to _3 (R138). -/
def setOffsets (q : ReadReq) (set : Nat) : List Dword := (List.range 4).map (fun i => tabAt 0 q.sets (16 * set + 4 * i))

/-- The set of a hard read put in force on its die with Set Features by LUN, unless it is so already (R137). After the senses of
steps 2 and 4 no set is (DEDUCED, log 130). -/
def applySet (s : State) (die : Nat) (q : ReadReq) : State :=
  let want := if q.step = 1 ∨ q.step = 3 then some (q.cur, setOffsets q q.cur) else none
  if (dieAt s die).rts = want then s else updDie s die (fun d => { d with rts := want })

/-! ### The ladder (R131 to R135, R181) -/

/-- The sets that step 3 tries after set s: s + 1, s − 1 and s + 2 within 0 to 15. -/
def nearSets (s : Nat) : List Nat := ([s + 1] ++ (if s = 0 then [] else [s - 1]) ++ [s + 2]).filter (fun n => decide (n < 16))

/-- The set that left the fewest unsatisfied checks; of equals the one tried first (DEDUCED, log 130). -/
def fewest (l : List (Nat × Nat)) (d : Nat) : Nat :=
  match l with
  | [] => d
  | x :: xs => (xs.foldl (fun a b => if b.2 < a.2 then b else a) x).1

/-- A read that has failed a step takes the next (R131): after step 4, step 5. -/
def climb (q : ReadReq) (checks : Nat) : ReadReq :=
  let q1 := if q.step = 1 ∨ q.step = 3 then { q with tried := q.tried ++ [(q.cur, checks)] } else q
  let third (l : List Nat) : ReadReq :=
    match l with
    | n :: rest => { q1 with step := 3, cur := n, left := rest }
    | [] => { q1 with step := 4, cur := fewest q1.tried q1.base }
  match q.step with
  | 1 => { q1 with step := 2 }
  | 2 => third (nearSets q.base)
  | 3 => third q.left
  | _ => { q1 with step := 5 }

/-- A read replaced by what it has become, and a read that is over. -/
def putRead (s : State) (q r : ReadReq) : State := { s with ftl := { s.ftl with reads := s.ftl.reads.erase q ++ [r] } }
def endRead (s : State) (q : ReadReq) : State := { s with ftl := { s.ftl with reads := s.ftl.reads.erase q } }

/-- A codeword decoded at a ladder step: LADDER_k, the override where step 3 or 4 has used a set that R137 had not chosen, and a
failing block at step 5. -/
def ladderSuccess (s : State) (q : ReadReq) : State :=
  let k := q.key / 32768
  let h := s.ftl.health
  let s1 := { s with ftl := { s.ftl with health := { h with ladder := tabUpd 0 h.ladder (q.step - 1) (· + 1) } } }
  let s2 :=
    if (q.step = 3 || q.step = 4) && q.cur ≠ q.chosen && (tabGet s.ftl.blocks k).isSome then
      updBlock s1 k (fun b => { b with override := some q.cur, overrideBin := ageBin s b })
    else s1
  if 5 ≤ q.step then failBlock s2 (keyDie k) (keyBlock k) true else s2

/-- The unit that a codeword belongs to, when its entry still names it. -/
def ownerUnit (s : State) (key : Nat) : Option Nat :=
  match tabGet s.ftl.flash key with
  | none => none
  | some w =>
    let k := unitKey w.nsid w.unit
    if w.kind = 0 && (cwKeys (entryAt s k)).contains key && eKind (entryAt s k) = 1 then some k else none

/-- A codeword that step 5 could not recover either (R134): counted, PCS_EVENT.FLASH_UNRECOVERED, its block failing where it had
been read there (R181), and its unit recorded as a deferred write error of cause 03h, unless it is so already. -/
def unrecovered (s : State) (key : Nat) (there : Bool) : State :=
  let h := s.ftl.health
  let s1 := raise { s with ftl := { s.ftl with health := { h with unrecovered := h.unrecovered + 1 } } } evPcs 7
  let s2 := if there then failBlock s1 (keyDie (key / 32768)) (keyBlock (key / 32768)) true else s1
  match ownerUnit s2 key with
  | some k => if ePoison (entryAt s2 k) = 0 && canRecord s2 then deferUnit s2 k 3 else s2
  | none => s2

/-- A job's codeword has arrived, or could not be recovered: one of its source fails the job (R134, R304), one of a merge at
its sink poisons the rest of its unit (R156). -/
def jobCodeword (s : State) (j : Nat) (failed : Bool) (w : Option Codeword) : State :=
  match tabGet s.chn.jobs j with
  | none => s
  | some b =>
    if b.sinking then
      let s1 := { s with chn := { s.chn with jobs := tabPut s.chn.jobs j { b with sinkPend := b.sinkPend - 1 } } }
      match failed, w with
      | true, some cw =>
        match tabGet s.ftl.namespaces cw.nsid with
        | some n => poisonRest s1 (fun x => x.job == some j) n (segRange b n).1 (segRange b n).2 cw
        | none => s1
      | _, _ => s1
    else
      let b1 := { b with pend := b.pend - 1, failed := if failed && b.failed.isNone then some stUnrecovered else b.failed }
      let last := b.pend = 1
      let s1 := if last then releaseHolds s b.blocks b.slots else s
      { s1 with chn := { s1.chn with
          jobs := tabPut s1.chn.jobs j (if last then { b1 with blocks := [], slots := [] } else b1) } }

/-- A read over, and its outcome told to what asked for it; the word names the unit and the part that it was to bring. -/
def readAnswer (s : State) (q : ReadReq) (failed : Bool) : State :=
  let w : Codeword := { zeroWord with nsid := q.nsid, tenant := q.tenant, unit := q.unit, part := q.part }
  match q.owner with
  | .cmd id => codewordArrived (endRead s q) id failed (some w)
  | .job j => jobCodeword (endRead s q) j failed (some w)
  | .patrol | .gleaner | .mapPage _ _ _ => endRead s q

/-- Step 5 (R131): the XOR of the 31 other pages of the stripe, read on their dies; its CRC must verify, and it must match its
entry. `there` says that the codeword has been read at its place before, so that this is its ladder's step. Nothing happens while
a page of the stripe cannot be read yet. -/
def stepFive (s : State) (q : ReadReq) (o : DecodeOutcome) (there : Bool) : State :=
  if matesHeld s q.key then s
  else
    let s1 := ((stripeMates s q.key).getD []).foldl (fun t k => countReads t (k / 32768) 1) s
    let good := (match o with
      | .converged _ _ => true
      | .failed _ _ => false) && ((reconstructed s q.key).map (matchesEntry q)).getD false
    readAnswer (if good then (if there then ladderSuccess s1 { q with step := 5 } else s1) else unrecovered s1 q.key there) q (!good)

/-- A page that has failed every set (R133): the pin test starts, and step 5 waits for its end. -/
def awaitPinTest (s : State) (q : ReadReq) : State :=
  let ch := keyDie (q.key / 32768) / 16
  let s1 := startPinTest s ch
  putRead s1 q { q with step := 5, pinWait := (chanAt s1 ch).pinRunning || (chanAt s1 ch).pinDue }

/-- A read at the end of a transfer, with `n` array reads to be counted. A codeword whose die cannot be read at its place is
reconstructed; one whose channel is not at hand waits. -/
def readResult (s : State) (q : ReadReq) (n : Nat) (o : DecodeOutcome) : State :=
  let die := keyDie (q.key / 32768)
  if 5 ≤ q.step then (if q.pinWait || !s.power.tested then s else stepFive s q o true)
  else
    match readWay s die with
    | .held => s
    | .stripe => stepFive s q o false
    | .direct =>
      let s1 := applySet (countReads s (q.key / 32768) n) die q
      match readVerdict s q o with
      | .taken => readAnswer (ladderSuccess s1 q) q false
      | .other => putRead s1 q { q with step := 5 }
      | .signature => awaitPinTest s1 q
      | .undecoded c => if 4 ≤ q.step then awaitPinTest s1 q else putRead s1 q (climb q c)

/-- The read of a codeword for the device itself: a map page matches by its index and level (R192); what the Gleaner and the Stipple
read is led to by no entry. -/
def ownRead (s : State) (who : ReadFor) (key : Nat) : ReadReq :=
  match who with
  | .mapPage _ level index => newRead s who 0 0 index level key
  | _ =>
    let w := (wordOn s key).getD zeroWord
    newRead s who w.nsid w.tenant w.unit w.part key

/-- The read that a transfer belongs to: one in flight, or one that the device starts for itself now. -/
def readOf (s : State) (who : ReadFor) (key : Nat) : Option ReadReq :=
  match s.ftl.reads.find? (fun q => q.key == key && q.owner == who), who with
  | some q, _ => some q
  | none, .cmd _ | none, .job _ => none
  | none, _ => some (ownRead s who key)

/-- PAGE_READ_DONE (R131): a transfer ends, and its codeword goes to decoding. It decodes, or the read climbs the ladder. A
transfer that belongs to no read changes nothing. -/
def execPageReadDone (r : PageRead) (s : State) : Out :=
  let key := cwKey r.die r.block r.page r.cw
  match readOf (freshOverride s (key / 32768)) r.purpose key with
  | some q =>
    .next (readResult (if s.ftl.reads.contains q then s else freshOverride s (key / 32768)) q (senses q.step) r.outcome)
  | none => .next s

/-! ### The Stipple on flash (R150 to R153) -/

/-- Whether the Stipple runs: not in PS3 or PS4 (R153), not before the checkers have passed their tests (R147), not after the loss
of both Etch dies (R613). -/
def stippleRuns (s : State) : Bool := s.power.started && s.power.tested && s.power.pstate < 3 && !s.ftl.stopped

/-- The order of the flash pass: by block and page, and within them die by die, so that it is spread over all channels (DESIGN
CHOICE, log 131). -/
def patrolKey (m : Nat × Nat) (page : Nat) : Nat := (m.2 * 8192 + page) * 2048 + m.1

/-- Whether a block is patrolled: it is not being erased, and its die can be read. -/
def patrolled (s : State) (m : Nat × Nat) : Bool :=
  let st := (blockAt s (blockKey m.1 m.2)).st
  (st == blkOpen || st == blkClosed || st == blkFailing) && !dieLost s m.1

/-- The blocks that the flash pass covers, with the pages programmed of each. -/
def patrolBlocks (s : State) : List ((Nat × Nat) × Nat) :=
  (s.ftl.swaths.map (fun w => (w.members.filter (patrolled s)).map (fun m => (m, w.next)))).foldl (· ++ ·) []

/-- The pages that the pass covers. -/
def patrolPages (s : State) : Nat := (patrolBlocks s).foldl (fun a b => a + b.2) 0

/-- The first page of the pass at or after a position: its place and its key. -/
def patrolFrom (s : State) (pos : Nat) : Option ((Nat × Nat) × Nat) :=
  let first (b : (Nat × Nat) × Nat) : Option ((Nat × Nat) × Nat) :=
    let page := (List.range b.2).find? (fun p => decide (pos ≤ patrolKey b.1 p))
    page.map (fun p => (b.1, p))
  ((patrolBlocks s).filterMap first).foldl (fun a x =>
    match a with
    | none => some x
    | some y => if patrolKey x.1 x.2 < patrolKey y.1 y.2 then some x else a) none

/-- The page that the Stipple reads next: behind the last one the pass begins again. -/
def nextPatrol (s : State) : Option ((Nat × Nat) × Nat) :=
  match patrolFrom s s.pcs.patrol with
  | some p => some p
  | none => patrolFrom s 0

/-- Picoseconds of bus time for a page: its bytes at the channel's rate, and 55 ns (R93). -/
def rateMts (step : Nat) : Nat := ([800, 1600, 2400, 3600, 4800, 6400, 8000][step]?).getD 800
def pageBusPs (s : State) (die : Nat) : Nat :=
  (dieAt s die).params.pageBytes * 1000000 / rateMts (chanAt s (die / 16)).rate.toNat + 55000

/-- PCS_SCRUB_CFG and PCS_SCRUB_CFG2: the passes in ticks, and the cap in percent. -/
def dramPass (s : State) : Nat := Nat.max 1 (regFld s 0xA00040 0 16) * 3600 * secTicks
def flashPass (s : State) : Nat := Nat.max 1 (regFld s 0xA00040 16 16) * 3600 * secTicks
def flashCap (s : State) : Nat := within 1 20 (regFld s 0xA00044 8 8)

/-- The ticks that the flash pass takes at the cap on the channel that has the most to read (R150). -/
def flashNeed (s : State) : Nat :=
  let on (ch : Nat) : Nat :=
    ((patrolBlocks s).filter (fun b => b.1.1 / 16 == ch)).foldl (fun a b => a + b.2 * pageBusPs s b.1.1) 0
  (setOfNats ((patrolBlocks s).map (fun b => b.1.1 / 16))).foldl (fun m ch => Nat.max m (on ch * 100 / flashCap s / 1000)) 0

/-- Whether the cap keeps the pass from ending in time, and the ticks between two patrol reads: the pass is evenly paced, at the cap
where that is slower (R150). -/
def flashLags (s : State) : Bool := decide (flashPass s < flashNeed s)
def patrolGap (s : State) : Nat := Nat.max (flashPass s) (flashNeed s) / Nat.max 1 (patrolPages s)

/-- Whether a patrol read makes its block a refresh candidate (R152). -/
def refreshDueFor (s : State) (b : BlockRec) (v : ReadVerdict) (o : DecodeOutcome) : Bool :=
  let days := regFld s 0xA00044 16 16
  let bits := match o with
    | .converged n _ => n
    | .failed _ _ => 0
  v ≠ .taken || decide (regFld s 0xA00044 0 8 < bits)
    || (decide (0 < days) && decide (days * 86400 < now s / secTicks - b.progTime))

/-- One codeword of a patrol read; its data is discarded (R151), and its block may become a refresh candidate. Of the page's four
the first counts the array read. -/
def patrolWord (die block page : Nat) (os : List DecodeOutcome) (s : State) (i : Nat) : State :=
  match os[i]? with
  | none => s
  | some o =>
    let q := ownRead s .patrol (cwKey die block page i)
    let due := refreshDueFor s (blockAt s (blockKey die block)) (readVerdict s q o) o
    let s1 := readResult s q (if i = 0 then 1 else 0) o
    if due then addWork s1 { prio := 4, die := die, block := block, whole := false } else s1

/-- STIPPLE_PATROL_READ (R150): the next page of the pass is read, once its time has come, and its codewords go to decoding, the first
with outcome `o`; FLASH_LAG and SCRUB_LAG report that the cap keeps the pass from ending in time. -/
def execStipplePatrolRead (die block page : Nat) (o : DecodeOutcome) (rest : List DecodeOutcome) (s : State) : Out :=
  let due := s.pcs.patrolAt = 0 || decide (s.pcs.patrolAt + patrolGap s ≤ now s)
  if !stippleRuns s || !chanServed s (die / 16) || nextPatrol s ≠ some ((die, block), page) || !due || readWay s die ≠ .direct then .next s
  else
    let lag := flashLags s
    let s1 := raiseIf (lag && !s.pcs.flashLag)
      { s with pcs := { s.pcs with flashLag := lag, patrol := patrolKey (die, block) page + 1, patrolAt := now s } } evPcs 8
    .next ((List.range 4).foldl (patrolWord die block page (o :: rest)) (freshOverride s1 (blockKey die block)))

/-- PATROL_POSITION_SAVE (R153): every 10 minutes the flash patrol position goes to the settings store. Before a start has settings in force there
is nothing to save. -/
def execPatrolPositionSave (s : State) : Out :=
  if !s.power.started || !isDue s s.pcs.savedAt (600 * secTicks) then .next s
  else
    let s1 := { s with pcs := { s.pcs with patrolSaved := s.pcs.patrol, savedAt := now s } }
    .next (if canSave s then wantSettings s1 [] else s1)

/-! ### DRAM ECC and line remap (R139 to R145, R149) -/

/-- The key of a DRAM line, of a device on its rank and subchannel, and of the mark of a rank and subchannel. -/
def lineKey (ch line : Nat) : Nat := ch * 2 ^ 40 + line
def markKey (ch rank sub : Nat) : Nat := (ch * 2 + rank) * 2 + sub
def deviceKeyOf (ch rank sub dev : Nat) : Nat := markKey ch rank sub * 16 + dev

/-- The DRAM channels in use, rising (R527, R528). -/
def dramInUse (s : State) : List Nat := tabKeys (fun c => c.st == 2 || c.st == 3) s.drc.chans

/-- The DRAM address of a line of a channel: unit u lies on the (u mod n)-th channel in use (R528); the lines of a unit in
ascending order (log 25). -/
def lineAddress (s : State) (ch line : Nat) : Nat :=
  let used := dramInUse s
  let n := used.length
  let i := used.idxOf ch
  (line / 64 * n + i) * 4096 + line % 64 * 64

/-- The channel's own number of a line of the DRAM, numbered by its address (R528). -/
def channelLine (s : State) (l : Nat) : Nat := l / 64 / Nat.max 1 (dramInUse s).length * 64 + l % 64

/-- An enabled DRAM region that holds an address. -/
def regionAt (s : State) (a : Nat) : Option (Nat × Region) :=
  s.tenants.regions.find? (fun r => r.2.space == 0 && decide (r.2.base ≤ a / 4096) && decide (a / 4096 ≤ r.2.last))

/-- PCS_REMAP_CFG.THRESHOLD within its bounds. -/
def remapThreshold (s : State) : Nat := within 2 15 (regFld s 0xA0004C 0 4)

/-- Spare lines used on a DRAM channel. -/
def sparesUsed (s : State) (ch : Nat) : Nat := (s.pcs.remapDram.filter (fun e => e.1 / 2 ^ 40 == ch)).length

/-- A correctable error on a line counted: the remap starts at THRESHOLD, or the line stays with ECC when the channel has no
spare left (R143, R145). -/
def countLineError (s : State) (ch line : Nat) : State :=
  let key := lineKey ch line
  let n := tabAt 0 s.pcs.lineErrs key + 1
  let s1 := { s with pcs := { s.pcs with lineErrs := tabPut s.pcs.lineErrs key n } }
  if n < remapThreshold s || (tabGet s.pcs.remapDram key).isSome || s.pcs.copying.contains key || s.pcs.remapFull.contains key
  then s1
  else if sparesUsed s ch + (s.pcs.copying.filter (fun k => k / 2 ^ 40 == ch)).length < 32 then
    { s1 with pcs := { s1.pcs with copying := s1.pcs.copying ++ [key] } }
  else raise { s1 with pcs := { s1.pcs with remapFull := s1.pcs.remapFull ++ [key] } } evPcs 4

/-- Errors confined to one device on a line: 16 distinct lines in one pass mark the device (R140), a fault that
stays open until the device is replaced (R46). PCS_DRAM_MARK holds one device of a rank and subchannel: a second one that reaches 16
lines is not marked, and the first keeps its mark (DESIGN CHOICE, log 128). -/
def countDeviceLine (s : State) (ch rank sub dev line : Nat) : State :=
  let key := deviceKeyOf ch rank sub dev
  let ls := tabAt [] s.pcs.devLines key
  let ls1 := if ls.contains line then ls else ls ++ [line]
  let s1 := { s with pcs := { s.pcs with devLines := tabPut s.pcs.devLines key ls1 } }
  if 16 ≤ ls1.length && (tabGet s.pcs.marks (markKey ch rank sub)).isNone then
    let s2 := { s1 with pcs := { s1.pcs with marks := tabPut s1.pcs.marks (markKey ch rank sub) dev } }
    wantFaultEvent (raise s2 evPcs 2)
  else s1

/-- The job whose stage buffer lies in a region. -/
def bufferJob (s : State) (i : Nat) : Option (Nat × Job) := s.chn.jobs.find? (fun e => e.2.running && e.2.regions.contains i)

/-- A lost line of a stage buffer or of a result pool (R142): the stage whose buffer it is has one rerun and then fails with 8Dh
(R305), and the job at whose channel's pool it lies fails with 8Dh. -/
def strikeRegion (s : State) (i : Nat) : State :=
  match bufferJob s i with
  | some (j, b) =>
    match channelAt s b.slot with
    | some c => if b.failed.isSome then s else faultStage s j b c (stageOf c b.stage)
    | none => s
  | none =>
    match s.chn.slots.find? (fun e => e.2.pool == some i) with
    | none => s
    | some (slot, c) =>
      match c.jobs.head? with
      | none => s
      | some j => settleChannel (updJob s j (fun y => { y with failed := if y.failed.isNone then some stEngineFault else y.failed })) slot

/-- An uncorrectable DRAM line (R142): PCS_EVENT.DRAM_UE and its counter; a line of a tenant's region strikes the job that owns it,
and is remembered until its next access meets it (R516); any other line is reloaded from its durable copy. -/
def dramUe (s : State) (a : Nat) : State :=
  let h := s.ftl.health
  let s1 := raise { s with ftl := { s.ftl with health := { h with dramUe := h.dramUe + 1 } } } evPcs 5
  match regionAt s a with
  | none => s1
  | some (i, _) =>
    strikeRegion (if s.pcs.uePending.contains (a / 64) then s1
      else { s1 with pcs := { s1.pcs with uePending := s1.pcs.uePending ++ [a / 64] } }) i

/-- What the Reed-Solomon code makes of a line (R139, R140): no error; errors of the marked device alone; errors corrected, with the
one device that they are confined to; a line that it cannot correct. -/
inductive LineVerdict where
  | clean
  | marked
  | corrected (dev : Option Nat)
  | lost
deriving DecidableEq, Repr

/-- The 16 check bytes correct the errors of one device, or 8 symbols anywhere; of a marked device the symbols are erasures, and 4
further symbols are corrected. -/
def lineVerdict (mark : Option Nat) (errs : List (Nat × Nat)) : LineVerdict :=
  let syms := setOfNats ((errs.filter (fun e => decide (e.1 < 10) && decide (e.2 < 8))).map (fun e => e.1 * 8 + e.2))
  let devs := setOfNats (syms.map (· / 8))
  let one : Option Nat := if devs.length = 1 then devs.head? else none
  let others := syms.filter (fun x => mark ≠ some (x / 8))
  if syms.isEmpty then .clean
  else if others.isEmpty then .marked
  else if mark.isSome then (if others.length ≤ 4 then .corrected one else .lost)
  else if one.isSome || decide (others.length ≤ 8) then .corrected one
  else .lost

/-- What a read of a DRAM line meets (R139 to R143). -/
def lineFound (s : State) (ch line : Nat) (f : LineFinding) : State :=
  let rank := f.rank % 2
  let sub := f.subch % 2
  let h := s.ftl.health
  let s1 := { s with ftl := { s.ftl with health := { h with dramCorrected := h.dramCorrected + 1 } } }
  match lineVerdict (tabGet s.pcs.marks (markKey ch rank sub)) f.errs with
  | .clean => s
  | .marked => s1
  | .corrected (some d) => countLineError (countDeviceLine s1 ch rank sub d line) ch line
  | .corrected none => countLineError s1 ch line
  | .lost => dramUe s (lineAddress s ch line)

/-- Lines of the DRAM in use, and the ticks between two reads of the walk, which is evenly paced (R149). -/
def dramLines (s : State) : Nat := dramBytes s / 64
def dramGap (s : State) : Nat := dramPass s / Nat.max 1 (dramLines s)

/-- A pass over the DRAM begins at line 0: the counts of the pass start again (R140, R143). -/
def newPass (s : State) : State :=
  { s with pcs := { s.pcs with devLines := [], lineErrs := [], dramStart := now s, dramLag := false } }

/-- STIPPLE_DRAM_READ (R149, R150): the next line of the walk is read and corrected in place, once its time has come; no other access
comes between. A line that is being copied waits (R144). DRAM_LAG and SCRUB_LAG report a pass that has not ended in time. -/
def execStippleDramRead (ch line : Nat) (place : LinePlace) (errs : List (Nat × Nat)) (s : State) : Out :=
  let due := s.pcs.dramAt = 0 || decide (s.pcs.dramAt + dramGap s ≤ now s)
  if !stippleRuns s || !(dramInUse s).contains ch || !servesTenant s 0 || lineAddress s ch line ≠ 64 * s.pcs.dramPos || !due
      || s.pcs.copying.contains (lineKey ch line) then .next s
  else
    let s1 := if s.pcs.dramPos = 0 then newPass s else s
    let lag := decide (s1.pcs.dramStart + dramPass s < now s)
    let s2 := raiseIf (lag && !s1.pcs.dramLag)
      { s1 with pcs := { s1.pcs with
          dramPos := (s.pcs.dramPos + 1) % Nat.max 1 (dramLines s), dramAt := now s, dramLag := lag } } evPcs 8
    .next (lineFound s2 ch line { place with errs := errs })

/-- The copy of a DRAM line ends: the line lives in its spare; PCS_EVENT.REMAP_DONE (R144). -/
def dramCopied (ch line : Nat) (s : State) : State :=
  let key := lineKey ch line
  if !s.pcs.copying.contains key then s
  else
    let s1 := { s with pcs := { s.pcs with
        copying := s.pcs.copying.erase key, lineErrs := tabDel s.pcs.lineErrs key
        remapDram := tabPut s.pcs.remapDram key (sparesUsed s ch) } }
    wantSettings (raise s1 evPcs 3) []

/-- Spare lines used of an SRAM macro group; PCS.remapSram holds a line under 16 × group + spare. -/
def sramSpares (s : State) (g : Nat) : Nat := (s.pcs.remapSram.filter (fun e => e.1 / 16 == g)).length

/-- What the SEC-DED code makes of a word (R141): one bit wrong is corrected and counted, two are detected, and the word is lost. -/
def sramWord (s : State) (bits : Nat) : State :=
  let h := s.ftl.health
  if bits = 0 then s
  else if bits = 1 then { s with ftl := { s.ftl with health := { h with sramCorrected := h.sramCorrected + 1 } } }
  else sramWordLost s

/-- A line of an SRAM macro group, with the bits wrong in the words that its accesses of the pass met (R141, R143): at THRESHOLD
correctable errors the line moves into one of the group's 16 spares in one step, or stays with ECC when none is left (R145). -/
def sramCopied (g line : Nat) (bits : List Nat) (s : State) : State :=
  let s1 := bits.foldl sramWord s
  let errors := (bits.filter (· == 1)).length
  let left := lineKey (8 + g) line
  if errors < remapThreshold s || s.pcs.remapSram.any (fun e => e.1 / 16 == g && e.2 == line) || s.pcs.remapFull.contains left
  then s1
  else if sramSpares s g < 16 then
    let s2 := { s1 with pcs := { s1.pcs with remapSram := tabPut s1.pcs.remapSram (16 * g + sramSpares s g) line } }
    wantSettings (raise s2 evPcs 3) []
  else raise { s1 with pcs := { s1.pcs with remapFull := s1.pcs.remapFull ++ [left] } } evPcs 4

/-- LINE_REMAP_COPY_DONE (R143, R144). -/
def execLineRemapCopyDone (line : RemapLine) (s : State) : Out :=
  match line with
  | .dram ch l => .next (dramCopied ch l s)
  | .sram g l n => if !s.power.started then .next s else .next (sramCopied g l n s)

end Sys2Proof.Machine
end

