-- ==== Sys2Proof/Machine/Operands.lean ====
section
/-! DEFINITION. The operands of Imlas-36: registers, W-space and B-space, read and written in one place each (R436 to
R447). -/

namespace Sys2Proof.Machine

/-! ### Registers (R436, R437) -/

/-- A general register; G0 reads as zero (R436). -/
def gReg (x : Desc) (n : BitVec 5) : W36 := if n = 0 then 0 else tabAt 0 x.g n.toNat

/-- A general register written; a write to G0 is discarded (R436). -/
def setGReg (x : Desc) (n : BitVec 5) (w : W36) : Desc := if n = 0 then x else { x with g := tabSet 0 x.g n.toNat w }

/-- A thread's register, and the state with one written. -/
def rd (s : State) (t : Nat) (n : BitVec 5) : W36 := gReg (descAt s t) n
def wr (s : State) (t : Nat) (n : BitVec 5) (w : W36) : State := updDesc s t (fun x => setGReg x n w)

/-- The value of a thread's register. -/
def rv (s : State) (t : Nat) (n : BitVec 5) : Dword := wVal (rd s t n)

/-- The state with a thread's FL replaced. -/
def wrFl (s : State) (t : Nat) (fl : W36) : State := updDesc s t (fun x => { x with fl := fl })

/-- Whether a thread runs in supervisor mode (R435). -/
def supMode (s : State) (t : Nat) : Bool := (descAt s t).fl.getLsbD 8

/-- A value as a word of quality 0h. -/
def word0 (v : Dword) : W36 := mkW 0 v

/-! ### W-space (R442, R443) -/

/-- Where a W-space address leads: a word of the core's local memory or of cluster memory, a fault, or an access that the
region table denies. -/
inductive WLoc where
  | core (k : Nat)
  | cluster (k : Nat)
  | fault
  | denied
deriving DecidableEq, Repr

/-- A word of cluster memory in a segment, checked by the region table (R443, R513). -/
def segLoc (s : State) (b : Job) (m : ImStage) (base off : Nat) (x : Right) : WLoc :=
  let u := (base + off) / 64
  if accessOk s b.tenant (8 + m.island) u u x then .cluster (m.island * 2 ^ 20 + base + off) else .denied

/-- The W-space map of a thread (R442). -/
def wLoc (s : State) (t : Nat) (addr : Dword) (x : Right) : WLoc :=
  let a := addr.toNat
  if supMode s t then
    if a < 0x20000 then .core ((coreRunning s t).getD 0 * 2 ^ 17 + a)
    else if 0x100000 ≤ a ∧ a < 0x200000 then .cluster ((descAt s t).island * 2 ^ 20 + (a - 0x100000))
    else .fault
  else
    match imOf s t with
    | none => .fault
    | some (b, m) =>
      if 0x200000 ≤ a ∧ a < 0x200000 + m.codeLen then
        (if x = .write then .fault else segLoc s b m m.codeBase (a - 0x200000) x)
      else if 0x400000 ≤ a ∧ a < 0x400000 + m.dataLen then
        (if x = .exec then .fault else segLoc s b m m.dataBase (a - 0x400000) x)
      else if 0x600000 ≤ a ∧ a < 0x600000 + m.stackLen then
        (if x = .exec then .fault
         else segLoc s b m ((m.stackBases[(descAt s t).index]?).getD 0) (a - 0x600000) x)
      else .fault

/-- The word at a place, and the state with it written. -/
def readLoc (s : State) : WLoc → W36
  | .core k => tabAt 0 s.sch.locals k
  | .cluster k => tabAt 0 s.sch.cluster k
  | _ => 0
def writeLoc (s : State) (l : WLoc) (w : W36) : State :=
  match l with
  | .core k => { s with sch := { s.sch with locals := tabSet 0 s.sch.locals k w } }
  | .cluster k => { s with sch := { s.sch with cluster := tabSet 0 s.sch.cluster k w } }
  | _ => s

/-- An uncorrectable word of SRAM (R142): PCS_EVENT.SRAM_UE; in a tenant's segment the 64-byte line, 8 words, is zeroed
(R516). -/
def sramUe (s : State) (t : Nat) (l : WLoc) : State :=
  let s1 := sramWordLost s
  match l with
  | .cluster k =>
    if supMode s t then s1
    else
      let c := s1.sch.cluster.filter (fun e => decide (e.1 < k / 8 * 8) || decide (k / 8 * 8 + 8 ≤ e.1))
      raise { s1 with sch := { s1.sch with cluster := c } } evTnt 3
  | _ => s1

/-! ### B-space (R445 to R447) -/

/-- Where a B-space access leads: the stage's input, its output buffer, DRAM at an address, or a stop. -/
inductive BLoc where
  | input (off : Nat)
  | output (off : Nat)
  | dram (a : Nat)
  | fault
  | denied
  | space
deriving DecidableEq, Repr

/-- An access of `n` bytes in a region bound to a window (R445, R513). -/
def regionLoc (s : State) (tenant : Nat) (idx : Nat) (mayWrite : Bool) (off n : Nat) (x : Right) : BLoc :=
  match tabGet s.tenants.regions idx with
  | none => .denied
  | some r =>
    let size := (r.last + 1 - r.base) * 4096
    if r.space ≠ 0 || (x == .write && !mayWrite) || !hasRight r x then .fault
    else if size < off + n then .fault
    else if accessOk s tenant 0 (r.base + off / 4096) (r.base + (off + n - 1) / 4096) x then .dram (r.base * 4096 + off)
    else .denied

/-- The window of a B-space access of `n` bytes (R445, R447). -/
def bLoc (s : State) (t win off n : Nat) (x : Right) : BLoc :=
  if supMode s t then
    match ((descAt s t).wins.find? (fun w => w.1 == win)) with
    | some (_, idx, w) => regionLoc s 0 idx w off n x
    | none => .fault
  else
    match imOf s t with
    | none => .fault
    | some (b, m) =>
      if win = 0 then (if x = .write then .fault else .input off)
      else if win = 1 then
        if off + n ≤ m.outCap then .output off else if x = .write then .space else .fault
      else
        match m.windows.find? (fun w => w.1 == win) with
        | some (_, idx, w) => regionLoc s b.tenant idx w off n x
        | none => .fault

/-- `n` bytes at a place, and whether one of them lies past the end of the input (R446). -/
def bGet (s : State) (t : Nat) (l : BLoc) (n : Nat) : List Byte × Bool :=
  match l with
  | .input off =>
    let inp := ((imOf s t).map (fun p => p.1.input)).getD []
    (sliceOf inp off n, decide (inp.length < off + n))
  | .output off => (memRead (((imOf s t).map (fun p => p.2.out)).getD []) off n, false)
  | .dram a => (memRead s.drc.dram a n, false)
  | _ => (zeros n, false)

/-- Bytes written at a place. -/
def bPut (s : State) (t : Nat) (l : BLoc) (bs : List Byte) : State :=
  match l with
  | .output off =>
    match (descAt s t).job with
    | some j => updJob s j (fun b => { b with im := b.im.map (fun m => { m with out := memWrite m.out off bs }) })
    | none => s
  | .dram a => { s with drc := { s.drc with dram := memWrite s.drc.dram a bs } }
  | _ => s

/-- Whether a line of DRAM that an access touches waits for its memory error (R516). -/
def pendingUe (s : State) (l : BLoc) (n : Nat) : Bool :=
  match l with
  | .dram a => s.pcs.uePending.any (fun k => decide (k * 64 < a + n) && decide (a < k * 64 + 64))
  | _ => false

/-- A memory error on an access (R142, R516): PCS_EVENT.DRAM_UE unless it was found before; in a tenant's region the line
is zeroed and TNT_EVENT.REGION_UE set. -/
def bUe (s : State) (t : Nat) (l : BLoc) (n : Nat) : State :=
  let h := s.ftl.health
  let s1 :=
    if pendingUe s l n then s
    else raise { s with ftl := { s.ftl with health := { h with dramUe := h.dramUe + 1 } } } evPcs 5
  if supMode s t then s1
  else
    match l with
    | .dram a =>
      let first := a / 64
      let lines := (a + n - 1) / 64 + 1 - first
      let d := memClear s1.drc.dram (first * 64) (lines * 64)
      let ue := s1.pcs.uePending.filter (fun k => decide (k < first) || decide (first + lines ≤ k))
      raise { s1 with drc := { s1.drc with dram := d }, pcs := { s1.pcs with uePending := ue } } evTnt 3
    | _ => raise s1 evTnt 3

/-- A B-space address raw as in BA, and a W-space one (R463, R475). -/
def rawB (win off : Nat) : W36 := mkW win (dwordOf off)
def rawW (a : Dword) : W36 := mkW 15 a

end Sys2Proof.Machine
end

