-- ==== Sys2Proof/Machine/Imlas.lean ====
section
/-! DEFINITION. How an Imlas-36 instruction runs (R449 to R451, R472 to R475): its checks, its effect, its exception. -/

namespace Sys2Proof.Machine

/-- How the effect of an instruction ends: PC moves on by one, or to a target; the thread stays at the instruction; or an
exception with its code and the address that caused it, raw as in BA. -/
inductive Eff where
  | done (s : State)
  | goto (s : State) (pc : Dword)
  | hold (s : State)
  | exc (s : State) (code : Nat) (addr : Option W36)

/-- Exception codes (R473). -/
def exIllegal : Nat := 1
def exPrivileged : Nat := 2
def exW : Nat := 3
def exB : Nat := 4
def exStack : Nat := 5
def exPort : Nat := 6
def exEarly : Nat := 7
def exTime : Nat := 8
def exTrap : Nat := 9
def exMemory : Nat := 11
def exOutput : Nat := 12

/-- The status of a stage that an exception ends (R473). -/
def excStatus (s : State) (t code : Nat) : Status :=
  if code = exEarly then stResultEarly
  else if code = exOutput then
    (if ((imOf s t).map (fun p => p.2.exactOut)).getD false then stLengthMismatch else stOutputSpace)
  else stProgramFault

/-- A word pushed on the stack in supervisor mode; none where the push faults (R442, R461, R462). -/
def pushSup (s : State) (t : Nat) (w : W36) : Option State :=
  let sp := (descAt s t).sp - 1
  match wLoc s t sp .write with
  | .core k => some (updDesc (writeLoc s (.core k) w) t (fun x => { x with sp := sp }))
  | .cluster k => some (updDesc (writeLoc s (.cluster k) w) t (fun x => { x with sp := sp }))
  | _ => none

/-- The address word that step 3 of R475 writes: the faulting address; for an exception without one the manual states no
value, so a free value (log 29). -/
def faultWord (s : State) (addr : Option W36) : W36 := addr.getD ((freeNow s).extractLsb' 0 36)

/-- Exception entry in supervisor mode (R475): FL and the return address are pushed, the address and the code go to local
words F8h and F9h, S = 1, IE = 0, and PC goes to the vector. A fault on the way stops the core (R46, R47). -/
def enterExc (s : State) (t : Nat) (code : Nat) (addr : Option W36) (ret : Dword) : State :=
  let c := (coreRunning s t).getD 0
  match pushSup s t (descAt s t).fl with
  | none => coreFail s c
  | some s1 =>
    match pushSup s1 t (word0 ret) with
    | none => coreFail s1 c
    | some s2 =>
      let s3 := writeLoc s2 (.core (c * 2 ^ 17 + 0xF8)) (faultWord s2 addr)
      let s4 := if addr.isNone then takeFree s3 else s3
      let s5 := writeLoc s4 (.core (c * 2 ^ 17 + 0xF9)) (word0 (dwordOf code))
      updDesc s5 t (fun x =>
        { x with fl := (x.fl ||| 0x100) &&& ~~~(0x200 : W36), pc := dwordOf (0x100 + 8 * code), halted := false, wait := 0 })

/-- An exception taken (R473 to R475). -/
def takeExc (s : State) (t code : Nat) (addr : Option W36) (ret : Dword) : State :=
  if supMode s t then enterExc s t code addr ret else userFault s t (excStatus s t code)

/-- Whether a thread's slice has ended with a thread of its priority waiting (R485). -/
def sliceDue (s : State) (c : Nat) : Bool :=
  match (coreAt s c).run with
  | none => false
  | some d =>
    decide ((coreAt s c).since + sliceUs s * usTicks ≤ now s)
      && !(readyIn s (c / 8) (descAt s d).prio.toNat).isEmpty

/-- Whether a stronger thread than the one on a core is ready (R485). -/
def strongerWaits (s : State) (c : Nat) : Bool :=
  match (coreAt s c).run, strongest s (c / 8) with
  | some d, some p => decide (p < (descAt s d).prio.toNat)
  | _, _ => false

/-- The instruction boundary: a preemption that waited for FL.IE takes effect (R485). -/
def boundary (s : State) (t : Nat) : State :=
  match coreRunning s t with
  | none => s
  | some c =>
    if (coreAt s c).pend && ieOf (descAt s t) then
      let s1 := updCore s c (fun x => { x with pend := false })
      if strongerWaits s1 c then tryPreempt s1 c false
      else if sliceDue s1 c then tryPreempt s1 c true
      else s1
    else s

/-- A thread executes: it has a core and is not in HALT. -/
def executes (s : State) (t : Nat) : Bool := (descAt s t).st == dsRunning && !(descAt s t).halted

/-- The effect of an instruction taken to the state. -/
def finishEff (t : Nat) (pc : Dword) (trap : Bool) : Eff → State
  | .done s => boundary (updDesc s t (fun x => { x with pc := pc + 1, wait := 0 })) t
  | .goto s p => boundary (updDesc s t (fun x => { x with pc := p, wait := 0 })) t
  | .hold s => s
  | .exc s code addr => takeExc s t code addr (if trap then pc + 1 else pc)

/-- An instruction of thread `t`: the fetch from its PC, the checks that hold whatever the condition, the condition, the
effect (R449, R450). An instruction of a thread that does not execute is no occasion and changes nothing (log 30). -/
def imRun (s : State) (t : Nat) (cond : BitVec 4) (legal trap : Bool) (body : State → Eff) : Out :=
  .next <|
    if !executes s t then s
    else
      let pc := (descAt s t).pc
      match wLoc s t pc .exec with
      | .fault => takeExc s t exW (some (rawW pc)) pc
      | .denied => takeExc (denied s) t exW (some (rawW pc)) pc
      | _ =>
        if !legal then takeExc s t exIllegal none pc
        else if !condTrue (descAt s t).fl cond then finishEff t pc false (.done s)
        else finishEff t pc trap (body s)

/-- A register-form instruction; `legal` says that the fields it does not use are zero. -/
def runRg (s : State) (f : Rg) (legal : Bool) (body : State → Eff) : Out := imRun s f.t f.cond legal false body

/-- An immediate-form instruction. -/
def runIm (s : State) (f : Im) (legal : Bool) (body : State → Eff) : Out := imRun s f.t f.cond legal false body

/-! ### Accesses -/

/-- A word read: verbatim, or the exception of its access. -/
inductive Got where
  | word (w : W36)
  | stop (s : State) (code : Nat)

/-- A W-space read (R442, R443, R516). -/
def wRead (s : State) (t : Nat) (a : Dword) (ue : Bool) : Got :=
  match wLoc s t a .read with
  | .fault => .stop s exW
  | .denied => .stop (denied s) exW
  | l => if ue then .stop (sramUe s t l) exMemory else .word (readLoc s l)

/-- A W-space write: the state, or the exception. -/
inductive Put where
  | ok (s : State)
  | stop (s : State) (code : Nat)

/-- A W-space write (R442, R443). -/
def wWrite (s : State) (t : Nat) (a : Dword) (w : W36) : Put :=
  match wLoc s t a .write with
  | .fault => .stop s exW
  | .denied => .stop (denied s) exW
  | l => .ok (writeLoc s l w)

/-- Bytes read: the bytes and whether any lies past the end of the input, or the exception. -/
inductive GotB where
  | bytes (bs : List Byte) (past : Bool)
  | stop (s : State) (code : Nat)

/-- A B-space read of `n` bytes (R445, R446, R516). -/
def bRead (s : State) (t win off n : Nat) (ue : Bool) : GotB :=
  match bLoc s t win off n .read with
  | .fault => .stop s exB
  | .space => .stop s exB
  | .denied => .stop (denied s) exB
  | l =>
    if ue || pendingUe s l n then .stop (bUe s t l n) exMemory
    else
      let r := bGet s t l n
      .bytes r.1 r.2

/-- A B-space write (R445, R447). -/
def bWrite (s : State) (t win off : Nat) (bs : List Byte) : Put :=
  match bLoc s t win off bs.length .write with
  | .fault => .stop s exB
  | .denied => .stop (denied s) exB
  | .space => .stop s exOutput
  | l => .ok (bPut s t l bs)

end Sys2Proof.Machine
end

