-- ==== Sys2Proof/Machine/Alu.lean ====
section
/-! DEFINITION. The integer instructions (R452 to R454). -/

namespace Sys2Proof.Machine

/-- What an operation of op 00h takes: the operand words, C, U and S. -/
structure AluIn where
  a   : W36
  b   : W36
  c   : Bool
  u   : Bool
  sat : Bool

/-- What it gives: the result word, and C and V where its rule sets them. -/
structure AluRes where
  w : W36
  c : Option Bool
  v : Option Bool

/-- A quality raised to at least Bh (R441). -/
def raiseQ (q : Nat) : Nat := Nat.max q 11

/-- The larger quality of the operands (R440). -/
def AluIn.q (i : AluIn) : Nat := Nat.max (wQ i.a) (wQ i.b)

/-- A number as a dword, modulo 2^32. -/
def dwordOfInt (x : Int) : Dword := BitVec.ofNat 32 (bitsOf 32 x)

/-- Whether an exact result overflows: as signed, or as unsigned under U. -/
def overflows (u : Bool) (xs xu : Int) : Bool :=
  if u then decide (xu < 0) || decide (4294967295 < xu) else decide (xs < -2147483648) || decide (2147483647 < xs)

/-- A saturated value (R453). -/
def saturated (u : Bool) (xs xu : Int) : Dword :=
  if u then (if xu < 0 then 0 else 0xFFFFFFFF) else (if xs < 0 then 0x80000000 else 0x7FFFFFFF)

/-- The result of an operation that may saturate, from its exact values (R441, R453). -/
def narrow (i : AluIn) (xs xu : Int) : W36 :=
  if i.sat && overflows i.u xs xu then mkW (raiseQ i.q) (saturated i.u xs xu) else mkW i.q (dwordOfInt xu)

/-- ADD and ADC: ra + rb + carry in. -/
def addOp (i : AluIn) (cin : Nat) : AluRes :=
  let xs : Int := (wVal i.a).toInt + (wVal i.b).toInt + cin
  let xu : Int := (wVal i.a).toNat + (wVal i.b).toNat + cin
  { w := narrow i xs xu, c := some (decide (4294967295 < xu)), v := some (overflows i.u xs xu) }

/-- SUB, SBC and compares: ra − rb − borrow in; C is no borrow. -/
def subOp (i : AluIn) (bin : Nat) : AluRes :=
  let xs : Int := (wVal i.a).toInt - (wVal i.b).toInt - bin
  let xu : Int := (wVal i.a).toNat - (wVal i.b).toNat - bin
  { w := narrow i xs xu, c := some (decide (0 ≤ xu)), v := some (overflows i.u xs xu) }

/-- An operation on values with the larger quality, which leaves C and V unchanged. -/
def plainOp (i : AluIn) (v : Dword) : AluRes := { w := mkW i.q v, c := none, v := none }

/-- The bit that a left shift by `n` moves out last; none for a shift of 0. -/
def shlOut (v : Dword) (n : Nat) : Option Bool := if n = 0 then none else some (v.getLsbD (32 - n))

/-- The bit that a right shift by `n` moves out last; none for a shift of 0. -/
def shrOut (v : Dword) (n : Nat) : Option Bool := if n = 0 then none else some (v.getLsbD (n - 1))

/-- A shift amount, rb[4:0]. -/
def shiftOf (w : W36) : Nat := (wVal w).toNat % 32

/-- SHL: V is 1 when S saturates, else 0 (log 31). -/
def shlOp (i : AluIn) : AluRes :=
  let n := shiftOf i.b
  let xs : Int := (wVal i.a).toInt * 2 ^ n
  let xu : Int := (wVal i.a).toNat * 2 ^ n
  { w := narrow i xs xu, c := shlOut (wVal i.a) n, v := some (i.sat && overflows i.u xs xu) }

/-- SHR, SAR. -/
def shrOp (i : AluIn) (v : Dword) : AluRes :=
  { w := mkW i.q v, c := shrOut (wVal i.a) (shiftOf i.b), v := none }

/-- MUL: the low 32 bits; V is overflow. -/
def mulOp (i : AluIn) : AluRes :=
  let xs : Int := (wVal i.a).toInt * (wVal i.b).toInt
  let xu : Int := ((wVal i.a).toNat : Int) * (wVal i.b).toNat
  { w := narrow i xs xu, c := none, v := some (overflows i.u xs xu) }

/-- MULHU and MULHS: the high 32 bits of an exact product. -/
def mulHighOp (i : AluIn) (x : Int) : AluRes := { w := mkW i.q (dwordOfInt (x / 4294967296)), c := none, v := some false }

/-- Division and remainder: the raised quality and V where R441 strikes. -/
def divOp (i : AluIn) (bad : Bool) (v : Dword) : AluRes :=
  { w := mkW (if bad then raiseQ i.q else i.q) v, c := none, v := some bad }

/-- Whether a signed division is by zero, or of −2^31 by −1 (R441). -/
def badDivS (i : AluIn) : Bool := wVal i.b == 0 || (wVal i.a == 0x80000000 && wVal i.b == 0xFFFFFFFF)

/-- The operand that a minimum or maximum selects; the larger code where the values are equal (R453). -/
def pickOp (i : AluIn) (less : Bool) (equal : Bool) : AluRes :=
  { w := if equal then mkW i.q (wVal i.a) else if less then i.a else i.b, c := none, v := none }

/-- Whether fields [7:6] of fn are zero, and S and U stand only where the operation has a use for them (R449, R452,
log 32). -/
def aluLegal (f : Rg) (mayS mayU : Bool) : Bool :=
  f.fn.extractLsb' 6 2 == 0 && (mayS || !f.fn.getLsbD 10) && (mayU || !f.fn.getLsbD 8)

/-- An instruction of op 00h: the result to rd, the flags where F is set (R451, R452). -/
def aluRun (s : State) (f : Rg) (legal : Bool) (op : AluIn → AluRes) : Out :=
  runRg s f legal (fun s =>
    let x := descAt s f.t
    let r := op { a := gReg x f.ra, b := gReg x f.rb, c := flC x.fl, u := f.fn.getLsbD 8, sat := f.fn.getLsbD 10 }
    let s1 := wr s f.t f.rd r.w
    .done (if f.fn.getLsbD 9 then wrFl s1 f.t (resultFlags x.fl x.qm (wVal r.w) (wQ r.w) r.c r.v) else s1))

/-- ADD. -/
def execImAdd (f : Rg) (s : State) : Out := aluRun s f (aluLegal f true true) (fun i => addOp i 0)

/-- SUB. -/
def execImSub (f : Rg) (s : State) : Out := aluRun s f (aluLegal f true true) (fun i => subOp i 0)

/-- ADC. -/
def execImAdc (f : Rg) (s : State) : Out := aluRun s f (aluLegal f true true) (fun i => addOp i (bitNat i.c))

/-- SBC. -/
def execImSbc (f : Rg) (s : State) : Out := aluRun s f (aluLegal f true true) (fun i => subOp i (bitNat (!i.c)))

/-- AND. -/
def execImAnd (f : Rg) (s : State) : Out :=
  aluRun s f (aluLegal f false false) (fun i => plainOp i (wVal i.a &&& wVal i.b))

/-- OR. -/
def execImOr (f : Rg) (s : State) : Out :=
  aluRun s f (aluLegal f false false) (fun i => plainOp i (wVal i.a ||| wVal i.b))

/-- XOR. -/
def execImXor (f : Rg) (s : State) : Out :=
  aluRun s f (aluLegal f false false) (fun i => plainOp i (wVal i.a ^^^ wVal i.b))

/-- ANDN. -/
def execImAndn (f : Rg) (s : State) : Out :=
  aluRun s f (aluLegal f false false) (fun i => plainOp i (wVal i.a &&& ~~~(wVal i.b)))

/-- SHL. -/
def execImShl (f : Rg) (s : State) : Out := aluRun s f (aluLegal f true true) shlOp

/-- SHR. -/
def execImShr (f : Rg) (s : State) : Out :=
  aluRun s f (aluLegal f false false) (fun i => shrOp i (wVal i.a >>> shiftOf i.b))

/-- SAR. -/
def execImSar (f : Rg) (s : State) : Out :=
  aluRun s f (aluLegal f false false) (fun i => shrOp i ((wVal i.a).sshiftRight (shiftOf i.b)))

/-- ROR: C is bit 31 of the result. -/
def execImRor (f : Rg) (s : State) : Out :=
  aluRun s f (aluLegal f false false) (fun i =>
    let v := (wVal i.a).rotateRight (shiftOf i.b)
    { w := mkW i.q v, c := some (v.getLsbD 31), v := none })

/-- MUL. -/
def execImMul (f : Rg) (s : State) : Out := aluRun s f (aluLegal f true true) mulOp

/-- MULHU. -/
def execImMulhu (f : Rg) (s : State) : Out :=
  aluRun s f (aluLegal f false false) (fun i => mulHighOp i (((wVal i.a).toNat : Int) * (wVal i.b).toNat))

/-- MULHS. -/
def execImMulhs (f : Rg) (s : State) : Out :=
  aluRun s f (aluLegal f false false) (fun i => mulHighOp i ((wVal i.a).toInt * (wVal i.b).toInt))

/-- DIVU: 0 on division by zero. -/
def execImDivu (f : Rg) (s : State) : Out :=
  aluRun s f (aluLegal f false false) (fun i => divOp i (wVal i.b == 0) (dwordOf ((wVal i.a).toNat / (wVal i.b).toNat)))

/-- DIVS: truncated toward zero; 0 on division by zero, 8000_0000h for −2^31 by −1. -/
def execImDivs (f : Rg) (s : State) : Out :=
  aluRun s f (aluLegal f false false) (fun i =>
    divOp i (badDivS i) (dwordOfInt ((wVal i.a).toInt.tdiv (wVal i.b).toInt)))

/-- REMU: ra on division by zero. -/
def execImRemu (f : Rg) (s : State) : Out :=
  aluRun s f (aluLegal f false false) (fun i => divOp i (wVal i.b == 0) (dwordOf ((wVal i.a).toNat % (wVal i.b).toNat)))

/-- REMS: the sign of ra; ra on division by zero. -/
def execImRems (f : Rg) (s : State) : Out :=
  aluRun s f (aluLegal f false false) (fun i =>
    divOp i (badDivS i) (dwordOfInt ((wVal i.a).toInt.tmod (wVal i.b).toInt)))

/-- MINS. -/
def execImMins (f : Rg) (s : State) : Out :=
  aluRun s f (aluLegal f false false) (fun i =>
    pickOp i (decide ((wVal i.a).toInt < (wVal i.b).toInt)) (wVal i.a == wVal i.b))

/-- MAXS. -/
def execImMaxs (f : Rg) (s : State) : Out :=
  aluRun s f (aluLegal f false false) (fun i =>
    pickOp i (decide ((wVal i.b).toInt < (wVal i.a).toInt)) (wVal i.a == wVal i.b))

/-- MINU. -/
def execImMinu (f : Rg) (s : State) : Out :=
  aluRun s f (aluLegal f false false) (fun i =>
    pickOp i (decide ((wVal i.a).toNat < (wVal i.b).toNat)) (wVal i.a == wVal i.b))

/-- MAXU. -/
def execImMaxu (f : Rg) (s : State) : Out :=
  aluRun s f (aluLegal f false false) (fun i =>
    pickOp i (decide ((wVal i.b).toNat < (wVal i.a).toNat)) (wVal i.a == wVal i.b))

/-- MOV: rb verbatim; ra must be 0 (R453). -/
def execImMov (f : Rg) (s : State) : Out :=
  aluRun s f (aluLegal f false false && f.ra == 0) (fun i => { w := i.b, c := none, v := none })

/-- An operation of ra alone; rb must be 0 (R453). -/
def unaryAlu (s : State) (f : Rg) (op : Dword → Dword) : Out :=
  aluRun s f (aluLegal f false false && f.rb == 0) (fun i => { w := mkW (wQ i.a) (op (wVal i.a)), c := none, v := none })

/-- Leading zeros of a dword. -/
def leadingZeros (v : Dword) : Nat := if v = 0 then 32 else 31 - v.toNat.log2

/-- CLZ. -/
def execImClz (f : Rg) (s : State) : Out := unaryAlu s f (fun v => dwordOf (leadingZeros v))

/-- POPC. -/
def execImPopc (f : Rg) (s : State) : Out := unaryAlu s f (fun v => dwordOf (popCount v.toNat 32))

/-- BSWAP. -/
def execImBswap (f : Rg) (s : State) : Out := unaryAlu s f (fun v => dwordOf (beNat (leBytes v.toNat 4)))

/-! ### Immediate instructions (R454) -/

/-- The inputs of the register operation with imm16, taken as `imm` of quality 0h, in place of rb. -/
def immIn (s : State) (f : Im) (imm : Dword) : AluIn :=
  { a := rd s f.t f.ra, b := word0 imm, c := false, u := false, sat := false }

/-- imm16 with its sign, and without. -/
def sext16 (f : Im) : Dword := f.imm.signExtend 32
def zext16 (f : Im) : Dword := f.imm.setWidth 32

/-- An immediate instruction that writes rd and sets no flag. -/
def immRun (s : State) (f : Im) (legal : Bool) (imm : Dword) (op : AluIn → AluRes) : Out :=
  runIm s f legal (fun s => .done (wr s f.t f.rd (op (immIn s f imm)).w))

/-- ADDI. -/
def execImAddi (f : Im) (s : State) : Out := immRun s f true (sext16 f) (fun i => addOp i 0)

/-- ANDI. -/
def execImAndi (f : Im) (s : State) : Out := immRun s f true (zext16 f) (fun i => plainOp i (wVal i.a &&& wVal i.b))

/-- ORI. -/
def execImOri (f : Im) (s : State) : Out := immRun s f true (zext16 f) (fun i => plainOp i (wVal i.a ||| wVal i.b))

/-- XORI. -/
def execImXori (f : Im) (s : State) : Out := immRun s f true (zext16 f) (fun i => plainOp i (wVal i.a ^^^ wVal i.b))

/-- Whether imm16[15:5] is zero. -/
def shiftLegal (f : Im) : Bool := f.imm.extractLsb' 5 11 == 0

/-- SHLI. -/
def execImShli (f : Im) (s : State) : Out := immRun s f (shiftLegal f) (zext16 f) shlOp

/-- SHRI. -/
def execImShri (f : Im) (s : State) : Out :=
  immRun s f (shiftLegal f) (zext16 f) (fun i => shrOp i (wVal i.a >>> shiftOf i.b))

/-- SARI. -/
def execImSari (f : Im) (s : State) : Out :=
  immRun s f (shiftLegal f) (zext16 f) (fun i => shrOp i ((wVal i.a).sshiftRight (shiftOf i.b)))

/-- LUI: imm16 × 65,536 with quality 0h; ra is reserved. -/
def execImLui (f : Im) (s : State) : Out :=
  runIm s f (f.ra == 0) (fun s => .done (wr s f.t f.rd (word0 (zext16 f <<< 16))))

/-- CMPI: every flag from ra − imm16 as SUB sets them; rd is reserved. -/
def execImCmpi (f : Im) (s : State) : Out :=
  runIm s f (f.rd == 0) (fun s =>
    let x := descAt s f.t
    let r := subOp (immIn s f (sext16 f)) 0
    .done (wrFl s f.t (resultFlags x.fl x.qm (wVal r.w) (wQ r.w) r.c r.v)))

/-- QSETI: the value of ra with quality imm16[3:0]; imm16[15:4] is reserved. -/
def execImQseti (f : Im) (s : State) : Out :=
  runIm s f (f.imm.extractLsb' 4 12 == 0) (fun s => .done (wr s f.t f.rd (mkW (f.imm.toNat % 16) (rv s f.t f.ra))))

/-- MULI. -/
def execImMuli (f : Im) (s : State) : Out := immRun s f true (sext16 f) mulOp

end Sys2Proof.Machine
end

