-- ==== Sys2Proof/Machine/Control.lean ====
section
/-! DEFINITION. Branches, calls and the stack (R461, R462). -/

namespace Sys2Proof.Machine

/-- The first word of the STACK segment, and the first word above it (R442). -/
def stackBase : Nat := 0x600000
def stackTop (s : State) (t : Nat) : Nat := stackBase + ((imOf s t).map (fun p => p.2.stackLen)).getD 0

/-- A push: SP is decremented, then the word is written (R461, R462). -/
def push (s : State) (t : Nat) (w : W36) : Put :=
  let sp := (descAt s t).sp - 1
  if !supMode s t && decide (sp.toNat < stackBase) then .stop s exStack
  else
    match wWrite s t sp w with
    | .ok s1 => .ok (updDesc s1 t (fun x => { x with sp := sp }))
    | .stop s1 code => .stop s1 code

/-- The word that a pop with SP at `sp` reads (R461, R462); `ue`: it is uncorrectable (R142). -/
def popAt (s : State) (t : Nat) (sp : Dword) (ue : Bool) : Got :=
  if !supMode s t && decide (stackTop s t ≤ sp.toNat) then .stop s exStack else wRead s t sp ue

/-- A pop: the word at SP; then SP is incremented. -/
def popWord (s : State) (t : Nat) (ue : Bool) : Got := popAt s t (descAt s t).sp ue

/-- SP moved by one word up. -/
def bumpSp (s : State) (t : Nat) : State := updDesc s t (fun x => { x with sp := x.sp + 1 })

/-- The target of BR and CALL. -/
def brTarget (s : State) (f : Br) : Dword := (descAt s f.t).pc + f.off.signExtend 32

/-- BR. -/
def execImBr (f : Br) (s : State) : Out := imRun s f.t f.cond true false (fun s => .goto s (brTarget s f))

/-- A call: PC + 1 is pushed, then PC goes to the target. -/
def callTo (s : State) (t : Nat) (target : Dword) : Eff :=
  match push s t (word0 ((descAt s t).pc + 1)) with
  | .ok s1 => .goto s1 target
  | .stop s1 code => .exc s1 code (some (rawW ((descAt s t).sp - 1)))

/-- CALL. -/
def execImCall (f : Br) (s : State) : Out := imRun s f.t f.cond true false (fun s => callTo s f.t (brTarget s f))

/-- Whether rd, rb and fn are zero. -/
def onlyRa (f : Rg) : Bool := f.rd == 0 && f.rb == 0 && f.fn == 0

/-- JR. -/
def execImJr (f : Rg) (s : State) : Out := runRg s f (onlyRa f) (fun s => .goto s (rv s f.t f.ra))

/-- CALLR. -/
def execImCallr (f : Rg) (s : State) : Out := runRg s f (onlyRa f) (fun s => callTo s f.t (rv s f.t f.ra))

/-- RET. -/
def execImRet (f : Rg) (ue : Bool) (s : State) : Out :=
  runRg s f (onlyRa f && f.ra == 0) (fun s =>
    match popWord s f.t ue with
    | .word w => .goto (bumpSp s f.t) (wVal w)
    | .stop s1 code => .exc s1 code (some (rawW (descAt s f.t).sp)))

/-- Whether ra, rb and fn are zero. -/
def onlyRd (f : Rg) : Bool := f.ra == 0 && f.rb == 0 && f.fn == 0

/-- PUSH. -/
def execImPush (f : Rg) (s : State) : Out :=
  runRg s f (onlyRd f) (fun s =>
    match push s f.t (rd s f.t f.rd) with
    | .ok s1 => .done s1
    | .stop s1 code => .exc s1 code (some (rawW ((descAt s f.t).sp - 1))))

/-- POP. -/
def execImPop (f : Rg) (ue : Bool) (s : State) : Out :=
  runRg s f (onlyRd f) (fun s =>
    match popWord s f.t ue with
    | .word w => .done (wr (bumpSp s f.t) f.t f.rd w)
    | .stop s1 code => .exc s1 code (some (rawW (descAt s f.t).sp)))

end Sys2Proof.Machine
end

