-- ==== Sys2Proof/Machine/Qual.lean ====
section
/-! DEFINITION. The quality instructions and the moves of special registers (R437, R438, R456, R457). -/

namespace Sys2Proof.Machine

/-- An instruction of op 02h: fn[10:3] zero; no flag is set. -/
def qualRun (s : State) (f : Rg) (legal : Bool) (op : W36 → W36 → W36) : Out :=
  runRg s f (f.fn.extractLsb' 3 8 == 0 && legal) (fun s => .done (wr s f.t f.rd (op (rd s f.t f.ra) (rd s f.t f.rb))))

/-- QGET. -/
def execImQget (f : Rg) (s : State) : Out := qualRun s f (f.rb == 0) (fun a _ => word0 (dwordOf (wQ a)))

/-- QSET. -/
def execImQset (f : Rg) (s : State) : Out := qualRun s f true (fun a b => mkW ((wVal b).toNat % 16) (wVal a))

/-- QDRV. -/
def execImQdrv (f : Rg) (s : State) : Out := qualRun s f (f.rb == 0) (fun a _ => mkW (qDerived (wQ a)) (wVal a))

/-- QMAX. -/
def execImQmax (f : Rg) (s : State) : Out := qualRun s f true (fun a b => mkW (Nat.max (wQ a) (wQ b)) (wVal a))

/-- QCLS. -/
def execImQcls (f : Rg) (s : State) : Out := qualRun s f (f.rb == 0) (fun a _ => word0 (dwordOf (qClass (wQ a))))

/-- A special register as MFS reads it (R437, R457). -/
def specRead (x : Desc) (n : Nat) : W36 :=
  match n with
  | 0 => word0 x.pc
  | 1 => word0 x.sp
  | 2 => x.fl
  | 3 => word0 x.bn
  | 4 => x.ba
  | 5 => x.bb
  | _ => x.qm

/-- MFS: special numbers 7 to 31 are reserved. -/
def execImMfs (f : Rg) (s : State) : Out :=
  runRg s f (decide (f.ra.toNat < 7) && f.rb == 0) (fun s =>
    .done (wr s f.t f.rd (specRead (descAt s f.t) f.ra.toNat)))

/-- The bits of FL that are not reserved (R438). -/
def flMask : W36 := 0x31F

/-- FL as a supervisor thread's MTS leaves it: the reserved bits read as 0 (R438), and S stays, since only an exception or
ERET changes the mode of a running thread (R435). -/
def flSup (fl w : W36) : W36 := (w &&& 0x21F) ||| (fl &&& 0x100)

/-- FL as a user thread's MTS leaves it: bits [4:0] alone change (R438). -/
def flUser (fl w : W36) : W36 := (fl &&& ~~~(0x1F : W36)) ||| (w &&& 0x1F)

/-- A special register as MTS writes it (R437 to R439). -/
def specWrite (x : Desc) (n : Nat) (w : W36) : Desc :=
  match n with
  | 1 => { x with sp := wVal w }
  | 3 => { x with bn := wVal w }
  | 4 => { x with ba := w }
  | 5 => { x with bb := w }
  | 6 => { x with qm := w &&& 0xF }
  | _ => x

/-- MTS: to PC it is Illegal Instruction in user mode, and sets PC in supervisor mode (log 34); to FL it follows R438. -/
def execImMts (f : Rg) (s : State) : Out :=
  let n := f.rd.toNat
  runRg s f (decide (n < 7) && f.rb == 0 && (supMode s f.t || n ≠ 0)) (fun s =>
    let x := descAt s f.t
    let w := gReg x f.ra
    if n = 0 then .goto s (wVal w)
    else if n = 2 then
      if supMode s f.t then .done (wrFl s f.t (flSup x.fl w))
      else if w.extractLsb' 8 2 ≠ x.fl.extractLsb' 8 2 then .exc s exPrivileged none
      else .done (wrFl s f.t (flUser x.fl w))
    else .done (updDesc s f.t (fun y => specWrite y n w)))

end Sys2Proof.Machine
end

