-- ==== Sys2Proof/Machine/SysOps.lean ====
section
/-! DEFINITION. The system instructions (R469) with the queueing, sleeping and Furrow effects of R476, R480, R487, R488,
R497, R498, R501. -/

namespace Sys2Proof.Machine

/-- A system instruction: fn[10:4] zero. -/
def sysRun (s : State) (f : Rg) (legal trap : Bool) (body : State → Eff) : Out :=
  imRun s f.t f.cond (f.fn.extractLsb' 4 7 == 0 && legal) trap body

/-- Whether rd, ra and rb are zero. -/
def bare (f : Rg) : Bool := f.rd == 0 && f.ra == 0 && f.rb == 0

/-- PC moved past the instruction, before the thread leaves its core. -/
def passed (s : State) (t : Nat) : State := updDesc s t (fun x => { x with pc := x.pc + 1, wait := 0 })

/-- NOP. -/
def execImNop (f : Rg) (s : State) : Out := sysRun s f (bare f) false (fun s => .done s)

/-- YIELD: the thread returns to the tail of its ready queue. -/
def execImYield (f : Rg) (s : State) : Out := sysRun s f (bare f) false (fun s => .hold (yieldCore (passed s f.t) f.t))

/-- WAIT: the thread sleeps until the target, or yields where it has been reached (R487). -/
def execImWait (f : Rg) (s : State) : Out :=
  sysRun s f (f.rd == 0) false (fun s =>
    let target := (rv s f.t f.ra).toNat + (rv s f.t f.rb).toNat * 2 ^ 32
    let s1 := passed s f.t
    if swardTime s f.t < target then
      .hold (leaveFor (updDesc s1 f.t (fun x => { x with wake := BitVec.ofNat 64 target })) f.t dsSleeping)
    else .hold (yieldCore s1 f.t))

/-- The lowest thread index of a stage whose reserved descriptor is free, with that descriptor (R480). -/
def freeIndex (s : State) (m : ImStage) : Option (Nat × Nat) :=
  ((List.range m.descs.length).zip m.descs).find? (fun e => (descAt s e.2).st == dsFree)

/-- SPAWN: another thread of the job; with none left, or in a thread without a job, rd = FFFF_FFFFh and Z = 1. -/
def execImSpawn (f : Rg) (s : State) : Out :=
  sysRun s f true false (fun s =>
    let fl := (descAt s f.t).fl
    let fail := Eff.done (wrFl (wr s f.t f.rd (word0 0xFFFFFFFF)) f.t (setZ fl true))
    match (descAt s f.t).job, imOf s f.t with
    | some j, some (_, m) =>
      match freeIndex s m with
      | none => fail
      | some (i, d) =>
        let s1 := wrFl (wr s f.t f.rd (word0 (dwordOf i))) f.t (setZ fl false)
        .done (startThread s1 j d i (rv s f.t f.ra) (rv s f.t f.rb) (dwordOf m.outCap))
    | _, _ => fail)

/-- The state after an FTAKE that has taken an item (R497). -/
def takeItem (s : State) (t : Nat) (dst : BitVec 5) (fl : Nat) : State :=
  let x := flowAt s fl
  setFlow (wr s t dst (word0 (dwordOf x.next))) fl { x with next := (x.next + 1) % 2 ^ 32 }

/-- FTAKE: the job's item number in a user thread (R501); NEXT of the thread's flow in a supervisor thread, which blocks
at a full window (R497). A flow that is not enabled, or FLOW_EN 0, gives a free value (log 39). -/
def execImFtake (f : Rg) (s : State) : Out :=
  sysRun s f (f.ra == 0 && f.rb == 0) false (fun s =>
    let x := descAt s f.t
    match imOf s f.t with
    | some (b, _) => .done (wr s f.t f.rd (word0 (dwordOf b.item)))
    | none =>
      if x.flowFail then
        .done (updDesc (wr s f.t f.rd (mkW 11 0xFFFFFFFF)) f.t (fun y => { y with flowFail := false }))
      else if !x.flowEn || !flowEnabled s x.flow || fwFlows s ≤ x.flow then
        .done (wr (takeFree s) f.t f.rd ((freeNow s).extractLsb' 0 36))
      else
        let y := flowAt s x.flow
        if (y.next + 2 ^ 32 - y.rel) % 2 ^ 32 = 256 then
          .hold (leaveFor (waitFor s f.t 2) f.t dsBlocked)
        else .done (takeItem s f.t f.rd x.flow))

/-- FREL: no effect in a user thread (R501); in a supervisor thread the item is done (R498). -/
def execImFrel (f : Rg) (s : State) : Out :=
  sysRun s f (f.rd == 0 && f.rb == 0) false (fun s =>
    let x := descAt s f.t
    if (imOf s f.t).isSome then .done s
    else if x.flowEn then .done (flowRelease s x.flow (rv s f.t f.ra).toNat)
    else .done (schEvent s 2))

/-- FENCE: every earlier access of the thread has been performed, since each is performed in its own step. -/
def execImFence (f : Rg) (s : State) : Out := sysRun s f (bare f) false (fun s => .done s)

/-- TIME: the low bits of the island's time copy, latching the high ones; or the latched bits. For another value of ra
the manual states none, so rd is free (log 40). -/
def execImTime (f : Rg) (s : State) : Out :=
  sysRun s f (f.rb == 0) false (fun s =>
    let n := swardTime s f.t
    let k := rv s f.t f.ra
    if k = 0 then
      .done (updDesc (wr s f.t f.rd (word0 (dwordOf n))) f.t (fun x => { x with timeHi := dwordOf (n / 2 ^ 32) }))
    else if k = 1 then .done (wr s f.t f.rd (word0 (descAt s f.t).timeHi))
    else .done (wr (takeFree s) f.t f.rd (word0 ((freeNow s).extractLsb' 0 32))))

/-- TRAP. -/
def execImTrap (f : Rg) (s : State) : Out :=
  sysRun s f (f.rd == 0 && f.ra == 0) true (fun s => .exc s exTrap none)

/-- ERET: privileged; pops PC, then FL. -/
def execImEret (f : Rg) (uePc ueFl : Bool) (s : State) : Out :=
  sysRun s f (bare f) false (fun s =>
    if !supMode s f.t then .exc s exPrivileged none
    else
      let sp := (descAt s f.t).sp
      match popWord s f.t uePc with
      | .stop s1 code => .exc s1 code (some (rawW sp))
      | .word pc =>
        match popAt s f.t (sp + 1) ueFl with
        | .stop s1 code => .exc s1 code (some (rawW (sp + 1)))
        | .word fl => .goto (wrFl (bumpSp (bumpSp s f.t) f.t) f.t (fl &&& flMask)) (wVal pc))

/-- HALT: privileged; the core waits for an interrupt, with PC at the instruction not yet issued. -/
def execImHalt (f : Rg) (s : State) : Out :=
  sysRun s f (bare f) false (fun s =>
    if !supMode s f.t then .exc s exPrivileged none else .done (updDesc s f.t (fun x => { x with halted := true })))

/-- END: in the entry thread of a stage it ends the stage with output length ra; otherwise it ends the thread (R476). -/
def execImEnd (f : Rg) (s : State) : Out :=
  sysRun s f (f.rd == 0 && f.rb == 0) false (fun s =>
    let x := descAt s f.t
    match x.job, imOf s f.t with
    | some j, some (_, m) =>
      if x.index = 0 then
        let l := (rv s f.t f.ra).toNat
        if m.outCap < l then .exc s exOutput none else .hold (endIm s j none (memRead m.out 0 l))
      else .hold (killThreads s [f.t] x.island)
    | _, _ => .hold (killThreads s [f.t] x.island))

end Sys2Proof.Machine
end

