-- ==== Sys2Proof/Machine/SchedRows.lean ====
section
/-! DEFINITION. The scheduler's own steps (R482, R485 to R489, R492, R495, R502) and interrupts (R475). -/

namespace Sys2Proof.Machine

/-! ### Descriptor words (R482) -/

/-- The key of a half of a staging word on a path. -/
def stagingKey (k : Nat) (hi : Bool) (p : Path) : Nat := 0x1C00100 + 8 * k + (if hi then 4 else 0) + pathNo p * 2 ^ 26

/-- A staging word of a path. -/
def stagingWord (s : State) (p : Path) (k : Nat) : W36 :=
  BitVec.ofNat 36 ((regAt s (stagingKey k false p)).toNat + fld (regAt s (stagingKey k true p)) 0 4 * 2 ^ 32)

/-- The core whose prefetch slot holds a thread (R490). -/
def prefetched (s : State) (d : Nat) : Bool := s.sch.cores.any (fun e => e.2.pf == some d)

/-- The windows of a thread: a user thread's are those of its stage (R445). -/
def winsOf (s : State) (d : Nat) : List (Nat × Nat × Bool) :=
  match imOf s d with
  | some (_, m) => m.windows
  | none => (descAt s d).wins

/-- A window field. -/
def winField (ws : List (Nat × Nat × Bool)) (k : Nat) : Nat :=
  match ws.find? (fun w => w.1 == k) with
  | some (_, i, w) => i % 8192 + 2 ^ 13 + (if w then 2 ^ 14 else 0)
  | none => 0

/-- A word of a descriptor. -/
def descWord (s : State) (d k : Nat) : W36 :=
  let x := descAt s d
  let lc := x.lastCore.getD 0
  let w (n : Nat) : W36 := BitVec.ofNat 36 n
  if k = 0 then
    w (x.st.toNat + x.prio.toNat * 2 ^ 4 + bitNat x.sup * 2 ^ 10 + bitNat (prefetched s d) * 2 ^ 11 + x.island * 2 ^ 12
        + lc % 8 * 2 ^ 16 + bitNat x.lastCore.isSome * 2 ^ 20 + place x.tenant 21 11)
  else if k = 1 then w (x.flow % 4096 + bitNat x.flowEn * 2 ^ 12 + place x.index 16 8)
  else if k = 2 then w (x.job.getD 0 % 2 ^ 32)
  else if k = 3 then w x.restart.toNat
  else if k = 4 then w (x.wake.toNat % 2 ^ 32)
  else if k = 5 then w (x.wake.toNat / 2 ^ 32)
  else if k = 6 then w x.runtime
  else if 8 ≤ k ∧ k < 16 then w (winField (winsOf s d) (2 * (k - 8)) + winField (winsOf s d) (2 * (k - 8) + 1) * 2 ^ 16)
  else if 17 ≤ k ∧ k < 48 then tabAt 0 x.g (k - 16)
  else if k = 48 then w x.pc.toNat
  else if k = 49 then w x.sp.toNat
  else if k = 50 then x.fl
  else if k = 51 then w x.bn.toNat
  else if k = 52 then x.ba
  else if k = 53 then x.bb
  else if k = 54 then x.qm
  else 0

/-- The windows of staging words 8 to 15. -/
def stagedWins (s : State) (p : Path) : List (Nat × Nat × Bool) :=
  ((List.range 15).map (fun k =>
    let f := natFld (stagingWord s p (8 + k / 2)).toNat (k % 2 * 16) 16
    (k, f % 8192, f.testBit 14, f.testBit 13))).filterMap (fun e => if e.2.2.2 then some (e.1, e.2.1, e.2.2.1) else none)

/-- The descriptor of a path's staging words; the fields marked "device" are ignored (R482). -/
def stagedDesc (s : State) (p : Path) : Desc :=
  let n := fun k => (stagingWord s p k).toNat
  let w := fun k => stagingWord s p k
  { st := BitVec.ofNat 4 (n 0), prio := BitVec.ofNat 6 (n 0 / 16), sup := (n 0).testBit 10, island := natFld (n 0) 12 3,
    flow := n 1 % 4096, flowEn := (n 1).testBit 12, restart := dwordOf (n 3),
    wake := BitVec.ofNat 64 (n 4 % 2 ^ 32 + n 5 % 2 ^ 32 * 2 ^ 32), wins := stagedWins s p,
    g := (List.range 31).foldl (fun t i => tabSet 0 t (i + 1) (w (17 + i))) [], pc := dwordOf (n 48), sp := dwordOf (n 49),
    fl := w 50 &&& flMask, bn := dwordOf (n 51), ba := w 52, bb := w 53, qm := w 54 &&& 0xF }

/-- Whether the staged fields lie within their table for a supervisor thread (R478, R482): STATE 1h or 3h, S 1, TENANT 0,
control words and reserved words and bits zero. -/
def stagedOk (s : State) (p : Path) : Bool :=
  let n := fun k => (stagingWord s p k).toNat
  let d := stagedDesc s p
  (d.st == 1 || d.st == 3) && d.sup && natFld (n 0) 21 11 == 0 && natFld (n 0) 15 1 == 0
    && natFld (n 1) 13 3 == 0 && natFld (n 1) 24 8 == 0
    && (List.range 16).all (fun k => decide (n k < 2 ^ 32))
    && ([7, 16] ++ List.range' 55 9).all (fun k => n k == 0)
    && (List.range 8).all (fun j => !(n (8 + j)).testBit 15 && !(n (8 + j)).testBit 31)
    && n 15 < 2 ^ 16

/-! ### The descriptor steps (R502) -/

/-- The result of a descriptor step on a path; one other than 0h sets DESC_REJECT. -/
def descResult (s : State) (p : Path) (r : Nat) : State :=
  let s1 := setReg s (0x1C00044 + pathNo p * 2 ^ 26) (dwordOf (r * 16))
  if r = 0 then s1 else schEvent s1 5

/-- The staging registers of a path loaded from a descriptor. -/
def loadDesc (s : State) (p : Path) (d : Nat) : State :=
  (List.range 64).foldl (fun t k =>
    let w := (descWord s d k).toNat
    setReg (setReg t (stagingKey k false p) (dwordOf w)) (stagingKey k true p) (dwordOf (w / 2 ^ 32))) s

/-- Whether a path may use CREATE, KILL and SET_PRIO. -/
def descPath (p : Path) : Bool :=
  match p with
  | .fw => true
  | .keeper => true
  | _ => false

/-- Whether a descriptor is free: STATE 0h. -/
def descFree (s : State) (d : Nat) : Bool := (descAt s d).st == dsFree

/-- READ. -/
def descReadStep (s : State) (p : Path) (d : Nat) : State :=
  if descFree s d then descResult s p 1 else descResult (loadDesc s p d) p 0

/-- CREATE. -/
def descCreateStep (s : State) (p : Path) (d : Nat) : State :=
  if !descPath p then descResult s p 2
  else if !descFree s d || decide (fwDescs s ≤ d) then descResult s p 1
  else if !stagedOk s p then descResult s p 3
  else
    let x := stagedDesc s p
    let s1 := { s with sch := { s.sch with descs := tabPut s.sch.descs d x, created := tabPut s.sch.created d x } }
    descResult (if x.st = dsReady then makeReady s1 d else s1) p 0

/-- KILL. -/
def descKillStep (s : State) (p : Path) (d : Nat) : State :=
  if !descPath p then descResult s p 2
  else if descFree s d then descResult s p 1
  else if !(descAt s d).sup then descResult s p 4
  else descResult (killThreads s [d] (descAt s d).island) p 0

/-- SET_PRIO: a ready thread goes to the tail of its new queue. -/
def descPrioStep (s : State) (p : Path) (d : Nat) : State :=
  if !descPath p then descResult s p 2
  else if descFree s d then descResult s p 1
  else if !(descAt s d).sup then descResult s p 4
  else
    let prio := BitVec.ofNat 6 ((stagingWord s p 0).toNat / 16)
    let x := descAt s d
    let s1 :=
      if x.st = dsReady then makeReady (updDesc (dequeue s d) d (fun y => { y with prio := prio })) d
      else settleIsland (updDesc s d (fun y => { y with prio := prio })) x.island
    descResult s1 p 0

/-- SCH_DESC_CTL READ. -/
def execDescRead (p : Path) (index : Nat) (s : State) : Out := .next (descReadStep s p index)

/-- SCH_DESC_CTL CREATE. -/
def execDescCreate (p : Path) (index : Nat) (s : State) : Out := .next (descCreateStep s p index)

/-- SCH_DESC_CTL KILL. -/
def execDescKill (p : Path) (index : Nat) (s : State) : Out := .next (descKillStep s p index)

/-- SCH_DESC_CTL SET_PRIO. -/
def execDescSetPrio (p : Path) (index : Nat) (s : State) : Out := .next (descPrioStep s p index)

/-! ### Slices, waits and wakes (R485, R487 to R489) -/

/-- A running thread has run SLICE_US and a thread of its priority waits: it goes to the tail (R485). -/
def execSliceExpiry (core : Nat) (s : State) : Out := .next (if sliceDue s core then tryPreempt s core true else s)

/-- A sleeping thread becomes ready when its island's time copy has reached WAKE (R488). -/
def execThreadWake (d : Nat) (s : State) : Out :=
  .next (if (descAt s d).st = dsSleeping ∧ wakeDue s d then makeReady s d else s)

/-- BLOCK_NS in ticks (SCH_CFG2). -/
def blockTicks (s : State) : Nat := within 200 60000 (regFld s 0x1C0000C 0 16)

/-- A wait that has lasted BLOCK_NS: the thread is blocked and its core free (R487). -/
def execThreadBlock (d : Nat) (s : State) : Out :=
  .next (if (descAt s d).st = dsRunning ∧ (descAt s d).wait ≠ 0 ∧ elapsed s (descAt s d).waitAt (blockTicks s) then leaveFor s d dsBlocked else s)

/-- Whether what a blocked thread waits for can proceed. -/
def mayProceed (s : State) (d : Nat) : Bool :=
  let x := descAt s d
  if x.wait = 1 then !((msgOf s (.thread d)).map (·.waiting)).getD false
  else if x.wait = 2 then
    let f := flowAt s x.flow
    x.flowFail || (f.next + 2 ^ 32 - f.rel) % 2 ^ 32 ≠ 256
  else if x.wait = 3 then servesTenant s x.tenant
  else true

/-- A blocked thread whose access can proceed becomes ready at the tail, and resumes at the instruction that waited
(R487). -/
def execThreadUnblock (d : Nat) (s : State) : Out :=
  .next (if (descAt s d).st = dsBlocked ∧ mayProceed s d then makeReady (updDesc s d (fun x => { x with wait := 0 })) d else s)

/-- The core time of a stage, its running threads included, in µs (R489). -/
def stageTime (s : State) (m : ImStage) : Nat :=
  m.descs.foldl (fun a d =>
    match coreRunning s d with
    | some c => a + (now s - (coreAt s c).since) / usTicks
    | none => a) m.coreUs

/-- The core time of a stage reaches CORE_LIMIT_MS: Time Limit in its threads, and SCH_EVENT.TIME_LIMIT (R489). -/
def execTimeLimit (job : Nat) (s : State) : Out :=
  .next <|
    match (jobAt s job).bind (·.im) with
    | none => s
    | some m =>
      if m.done || decide (stageTime s m < m.limitMs * 1000) then s
      else schEvent (userFault s (m.descs.headD 0) stProgramFault) 3

/-- A core fails (R492). -/
def execCoreFailure (core : Nat) (s : State) : Out := .next (if (coreAt s core).failed then s else coreFail s core)

/-! ### Interrupts and the debug port (R469, R475, R487, R495) -/

/-- Whether a core runs a supervisor thread with IE 1. -/
def takesInterrupt (s : State) (c : Nat) : Bool :=
  match (coreAt s c).run with
  | some d => supMode s d && ieOf (descAt s d)
  | none => false

/-- Whether a core takes interrupt 11h: the lowest-numbered core of Sward 0 that can, while one waits (R495). -/
def takesSched (s : State) (c : Nat) : Bool :=
  s.sch.sched11 && (List.range 8).find? (takesInterrupt s) == some c

/-- An interrupt of codes 10h to 13h is taken (R473, R475); the return address is the instruction not yet issued. -/
def execInterruptTaken (core : Nat) (code : BitVec 8) (s : State) : Out :=
  let n := code.toNat
  .next <|
    match (coreAt s core).run with
    | none => s
    | some d =>
      if n < 0x10 || 0x13 < n || !takesInterrupt s core || (n == 0x11 && !takesSched s core) then s
      else
        let s1 := if n = 0x11 then { s with sch := { s.sch with sched11 := false } } else s
        enterExc s1 d n none (descAt s d).pc

/-- GLB_LIFECYCLE.DBG_OPEN: open in states BLANK and DEBUG. -/
def dbgOpen (s : State) : Bool := s.power.lifecycle == 0 || s.power.lifecycle == 2

/-- The debug port halts a running thread, which leaves its core (R487). -/
def execDebugHalt (d : Nat) (s : State) : Out :=
  .next (if dbgOpen s ∧ (descAt s d).st = dsRunning then leaveFor s d dsHalted else s)

end Sys2Proof.Machine
end

