-- ==== Sys2Proof/Machine/Time.lean ====
section
/-! DEFINITION. The global timebase (R16 to R21): one tick, slews and alignment. -/

namespace Sys2Proof.Machine

/-- The correction that one advance takes of a slew in progress: one tick in every 2,000 advances, which is 500 ppm (R21). -/
def slewStep (t : TimeSt) : Int :=
  if 1999 ≤ t.slewAge then (if 0 < t.slew then 1 else if t.slew < 0 then -1 else 0) else 0

/-- One advance of the master counter. With REFCLK_SYS it is one nanosecond (R16) and the slew's share (R21); without,
one CLK32K cycle of 30,517 or 30,518 ticks, chosen by an accumulator of 37/64 (R17). -/
def tickTime (t : TimeSt) : TimeSt :=
  if t.refclk then
    { t with
      master := t.master + BitVec.ofNat 64 (1 + slewStep t).toNat, slew := t.slew - slewStep t
      slewAge := if slewStep t = 0 then Nat.min 1999 (t.slewAge + 1) else 0 }
  else
    let f := t.frac.toNat + 37
    { t with master := t.master + BitVec.ofNat 64 (30517 + f / 64), frac := BitVec.ofNat 6 f }

/-- What a step does when no command waits: time passes by one advance while the always-on island runs (log 2). -/
def tick (s : State) : State := if s.power.aonOk then { s with time := tickTime s.time } else s

/-- The counter set to a later value; it is never set back (R16, R21). -/
def stepForward (s : State) (v : Nat) : State :=
  if now s < v then { s with time := { s.time with master := BitVec.ofNat 64 v } } else s

end Sys2Proof.Machine
end

