-- ==== Sys2Proof/Machine/Stats.lean ====
section
/-! DEFINITION. Statistics windows (R547 to R552). What an island has counted is an operand of its report. -/

namespace Sys2Proof.Machine

/-- The base of a window group's registers. -/
def stwBase (g : Nat) : Nat := 0x100000 + 0x8000 * (g + 1)

/-- PERIOD_MS of a group, and its selection registers. -/
def stwPeriod (s : State) (g : Nat) : Nat := regFld s (stwBase g + 8) 0 16
def stwSel (s : State) (g c : Nat) : Nat := (regAt s (stwBase g + 0x400 + 4 * c)).toNat

/-- A group, and the state with one changed. -/
def groupAt (s : State) (g : Nat) : Group := tabAt {} s.stw g
def updGroup (s : State) (g : Nat) (f : Group → Group) : State := { s with stw := tabUpd {} s.stw g f }

/-- Ticks of a period. -/
def periodTicks (p : Nat) : Nat := p * msTicks

/-- The first boundary above a time (R548). -/
def boundaryAbove (p t : Nat) : Nat := (t / periodTicks p + 1) * periodTicks p

/-! ### Contributing islands (R549, R552) -/

/-- One instance of a unit, or all of them. -/
def instances (base n sel : Nat) : List Nat :=
  if natFld sel 19 1 = 1 then (if natFld sel 12 7 < n then [base + natFld sel 12 7] else []) else List.range' base n

/-- The islands that hold the source of a selected event (log 50). -/
def sourceIslands (sel : Nat) : List Nat :=
  let ev := natFld sel 0 8
  match natFld sel 8 4 with
  | 0 => if ev = 1 then [isAlwaysOn] else []
  | 1 => if ev ≤ 6 then instances 0 128 sel else []
  | 2 => if ev ≤ 8 then instances 128 8 sel else []
  | 3 => if ev ≤ 7 then [isFabric] else []
  | 4 => if ev ≤ 2 then [isHost] else if ev ≤ 5 then [isEtch] else []
  | 5 => if ev ≤ 7 then instances 144 9 sel else []
  | 6 => if ev ≤ 6 then [isCodec] else []
  | 7 => if ev ≤ 5 then [isSearch] else []
  | 8 => if ev ≤ 1 then instances 136 8 sel else if ev ≤ 5 then [isDigest] else []
  | 9 => if ev ≤ 4 then instances 156 8 sel else []
  | 10 => if ev ≤ 2 then [isFabric] else []
  | 11 =>
    let of (a : Nat) : Nat :=
      if a < 8 then isDram a else if a < 16 then isSearch else if a < 24 then isSward (a - 16) else isFabric
    if 9 < ev then []
    else if natFld sel 19 1 = 1 then (if natFld sel 12 7 < 36 then [of (natFld sel 12 7)] else [])
    else (List.range 36).map of
  | 12 => if ev ≤ 2 then [isAlwaysOn] else []
  | _ => []

/-- The islands that contribute to a group. -/
def contributors (s : State) (g : Nat) : List Nat :=
  ((List.range 256).map (fun c => sourceIslands (stwSel s g c))).foldl (fun a l => a ++ l.filter (fun i => !a.contains i)) []

/-! ### Clocks (R15) -/

/-- Whether an island's clock runs: a power state stops it under R15, a fence stops a media island (R113), a shutdown every island
but the always-on (R560), a role conflict those of R567, and before PWR_OK rises none but that runs. The table gives the cascade
island "TCB only" in PS3 and PS4 and the host island "link layer only" in PS4 without saying whether their registers answer: here
those of the cascade island do not, and those of the host island do (DESIGN CHOICE, log 118). -/
def clockRuns (s : State) (i : Nat) : Bool :=
  if i = isAlwaysOn then s.power.aonOk
  else if !s.power.pwrOk || s.power.shutdown then false
  else if s.cas.roleCode = 3 ∧ (i < 128 ∨ (144 ≤ i ∧ i < 172)) then false
  else
    let p := s.power.pstate
    if i < 128 then decide (p < 3) && (tabAt {} s.media.chans i).st ≠ 4
    else if i < 144 then decide (p < 3)
    else if i < 153 then decide (p < 3)
    else if i < 156 then decide (p < 3)
    else if i < 164 then
      decide (i - 156 < (if p ≤ 1 then 8 else if p = 2 then 4 else if p = 3 then 1 else 0))
    else if i < 172 then decide (p < 3)
    else if i = isHost then true
    else if i = isCascade then decide (p < 3)
    else decide (p < 4)

/-- The time copies after clocks have stopped or started between two states (R18). -/
def settleClocks (was s : State) : State :=
  (List.range 178).foldl (fun t i =>
    if clockRuns s i then (if (tabGet s.time.stopAt i).isSome then startCopy t i else t)
    else if clockRuns was i then stopCopy t i
    else t) s

/-! ### Windows -/

/-- A group's window opened: at `at_` until the first boundary above it. The islands that contribute to it are those whose events
the registers in force then select (R551). -/
def openWindow (s : State) (g p at_ : Nat) (short stepped : Bool) : State :=
  updGroup s g (fun w => { w with
    period := p, openAt := at_, boundary := if p = 0 then 0 else boundaryAbove p at_, nextOpen := none, short := short
    stepped := stepped, gap := false, reported := [], sources := contributors s g, counts := [] })

/-- A group after its registers have been applied (R551): one that starts opens the window that holds the present time; a new
period shortens the window that has just opened; one whose latch waits takes the new period then. -/
def retimeGroup (s : State) (g : Nat) : State :=
  let w := groupAt s g
  let p := stwPeriod s g
  if p = w.period then s
  else if p = 0 then updGroup s g (fun w => { w with period := 0, boundary := 0, nextOpen := none, reported := [], counts := [] })
  else if w.period = 0 then openWindow s g p (now s / periodTicks p * periodTicks p) true false
  else if now s < w.boundary then openWindow s g p w.openAt true w.stepped
  else s

/-- The counter stepped from `old` to `new` (R551): a window whose boundary was passed ends at the step. -/
def noteStep (s : State) (old new : Nat) : State :=
  (s.stw.filter (fun e => e.2.period ≠ 0 && decide (old < e.2.boundary) && decide (e.2.boundary ≤ new))).foldl (fun t e =>
    raise (updGroup t e.1 (fun w => { w with boundary := old, stepped := true, nextOpen := some new })) evStw 2) s

/-- The counter set forward, with what that does to the open windows (R21). -/
def stepTime (s : State) (v : Nat) : State := if now s < v then noteStep (stepForward s v) (now s) v else s

/-- The fabric island stops: the open windows end at the first boundary after it runs again (R551). -/
def gapWindows (s : State) : State :=
  { s with stw := s.stw.map (fun e => (e.1, if e.2.period = 0 then e.2 else { e.2 with gap := true })) }
def resumeWindows (s : State) : State :=
  { s with stw := s.stw.map (fun e =>
      (e.1, if e.2.gap && e.2.period ≠ 0 && decide (e.2.boundary ≤ now s) then { e.2 with boundary := boundaryAbove e.2.period (now s) }
        else e.2)) }

/-- At the end of stage 7 every group that runs counts in the window that holds that time (R551). -/
def startWindows (s : State) : State :=
  ((List.range 16).filter (fun g => stwPeriod s g ≠ 0)).foldl (fun t g =>
    openWindow t g (stwPeriod t g) (now t / periodTicks (stwPeriod t g) * periodTicks (stwPeriod t g)) true false) s

/-- WINDOW_BOUNDARY_REPORT (R549): an island whose time copy has reached the boundary reports its partial counts, once. -/
def execWindowBoundaryReport (g island : Nat) (counts : List (Nat × Nat)) (s : State) : Out :=
  let w := groupAt s g
  if 16 ≤ g || w.period = 0 || islandTime s island < w.boundary || !w.sources.contains island
      || w.reported.contains island then .next s
  else
    .next (updGroup s g (fun w => { w with
      reported := w.reported ++ [island]
      counts := (counts.filter (fun e => decide (e.1 < 256))).foldl (fun t e => tabUpd 0 t e.1 (· + e.2)) w.counts }))

/-- LATCH_LATE (R549): a latch that waits longer than 100 µs. -/
def execLatchLate (g : Nat) (s : State) : Out :=
  let w := groupAt s g
  .next (raiseIf (decide (g < 16) && w.period ≠ 0 && decide (w.boundary + 100 * usTicks < now s)) s evStw 0)

end Sys2Proof.Machine
end

