-- ==== Sys2Proof/Machine/Arbiters.lean ====
section
/-! DEFINITION. The Stile arbiters and the DRAM controller (R387, R388, R526 to R546). -/

namespace Sys2Proof.Machine

/-! ### Arbiters, DRAM channels, ranks -/

/-- An arbiter, a DRAM channel, and the state with one changed. -/
def arbAt (s : State) (a : Nat) : Arb := tabAt {} s.drc.arbs a
def updArb (s : State) (a : Nat) (f : Arb → Arb) : State := { s with drc := { s.drc with arbs := tabUpd {} s.drc.arbs a f } }
def dchanAt (s : State) (c : Nat) : DChan := tabAt {} s.drc.chans c
def updDchan (s : State) (c : Nat) (f : DChan → DChan) : State :=
  { s with drc := { s.drc with chans := tabUpd {} s.drc.chans c f } }

/-- The base of an arbiter's registers, and the rank in force of a requester (R541). -/
def arbBase (a : Nat) : Nat := 0x300000 + (a + 1) * 0x100
def arbRank (s : State) (a r : Nat) : Nat := regFld s (arbBase a + 0x10 + r / 4 * 4) (r % 4 * 8) 5

/-- The value of a DRC register in force on a channel: it takes what waits at its own refresh interval (R80). -/
def drcReg (s : State) (ch off : Nat) : Dword := (tabGet (dchanAt s ch).early off).getD (regAt s off)

/-- DRC_CFG and DRC_RH_CFG of a channel within their bounds. -/
def ageTicks (s : State) (ch : Nat) : Nat := within 100 65535 (fld (drcReg s ch 0x400008) 0 16)
def dramCredits (s : State) (ch : Nat) : Nat := within 4 64 (fld (drcReg s ch 0x400008) 16 7)
def actLimit (s : State) (ch : Nat) : Nat := within 16 1023 (fld (drcReg s ch 0x40000C) 0 10)

/-- The subchannel of a bank. -/
def bankSub (b : Nat) : Nat := b / 32 % 2

/-- A bank of a channel, and the state with one changed. -/
def rhBank (s : State) (ch b : Nat) : RhBank := tabAt {} (dchanAt s ch).banks b
def updBank (s : State) (ch b : Nat) (f : RhBank → RhBank) : State :=
  updDchan s ch (fun c => { c with banks := tabUpd {} c.banks b f })

/-! ### Arrivals (R529) -/

/-- The requests of a requester that wait at an arbiter. -/
def waitingOf (s : State) (a r : Nat) : Nat := ((arbAt s a).waiting.filter (fun w => w.req.requester == r)).length

/-- A request that has come: it waits at the channel while its port has a credit, and at its port otherwise. -/
def arriveOne (a : Nat) (s : State) (q : ArbReq) : State :=
  let full := a < 8 && (decide (dramCredits s a ≤ waitingOf s a q.requester)
    || (arbAt s a).atPort.any (fun p => p.requester == q.requester))
  updArb s a (fun x =>
    if full then { x with atPort := x.atPort ++ [q] }
    else { x with waiting := x.waiting ++ [{ req := q, at_ := now s, aged := false }] })

/-- Requests that come to an arbiter; one of a requester that it does not have is none. -/
def arrive (s : State) (a : Nat) (l : List ArbReq) : State :=
  (l.filter (fun q => q.requester < arbRequesters a)).foldl (arriveOne a) s

/-- Requests at their ports take the credits that have become free, oldest first. -/
def refillPorts (s : State) (a : Nat) : State :=
  let l := (arbAt s a).atPort
  l.foldl (arriveOne a) (updArb s a (fun x => { x with atPort := [] }))

/-! ### Candidates (R388, R531 to R533, R537) -/

/-- The class of a request: 0 once it has aged (R532). -/
def ownClass (w : Waiting) : Nat := if w.aged then 0 else w.req.cls

/-- The class with which a request of an arbiter counts: on DRAM the lowest of those that wait for its line behind it (R533). -/
def classOf (s : State) (a : Nat) (w : Waiting) : Nat :=
  if a < 8 then
    ((arbAt s a).waiting.filter (fun x => x.req.line == w.req.line)).foldl (fun m x => Nat.min m (ownClass x)) (ownClass w)
  else 0

/-- Whether a row-disturbance hold keeps a request back (R537). -/
def rhHeld (s : State) (ch : Nat) (q : ArbReq) : Bool :=
  let b := rhBank s ch q.bank
  b.all || b.held == some (q.requester, q.tenant)

/-- The requests that no older request for the same line precedes (R533), oldest first. -/
def unblocked : List Nat → List Waiting → List Waiting
  | _, [] => []
  | seen, w :: t => if seen.contains w.req.line then unblocked seen t else w :: unblocked (w.req.line :: seen) t

/-- Whether Strict Partition lets a search bank grant a request: of lanes and Sward ports only in the slots of their tenant
(R388). -/
def searchServes (s : State) (q : ArbReq) : Bool :=
  !(decide (2 ≤ q.requester) && decide (q.requester ≤ 18)) || servesTenant s q.tenant

/-- Whether a request is for a line that is being copied into its spare: it is held until the copy ends (R144). -/
def lineCopied (s : State) (ch : Nat) (q : ArbReq) : Bool := s.pcs.copying.contains (lineKey ch (channelLine s q.line))

/-- The candidates of a decision, oldest first. -/
def candidates (s : State) (a sub : Nat) : List Waiting :=
  let l := (arbAt s a).waiting
  if a < 8 then (unblocked [] l).filter (fun w => bankSub w.req.bank == sub && !rhHeld s a w.req && !lineCopied s a w.req)
  else if a < 16 then l.filter (fun w => searchServes s w.req)
  else l

/-- Whether one candidate goes before another that came earlier: a lower class, then a stronger rank (R531, R542). -/
def goesBefore (s : State) (a : Nat) (x y : Waiting) : Bool :=
  let cx := classOf s a x
  let cy := classOf s a y
  decide (cx < cy) || (cx == cy && decide (arbRank s a x.req.requester < arbRank s a y.req.requester))

/-- The winner of a decision: of equals, the oldest (R531, R543). -/
def winnerOf (s : State) (a sub : Nat) : Option Waiting :=
  (candidates s a sub).foldl (fun best w =>
    match best with
    | none => some w
    | some b => if goesBefore s a w b then some w else best) none

/-- The requests that the winner's grant takes with it: on DRAM up to 7 further of its port and class in its row (R531). -/
def grantOf (s : State) (a sub : Nat) (w : Waiting) : List Waiting :=
  if a < 8 then
    w :: (((candidates s a sub).filter (fun x =>
      x != w && x.req.requester == w.req.requester && classOf s a x == classOf s a w && x.req.bank == w.req.bank
        && x.req.row == w.req.row)).take 7)
  else [w]

/-- The beats of a grant (R541). -/
def grantBeats (a : Nat) (g : List Waiting) : Nat :=
  if a < 8 then g.length
  else if a < 24 then 1
  else within 1 32 ((g.head?.map (fun w => w.req.beats)).getD 1)

/-! ### Activations (R536 to R538) -/

/-- The pair with the lowest count, and the leader: the highest count, on a tie the lowest port (R536). -/
def lowestPair (l : List (Nat × Nat × Nat)) : Option (Nat × Nat × Nat) :=
  l.foldl (fun b p => match b with
    | none => some p
    | some q => if p.2.2 < q.2.2 then some p else b) none
def leaderOf (l : List (Nat × Nat × Nat)) : Option (Nat × Nat × Nat) :=
  l.foldl (fun b p => match b with
    | none => some p
    | some q => if q.2.2 < p.2.2 || (q.2.2 == p.2.2 && decide (p.1 < q.1)) then some p else b) none

/-- The tracked pairs after an activation by a pair. -/
def trackPair (l : List (Nat × Nat × Nat)) (port tag : Nat) : List (Nat × Nat × Nat) :=
  if l.any (fun p => p.1 == port && p.2.1 == tag) then
    l.map (fun p => if p.1 = port ∧ p.2.1 = tag then (port, tag, p.2.2 + 1) else p)
  else if l.length < 4 then l ++ [(port, tag, 1)]
  else
    match lowestPair l with
    | some m => l.erase m ++ [(port, tag, m.2.2 + 1)]
    | none => [(port, tag, 1)]

/-- DRC_CH_RH_STATUS of a leader. -/
def rhStatus (port tag bank : Nat) : Dword := dwordOf (place port 0 4 + place tag 4 11 + place bank 16 7)

/-- An activation of a bank for a request: it is counted, and at ACT_LIMIT the leader is held, at twice it every request
(R537). The rolling count pays for an RFM at the threshold declared (R538). -/
def activate (s : State) (ch : Nat) (q : ArbReq) : State :=
  let b := rhBank s ch q.bank
  let pairs := trackPair b.pairs q.requester q.tenant
  let n := b.count + 1
  let lim := actLimit s ch
  let throttle := decide (lim ≤ n) && b.held.isNone
  let hold := decide (2 * lim ≤ n) && !b.all
  let lead := leaderOf pairs
  let raa := match Config.rfmThreshold ch with
    | some t => if t ≤ b.raa + 1 then b.raa + 1 - t else b.raa + 1
    | none => 0
  let s1 := updBank s ch q.bank (fun x => { x with
    count := n, pairs := pairs, raa := raa, all := x.all || hold
    held := if throttle then lead.map (fun p => (p.1, p.2.1)) else x.held })
  let s2 := match throttle, lead with
    | true, some p => setReg (raise s1 evDrc 1) (0x400008 + (ch + 1) * 0x10000) (rhStatus p.1 p.2.1 q.bank)
    | _, _ => s1
  raiseIf hold s2 evDrc 2

/-- Counts and holds of a channel restart (R536, R537). -/
def endWindow (s : State) (ch : Nat) : State :=
  updDchan s ch (fun c => { c with banks := c.banks.map (fun e => (e.1, { e.2 with count := 0, pairs := [], held := none, all := false })) })

/-! ### Decisions (R543, R544) -/

/-- An access performed by a grant: one with a tenant's tag must lie in a region of the tenant with the right (R513). -/
def checkAccess (a : Nat) (s : State) (w : Waiting) : State :=
  let x := if w.req.write then Right.write else Right.read
  let ok :=
    if a < 8 then accessOk s w.req.tenant 0 (w.req.line / 64) (w.req.line / 64) x
    else if 16 ≤ a ∧ a < 24 then accessOk s w.req.tenant (8 + (a - 16)) (w.req.line / 64) (w.req.line / 64) x
    else true
  if ok then s else denied s

/-- What a grant's reads of DRAM lines meet (R139, R140, R142, R143). -/
def checkLine (a : Nat) (s : State) (w : Waiting) : State :=
  if a < 8 && !w.req.write then lineFound s a (channelLine s w.req.line) w.req.found else s

/-- A grant begins: its requests leave the wait, and on DRAM their row is activated. -/
def beginGrant (s : State) (a sub : Nat) (w : Waiting) : State :=
  let g := grantOf s a sub w
  let s1 := updArb s a (fun x => { x with
    waiting := g.foldl (fun l y => l.erase y) x.waiting, lastHold := w.req.requester
    grants := tabPut x.grants sub { w.req with beats := grantBeats a g }, frames := x.frames + 1 })
  let s2 := if a < 8 then activate s1 a w.req else s1
  refillPorts (g.foldl (checkLine a) (g.foldl (checkAccess a) s2)) a

/-- A refresh of a rank issued: the rolling counts of its banks pay for one RFM (R538). -/
def issueRefresh (s : State) (ch rank : Nat) : State :=
  match Config.rfmThreshold ch with
  | some t => updDchan s ch (fun c => { c with
      banks := c.banks.map (fun e => (e.1, if e.1 / 64 = rank then { e.2 with raa := e.2.raa - t } else e.2)) })
  | none => s

/-- An idle DRAM channel issues its postponed refreshes and pulls in up to 4 more of each rank; how many is free (R535,
log 3). -/
def idleRefresh (s : State) (ch : Nat) : State :=
  let n := (freeNow s).toNat % 5
  let c := dchanAt s ch
  let pulled := (if c.ranks2 then [0, 1] else [0]).map (fun r => (r, Nat.min 4 (Nat.max n (tabAt 0 c.pulled r))))
  let again (r : Nat) : Nat := tabAt 0 c.postponed r + (tabAt 0 pulled r - tabAt 0 c.pulled r)
  let s1 := ((pulled.map (·.1)).flatMap (fun r => List.replicate (again r) r)).foldl (fun t r => issueRefresh t ch r) s
  takeFree (updDchan s1 ch (fun c => { c with postponed := [], pulled := pulled }))

/-- Whether an arbiter takes decisions: its island's clock runs, and the DRAM of a channel is active. -/
def arbRuns (s : State) (a : Nat) : Bool := clockRuns s (arbIsland a) && (8 ≤ a || (dchanAt s a).st == 2)

/-- ARBITER_DECISION (R543): in the last beat of a grant, of a subchannel on DRAM, the next holder is chosen among the requests
present; `arrivals` are those that have come since the latest decision. Its grant begins at the next beat. No decision is
taken while an emergency lasts (R545). -/
def execArbiterDecision (a subch : Nat) (arrivals : List ArbReq) (s : State) : Out :=
  let s1 := arrive s a arrivals
  .next <|
    if !arbRuns s1 a || (arbAt s1 a).suspended then s1
    else
      let s2 := updArb s1 a (fun x => { x with grants := tabDel x.grants subch })
      match winnerOf s2 a subch with
      | some w => beginGrant s2 a subch w
      | none => if a < 8 && (arbAt s2 a).waiting.isEmpty && (arbAt s2 a).grants.isEmpty then idleRefresh s2 a else s2

/-- DRAM_REQUEST_AGE (R532): the requests that have waited AGE_NS become class 0. -/
def execDramRequestAge (ch : Nat) (s : State) : Out :=
  .next (updArb s ch (fun x => { x with
    waiting := x.waiting.map (fun w => { w with aged := w.aged || decide (w.at_ + ageTicks s ch ≤ now s) }) }))

/-! ### Refresh (R535) -/

/-- Refreshes postponed in a channel. -/
def postponedOf (c : DChan) : Nat := c.postponed.foldl (fun a e => a + e.2) 0

/-- tREFI, by whether the DRAM reports more than 85 °C (R535). -/
def refreshInterval (hot : Bool) : Nat := if hot then 1950 else 3900

/-- Whether a refresh of a rank falls due: tREFI after its latest, and tREFI ÷ 2 apart from the other rank's (R535). -/
def refreshFalls (s : State) (ch rank : Nat) (hot : Bool) : Bool :=
  let c := dchanAt s ch
  isDue s (tabAt 0 c.refreshAt rank) (refreshInterval hot)
    && (!c.ranks2 || isDue s (tabAt 0 c.refreshAt (1 - rank)) (refreshInterval hot / 2))

/-- The window of R536 in ticks. -/
def rhWindow (s : State) (ch : Nat) : Nat := within 1 8 (fld (drcReg s ch 0x40000C) 12 4) * refreshInterval (dchanAt s ch).twox

/-- REFRESH_DUE (R535): a refresh pulled in early pays for it; it is postponed while requests of classes 0 to 2 wait, and with
4 already postponed it becomes the emergency requester. `hot`: the DRAM reports more than 85 °C. -/
def execRefreshDue (ch rank : Nat) (hot : Bool) (s : State) : Out :=
  let c := dchanAt s ch
  let s1 := updDchan s ch (fun c => { c with twox := hot, refreshAt := tabPut c.refreshAt rank (now s) })
  let busy := (arbAt s ch).waiting.any (fun w => decide (ownClass w ≤ 2))
  .next <|
    if c.st ≠ 2 || (rank ≠ 0 && !c.ranks2) || !refreshFalls s ch rank hot then s
    else if 0 < tabAt 0 c.pulled rank then updDchan s1 ch (fun c => { c with pulled := tabUpd 0 c.pulled rank (· - 1) })
    else if !busy then issueRefresh s1 ch rank
    else if postponedOf c < 4 then updDchan s1 ch (fun c => { c with postponed := tabUpd 0 c.postponed rank (· + 1) })
    else raise (updArb s1 ch (fun x => { x with emergency := some rank })) evDrc 3

/-- RH_WINDOW_END (R536): the window of a channel ends, and counts and holds restart. -/
def execRhWindowEnd (ch : Nat) (s : State) : Out :=
  .next <|
    if !isDue s (dchanAt s ch).windowAt (rhWindow s ch) then s
    else updDchan (endWindow s ch) ch (fun c => { c with windowAt := now s })

/-! ### Emergencies (R545) -/

/-- Whether an emergency requester asks for an arbiter's resource: a refresh on DRAM, the debug port at cluster memory and
the stream crossbar (R541). -/
def emergencyAsks (s : State) (a : Nat) : Bool := if a < 8 then (arbAt s a).emergency.isSome else decide (16 ≤ a) && dbgOpen s

/-- The key of ARB_a_GRANT, whose REVOKES field the state holds. -/
def revokeKey (a : Nat) : Nat := arbBase a + 8

/-- EMERGENCY_REVOKE (R545): the emergency requester takes the resource; a holder is suspended, which counts. -/
def execEmergencyRevoke (a : Nat) (s : State) : Out :=
  let x := arbAt s a
  .next <|
    if !emergencyAsks s a || x.suspended || !arbRuns s a then s
    else
      let s1 := updArb s a (fun y => { y with suspended := true })
      if x.grants.isEmpty then s1
      else
        let s2 := setRegFld s1 (revokeKey a) 16 16 (Nat.min 65535 (regFld s1 (revokeKey a) 16 16 + 1))
        if a < 8 then s2 else raise s2 evArb 1

/-- EMERGENCY_END (R545): the refresh is done, or the debug port's access, and the holder resumes ahead of every other
requester with its beats left. -/
def execEmergencyEnd (a : Nat) (s : State) : Out :=
  let x := arbAt s a
  .next <|
    if x.suspended then
      let s1 := updArb s a (fun y => { y with suspended := false, emergency := none })
      match x.emergency with
      | some rank => issueRefresh s1 a rank
      | none => s1
    else s

/-! ### Ranks (R542, R546) -/

/-- The ranks of an arbiter that its eight rank registers would give. -/
def ranksFrom (v : Nat → Dword) (a : Nat) : List Nat :=
  (List.range (arbRequesters a)).map (fun r => fld (v (arbBase a + 0x10 + r / 4 * 4)) (r % 4 * 8) 5)

/-- Whether a list of ranks gives a rank twice. -/
def repeats : List Nat → Bool
  | [] => false
  | r :: t => t.contains r || repeats t

end Sys2Proof.Machine
end

