-- ==== Sys2Proof/Machine/Io.lean ====
section
/-! DEFINITION. The I/O commands of R249 and the steps of a write between its admission and its record (R203, R214, R216,
R245). The places of fields in command dwords are those of the NVMe specifications (log 13). -/

namespace Sys2Proof.Machine

/-! ### Reserved fields (R10, R249) -/

/-- Reserved bits of Write, of Read, of Compare, of Verify and of Write Zeroes; a non-zero DTYPE of a Write is Invalid Field
as well. -/
def reservedWrite (c : NvCmd) : List (Dword × Nat) := c23 c ++ [(c.c12, 0x02FF0000), (c.c13, 0x0000FF00)]
def reservedRead (c : NvCmd) : List (Dword × Nat) := c23 c ++ [(c.c12, 0x02FF0000), (c.c13, 0xFFFFFF00)]
def reservedCompare (c : NvCmd) : List (Dword × Nat) := c23 c ++ [(c.c12, 0x02FF0000), (c.c13, 0xFFFFFFFF)]
def reservedVerify (c : NvCmd) : List (Dword × Nat) := c23 c ++ [(c.c12, 0x02FF0000), (c.c13, 0xFFFFFFFF)]
def reservedZeroes (c : NvCmd) : List (Dword × Nat) := c23 c ++ [(c.c12, 0x00FF0000), (c.c13, 0x0000FFFF)]
def reservedDsm (c : NvCmd) : List (Dword × Nat) :=
  c23 c ++ [(c.c10, 0xFFFFFF00), (c.c11, 0xFFFFFFF8), (c.c12, 0xFFFFFFFF), (c.c13, 0xFFFFFFFF), (c.c14, 0xFFFFFFFF),
            (c.c15, 0xFFFFFFFF)]
def reservedAll (c : NvCmd) : List (Dword × Nat) :=
  c23 c ++ [(c.c10, 0xFFFFFFFF), (c.c11, 0xFFFFFFFF), (c.c12, 0xFFFFFFFF), (c.c13, 0xFFFFFFFF), (c.c14, 0xFFFFFFFF),
            (c.c15, 0xFFFFFFFF)]

/-! ### Write, Read and their kin -/

/-- WRITE (R203). -/
def execWrite (c : NvCmd) (s : State) : Out :=
  let len := nlbOf c * lbaSizeOf s c
  .next (ioBegin s c 0x01 (slbaOf c) (nlbOf c)
    (ioChecks s c (reservedWrite c) [(slbaOf c, nlbOf c)] (some (true, len)) true))

/-- READ (R257). -/
def execRead (c : NvCmd) (s : State) : Out :=
  let len := nlbOf c * lbaSizeOf s c
  .next (ioBegin s c 0x02 (slbaOf c) (nlbOf c)
    (ioChecks s c (reservedRead c) [(slbaOf c, nlbOf c)] (some (false, len)) false))

/-- COMPARE (R249). -/
def execCompare (c : NvCmd) (s : State) : Out :=
  let len := nlbOf c * lbaSizeOf s c
  .next (ioBegin s c 0x05 (slbaOf c) (nlbOf c)
    (ioChecks s c (reservedCompare c) [(slbaOf c, nlbOf c)] (some (true, len)) false))

/-- WRITE_ZEROES (R187). -/
def execWriteZeroes (c : NvCmd) (s : State) : Out :=
  .next (ioBegin s { c with memOk := true } 0x08 (slbaOf c) (nlbOf c)
    (ioChecks s c (reservedZeroes c) [(slbaOf c, nlbOf c)] none true))

/-- VERIFY (R249). -/
def execVerify (c : NvCmd) (s : State) : Out :=
  .next (ioBegin s c 0x0C (slbaOf c) (nlbOf c)
    (ioChecks s c (reservedVerify c) [(slbaOf c, nlbOf c)] none false))

/-- What an I/O command that runs in its own step does. A command that is already past its fetch is left as it is. -/
def onFetched (s : State) (c : NvCmd) (op : Nat) (run : State → State) : State :=
  match findCmd s c.id with
  | some e => if e.phase ≠ .fetched then s else run (intake s c op true)
  | none => run (intake s c op true)

/-- DATASET_MANAGEMENT (R186). Without the deallocate attribute it does nothing; a failed transfer of its ranges is a Data
Transfer Error (R247). -/
def execDatasetManagement (c : NvCmd) (s : State) : Out :=
  let ranges := if c.memOk then dsmRanges c else []
  let check := ioChecks s c (reservedDsm c) ranges (some (true, 16 * ranges.length)) true
  if !c.memOk && check = none then
    .next (onFetched s c 0x09 (fun t => resumeCmds (failCmd t c.id stDataTransfer)))
  else if !bitOf c.c11 2 && check = none then .next (onFetched s c 0x09 (fun t => resumeCmds (complete t c.id stSuccess)))
  else .next (ioBegin s c 0x09 0 0 check)

/-- FLUSH (R249): it completes without moving data (R32). NSID FFFFFFFFh names every namespace. -/
def execFlush (c : NvCmd) (s : State) : Out :=
  let all := c.nsid = 0xFFFFFFFF
  let check :=
    if all then (if inRecovery s then some stNotReady else if reservedOk (reservedAll c) then none else some stInvalidField)
    else if inRecovery s then some stNotReady
    else if !reservedOk (reservedAll c) then some stInvalidField
    else if (nsFor s c.id.fn c.nsid.toNat).isNone then some stInvalidNs
    else if deliveryDue s c.id.fn c.nsid.toNat (((findCmd s c.id).map (·.order)).getD s.host.order) then some stDeferred
    else none
  .next (onFetched s c 0x00 (fun s1 =>
    match check with
    | some st => if st = stDeferred then deliver s1 c.id c.nsid.toNat else failCmd s1 c.id st
    | none => complete s1 c.id stSuccess))

/-! ### Reservations (R249) -/

/-- The reservation of a namespace. -/
def reservationAt (s : State) (nsid : Nat) : Reservation := tabAt {} s.host.reservations nsid

/-- A reservation changed. -/
def setReservation (s : State) (nsid : Nat) (r : Reservation) : State :=
  { s with host := { s.host with reservations := tabPut s.host.reservations nsid r } }

/-- The outcome of a reservation command's checks, and its run. -/
def resRun (s : State) (c : NvCmd) (op : Nat) (reserved : List (Dword × Nat)) (len : Nat) (toDevice : Bool)
    (run : State → Reservation → State × Status × List Byte) : State :=
  onFetched s c op <| fun s1 =>
  let nsid := c.nsid.toNat
  let check : Option Status :=
    if inRecovery s then some stNotReady
    else if !reservedOk (reserved ++ c12on c) then some stInvalidField
    else if (nsFor s c.id.fn nsid).isNone then some stInvalidNs
    else
      match sglCheck c.ptr toDevice len with
      | some st => some st
      | none =>
        if deliveryDue s c.id.fn nsid (((findCmd s c.id).map (·.order)).getD s.host.order) then some stDeferred
        else if !c.memOk then some stDataTransfer
        else none
  match check with
  | some st => if st = stDeferred then deliver s1 c.id nsid else failCmd s1 c.id st
  | none =>
    let r := run s1 (reservationAt s1 nsid)
    completeWith r.1 c.id r.2.1 0 0 r.2.2

/-- A registrant dropped: a reservation it holds is released, unless every registrant holds it and one is left. -/
def dropRegistrant (r : Reservation) (f : Nat) : Reservation :=
  let regs := tabDel r.regs f
  let keep := (r.rtype = 5 || r.rtype = 6) && !regs.isEmpty
  if r.holder = some f && !keep then { r with regs := regs, holder := none, rtype := 0 }
  else if r.holder = some f then { r with regs := regs, holder := (regs.head?).map (·.1) }
  else { r with regs := regs }

/-- Whether a function's key is the current key of the command, or existing keys are ignored (IEKEY). -/
def keyMatches (r : Reservation) (f : Nat) (c : NvCmd) : Bool :=
  match tabGet r.regs f with
  | some k => bitOf c.c10 3 || k.toNat == leAt c.data 0 8
  | none => false

/-- RESERVATION_REGISTER (R249). -/
def execReservationRegister (c : NvCmd) (s : State) : Out :=
  let f := c.id.fn
  let nrkey : Qword := BitVec.ofNat 64 (leAt c.data 8 8)
  .next (resRun s c 0x0D (c23 c ++ [(c.c10, 0x3FFFFFF0), (c.c11, 0xFFFFFFFF)]) 16 true (fun t r0 =>
    let cp := fld c.c10 30 2
    let r := if cp = 2 then { r0 with ptpl := false } else if cp = 3 then { r0 with ptpl := true } else r0
    let put (x : Reservation) : State × Status × List Byte :=
      (setReservation t c.nsid.toNat { x with gen := (x.gen + 1) % 2 ^ 32 }, stSuccess, [])
    let a := fld c.c10 0 3
    if a = 0 then
      match tabGet r.regs f with
      | some k => if k = nrkey then (setReservation t c.nsid.toNat r, stSuccess, []) else (t, stReservation, [])
      | none => put { r with regs := tabPut r.regs f nrkey }
    else if a = 1 then
      if keyMatches r f c then put (dropRegistrant r f) else (t, stReservation, [])
    else if a = 2 then
      if keyMatches r f c || bitOf c.c10 3 then put { r with regs := tabPut r.regs f nrkey } else (t, stReservation, [])
    else (t, stInvalidField, [])))

/-- RESERVATION_REPORT (R249): generation, type, registrants with their controller, holder bit, host identifier of zeros
and key. -/
def execReservationReport (c : NvCmd) (s : State) : Out :=
  let len := (c.c10.toNat + 1) * 4
  .next (resRun s c 0x0E (c23 c ++ [(c.c11, 0xFFFFFFFE)]) len false (fun t r =>
    let ext := bitOf c.c11 0
    let all := r.rtype = 5 || r.rtype = 6
    let entry (e : Nat × Qword) : List Byte :=
      let held := r.holder = some e.1 || (all && r.holder.isSome)
      if ext then
        leBytes (e.1 + 1) 2 ++ leBytes (bitNat held) 1 ++ zeros 5 ++ leBytes e.2.toNat 8 ++ zeros 48
      else leBytes (e.1 + 1) 2 ++ leBytes (bitNat held) 1 ++ zeros 5 ++ zeros 8 ++ leBytes e.2.toNat 8
    let head := leBytes r.gen 4 ++ leBytes r.rtype 1 ++ leBytes r.regs.length 2 ++ zeros 2 ++ leBytes (bitNat r.ptpl) 1
      ++ zeros 14 ++ (if ext then zeros 40 else [])
    (t, stSuccess, padTo len (head ++ ((r.regs.map entry).foldl (· ++ ·) [])))))

/-- RESERVATION_ACQUIRE (R249). -/
def execReservationAcquire (c : NvCmd) (s : State) : Out :=
  let f := c.id.fn
  let rt := fld c.c10 8 8
  let prkey := leAt c.data 8 8
  .next (resRun s c 0x11 (c23 c ++ [(c.c10, 0xFFFF00F0), (c.c11, 0xFFFFFFFF)]) 16 true (fun t r =>
    let a := fld c.c10 0 3
    let put (x : Reservation) : State × Status × List Byte := (setReservation t c.nsid.toNat x, stSuccess, [])
    if 2 < a || rt = 0 || 6 < rt then (t, stInvalidField, [])
    else if !keyMatches r f c then (t, stReservation, [])
    else if a = 0 then
      if r.holder = none then put { r with holder := some f, rtype := rt }
      else if (r.holder = some f || r.rtype = 5 || r.rtype = 6) && r.rtype = rt then put r
      else (t, stReservation, [])
    else
      let all := (r.rtype = 5 || r.rtype = 6) && r.holder.isSome
      let victims := (r.regs.filter (fun e => e.1 ≠ f && (e.2.toNat == prkey || (all && prkey == 0)))).map (·.1)
      let heldByKey := match r.holder with
        | some h => ((tabGet r.regs h).map (·.toNat)) == some prkey
        | none => false
      let takes := r.holder.isSome && ((all && prkey == 0) || (!all && heldByKey))
      if victims.isEmpty && !takes then (t, stReservation, [])
      else
        let r1 := victims.foldl dropRegistrant r
        let r2 := if takes then { r1 with holder := some f, rtype := rt } else r1
        put { r2 with gen := (r2.gen + 1) % 2 ^ 32 }))

/-- RESERVATION_RELEASE (R249). -/
def execReservationRelease (c : NvCmd) (s : State) : Out :=
  let f := c.id.fn
  let rt := fld c.c10 8 8
  .next (resRun s c 0x15 (c23 c ++ [(c.c10, 0xFFFF00F0), (c.c11, 0xFFFFFFFF)]) 8 true (fun t r =>
    let a := fld c.c10 0 3
    if 1 < a then (t, stInvalidField, [])
    else if !keyMatches r f c then (t, stReservation, [])
    else if a = 1 then
      (setReservation t c.nsid.toNat { r with regs := [], holder := none, rtype := 0, gen := (r.gen + 1) % 2 ^ 32 },
        stSuccess, [])
    else
      let mine := r.holder = some f || ((r.rtype = 5 || r.rtype = 6) && r.holder.isSome)
      if !mine then (t, stSuccess, [])
      else if r.rtype ≠ rt then (t, stInvalidField, [])
      else (setReservation t c.nsid.toNat { r with holder := none, rtype := 0 }, stSuccess, [])))

/-! ### Steps of a write -/

/-- ETCH_DATA_ACK (R203): every byte of a command's data is acknowledged, so its record is built. While codewords of a merge
are still to come, nothing is built. -/
def execEtchDataAck (id : CmdId) (s : State) : Out :=
  match findCmd s id with
  | none => .next s
  | some e =>
    match e.job with
    | some j =>
      match tabGet s.chn.jobs j with
      | none => .next s
      | some b =>
        if b.sinkPend = 0 && b.sinking && !s.power.fence then
          let s1 := b.blocks.foldl releaseBlock (buildRecord s (fun x => x.job == some j))
          .next { s1 with chn := { s1.chn with jobs := tabPut s1.chn.jobs j { b with blocks := [] } } }
        else .next s
    | none =>
      if e.phase = .moving && e.pend = 0 && !s.power.fence then
        let s1 := buildRecord s (fun b => b.cmd == some id)
        let s2 := e.blocks.foldl releaseBlock s1
        .next (updCmd s2 id (fun x => { x with phase := .built, blocks := [] }))
      else .next s

/-- Whether a completion is an Abort's whose target's completion is still to be posted (R261). -/
def abortWaits (s : State) (c : Completion) : Bool :=
  match findCmd s c.id with
  | some e =>
    e.opcode = 0x08 && !e.isIo
      && s.host.waiting.any (fun w =>
        w.id == { fn := c.id.fn, qid := fld e.cmd.c10 0 16, cid := fld e.cmd.c10 16 16 } && (w.sct, w.sc) == stAbortRequested)
  | none => false

/-- COMPLETION_POST (R245): the oldest completion that waits for a completion queue is posted once the queue has a free
entry. -/
def execCompletionPost (fn cqid : Nat) (s : State) : Out :=
  let mine (c : Completion) : Bool := c.id.fn == fn && cqOf s fn c.id.qid == cqid && !abortWaits s c
  match s.host.waiting.find? mine with
  | none => .next s
  | some c =>
    let full := match tabGet (ctrlAt s fn).cqs cqid with
      | some q => decide (q.size ≤ q.posted.length + 1)
      | none => false
    let idle := (s.host.exec.find? (fun e => e.cmd.id == c.id)).map (·.tenant)
    if full then .next s
    else if !servesTenant s (idle.getD (fnTenant s fn)) then .next s
    else
      let s1 := { s with host := { s.host with
          waiting := s.host.waiting.erase c
          exec := s.host.exec.filter (fun e => e.cmd.id ≠ c.id) } }
      .next (updCtrl s1 fn (fun k => { k with
        cqs := match tabGet k.cqs cqid with
          | some q => tabPut k.cqs cqid { q with posted := q.posted ++ [c] }
          | none => k.cqs }))

end Sys2Proof.Machine
end

