-- ==== Sys2Proof/Machine/Lanes.lean ====
section
/-! DEFINITION. The filter lanes at work (R320 to R322, R337, R338, R521). -/

namespace Sys2Proof.Machine

/-- A lane, and the state with one changed. -/
def laneAt (s : State) (l : Nat) : Lane := tabAt {} s.lanes.lanes l
def updLane (s : State) (l : Nat) (g : Lane → Lane) : State :=
  { s with lanes := { s.lanes with lanes := tabUpd {} s.lanes.lanes l g } }

/-- Lanes that a power state runs (R15). -/
def lanesPowered (p : Nat) : Nat := if p = 0 then 8 else if p = 1 then 4 else if p = 2 then 2 else 0

/-- The active lanes: those in service, the lower-numbered first, as many as the power state runs. -/
def activeLanes (s : State) : List Nat := (usableUnits s .lane 0).take (lanesPowered (powerFor s))

/-- Lanes that run pieces of a job. -/
def lanesOfJob (s : State) (j : Nat) : Nat := (s.lanes.lanes.filter (fun e => e.2.piece.map (·.job) == some j)).length

/-- Whether a piece may go to a lane now (R322, R521). -/
def pieceMayRun (s : State) (p : Piece) : Bool :=
  servesFor s p.tenant 500 &&
    (match tabGet s.lanes.jobs p.job with
     | some l => decide (lanesOfJob s p.job < l.maxLanes)
     | none => false)

/-- A program made resident on a lane as the one used last; of more than 8 the one used longest ago leaves (R321). An inline
program has no ID and does not stay. -/
def residentAfter (l : Lane) (prog : Nat) : Lane :=
  let rest := l.residents.filter (· ≠ prog)
  let load := if prog ≠ 0 ∧ l.residents.contains prog then 0 else 1
  let keep := if prog = 0 then l.residents else rest.drop (rest.length - 7) ++ [prog]
  { l with residents := keep, loads := Nat.min 65535 (l.loads + load) }

/-- LANE_PIECE_START (R321): a free active lane takes the waiting piece that was queued earliest, of those it may take. -/
def execLanePieceStart (lane : Nat) (s : State) : Out :=
  .next <|
    if !(activeLanes s).contains lane || (laneAt s lane).piece.isSome then s
    else
      match s.lanes.queue.find? (pieceMayRun s) with
      | none => s
      | some p =>
        let prog := ((tabGet s.lanes.jobs p.job).map (·.prog)).getD 0
        let s1 := { s with lanes := { s.lanes with queue := s.lanes.queue.erase p } }
        updLane s1 lane (fun l => { residentAfter l prog with piece := some p, prog := prog })

/-- Spills taken into a job's merge table: a key beyond MERGE_MAX finds no room (R338). -/
def mergeSpills (cap : Nat) : List (Nat × Acc) → List (Nat × List Acc) → List (Nat × List Acc) × Bool
  | [], t => (t, false)
  | e :: es, t =>
    match tabGet t e.1 with
    | some l => mergeSpills cap es (tabPut t e.1 (l ++ [e.2]))
    | none => if cap ≤ t.length then (t, true) else mergeSpills cap es (tabPut t e.1 [e.2])

/-- A failure in a piece: the job's later pieces that wait do not run; the first failure in source order counts. -/
def failPiece (s : State) (p : Piece) (l : LaneJob) (st : Status) : State :=
  let late (q : Piece) : Bool := q.job == p.job && decide (p.index < q.index)
  let n := (s.lanes.queue.filter late).length
  let first := l.failed.isNone || decide (p.index < l.failAt)
  { s with lanes := { s.lanes with
      queue := s.lanes.queue.filter (fun q => !late q)
      jobs := tabPut s.lanes.jobs p.job { l with
        left := l.left - n, failed := if first then some st else l.failed, failAt := if first then p.index else l.failAt } } }

/-- A piece's records, spills and failure given to its job. -/
def takePiece (s : State) (p : Piece) (l : LaneJob) (prog : LaneProg) (r : LaneRun) : State :=
  let m := mergeSpills prog.agg.mergeMax r.spills l.table
  let full := prog.output = 1 && m.2
  let l1 := { l with
    outs := tabPut l.outs p.index (r.out.foldl (· ++ ·) []), left := l.left - 1
    table := if prog.output = 1 then m.1 else l.table }
  let s1 := raiseIf full { s with lanes := { s.lanes with jobs := tabPut s.lanes.jobs p.job l1 } } evFln 3
  match r.err with
  | some st => failPiece s1 p l1 st
  | none => if full then failPiece s1 p l1 stOutputSpace else s1

/-- LANE_PIECE_END (R337): the lane has run its piece; it spills its open accumulators and zeroes them (R321). -/
def execLanePieceEnd (lane : Nat) (faults : SearchFaults) (s : State) : Out :=
  .next <|
    match (laneAt s lane).piece with
    | none => s
    | some p =>
      let s1 := updLane (meetFaults s faults) lane (fun l => { l with piece := none, prog := 0 })
      match tabGet s1.lanes.jobs p.job with
      | none => s1
      | some l =>
        let prog := parseLane l.image
        let x : LaneCtx :=
          { p := prog, tenant := p.tenant, plate := lanePlate s1 p.tenant, skip := l.skip, free := aggFreeNow s1
            bad := faults.badWords }
        let r := runPiece x s1 p.base p.bytes
        match tabGet r.s.lanes.jobs p.job with
        | some l2 => takePiece { r.s with freeCount := r.s.freeCount + 1 } p l2 prog r
        | none => r.s

end Sys2Proof.Machine
end

