-- ==== Sys2Proof/Machine/Ciphers.lean ====
section
/-! DEFINITION. The cipher islands at work, their masks, and the failure of engine units (R27, R148, R402 to R410, R418). -/

namespace Sys2Proof.Machine

/-! ### Masks (R406, R407) -/

/-- Whether a unit has stopped for want of a reseed (R407). -/
def anyStalled (s : State) : Bool := s.cry.burin.any (fun e => !e.2.stalled.isEmpty)

/-- DRBG_RESEED (R406, R407): every 1 µs the CTR_DRBG reseeds the mask generators, and the commands held behind stopped units go on; or
a health test has failed. -/
def execDrbgReseed (healthy : Bool) (s : State) : Out :=
  .next <|
    if healthy && !isDue s s.cry.reseedAt usTicks then s
    else if healthy then
      let t := { s with cry := { s.cry with
          drbgOk := true, reseedAt := now s, burin := s.cry.burin.map (fun e => (e.1, { e.2 with stalled := [] })) } }
      if anyStalled s then resumeCmds t else t
    else raise { s with cry := { s.cry with drbgOk := false } } evCry 2

/-- A cipher island, and the state with one changed. -/
def burinAt (s : State) (g : Nat) : Burin := tabAt {} s.cry.burin g
def updBurin (s : State) (g : Nat) (f : Burin → Burin) : State :=
  { s with cry := { s.cry with burin := tabUpd {} s.cry.burin g f } }

/-- BURIN_UNIT_STALL (R407): a unit without a reseed for 1 ms stops taking requests. -/
def execBurinUnitStall (g unit : Nat) (s : State) : Out :=
  .next <|
    if g < 8 && unitUsable s .burin g unit && !(burinAt s g).stalled.contains unit
        && decide (s.cry.reseedAt + msTicks ≤ now s) then
      updBurin s g (fun b => { b with stalled := b.stalled ++ [unit] })
    else s

/-! ### Engine units (R27, R148) -/

/-- The event register of a pool and its UNIT_RETIRED bit; a decoder's failure shows as SELFTEST_FAIL. -/
def poolEvent (p : Pool) : Nat :=
  match p with
  | .ldpc => evPcs
  | .lane => evFln
  | .comp | .dec | .henc => evCdc
  | .burin | .dgs => evCry

/-- A unit retired, with its event and the event of a fault (R27, R46, R49). -/
def retireEvent (s : State) (p : Pool) (inst u : Nat) : State :=
  wantFaultEvent (raise (retireUnit s p inst u) (poolEvent p) 0)

/-! ### Requests (R409, R410) -/

/-- The request that a unit takes: the head of the queue, past the requests that the slot in progress does not serve. -/
def nextRequest (s : State) (g : Nat) : Option CipherReq := (burinAt s g).queue.find? (fun q => servesFor s q.tenant 300)

/-- A key among the 64 that an island caches, as the one used last. -/
def cacheKey (l : List Nat) (k : Nat) : List Nat := let r := l.filter (· ≠ k); r.drop (r.length - 63) ++ [k]

/-- What a unit answers to a request: the bytes, or why its stage fails (R403 to R405, R410). -/
def requestResult (r : CipherRun) (q : CipherReq) : Except Status (List Byte) :=
  if r.owner ≠ q.tenant then .error stKeyLimit
  else if r.gcm then
    let iv := (leBytes q.iv.toNat 16).take 12
    if r.encrypt then .ok (gcmEncrypt r.key iv q.data)
    else
      match gcmDecrypt r.key iv q.data with
      | some p => .ok p
      | none => .error stCheckValue
  else .ok (xtsUnit r.encrypt r.key q.iv.toNat q.data)

/-- The answer of a request given to its stage, and the stage's next requests pushed. -/
def answerRequest (s : State) (q : CipherReq) (r : CipherRun) : State :=
  let s1 := if r.count then countSlot s r.slot 1 else s
  let r1 := { r with out := r.out - 1 }
  let r2 :=
    match requestResult r q with
    | .ok bs => { r1 with parts := tabPut r.parts q.index bs }
    | .error st => { r1 with failed := match r.failed with | some x => some x | none => some st }
  pushRequests (updJob s1 q.job (fun y => { y with cipher := some r2 })) q.job requestFuel

/-- A unit runs the request at the head. An encryption that counts its units waits while its mark is being committed
(R417). -/
def runRequest (s : State) (g : Nat) (q : CipherReq) : State :=
  match (jobAt s q.job).bind (·.cipher) with
  | none => updBurin s g (fun b => { b with queue := b.queue.erase q })
  | some r =>
    let k := slotAt s r.slot
    if r.count ∧ k.st = 1 ∧ k.key = r.key ∧ usedMarkOf s r.slot < k.used + 1 then raiseSlotMark s r.slot false (k.used + 1) 0
    else
      let held := r.count && k.key == r.key && k.owner == r.owner
      let s1 := updBurin s g (fun b => { queue := b.queue.erase q, stalled := b.stalled, cache := cacheKey b.cache r.slot })
      answerRequest s1 q { r with count := held }

/-- CIPHER_REQUEST (R408, R409): a unit takes the request and computes its blocks twice; one disagreement sets DUP_MISMATCH,
a second retires the unit. -/
def execCipherRequest (g disagreements : Nat) (s : State) : Out :=
  .next <|
    if 8 ≤ g || !burinReady s g then s
    else
      match nextRequest s g with
      | none => s
      | some q =>
        let u := ((usableUnits s .burin g).find? (fun u => !(burinAt s g).stalled.contains u)).getD 0
        let s1 := raiseIf (decide (1 ≤ disagreements)) s evCry 1
        let s2 := if 2 ≤ disagreements then retireEvent s1 .burin g u else s1
        if burinReady s2 g then runRequest s2 g q else s2

/-! ### The failure of a unit (R27, R305) -/

/-- A stage rerun for the failure of the unit it ran on. -/
def rerunStage (s : State) (j stage : Nat) : State :=
  match jobAt s j with
  | none => s
  | some b =>
    match channelAt s b.slot with
    | none => s
    | some c => if b.running && b.stage == stage && b.failed.isNone then faultStage s j b c (stageOf c stage) else s

/-- The stage that ran on a unit. -/
def stageOn (s : State) (p : Pool) (u : Nat) : Option (Nat × Nat) :=
  match p with
  | .lane =>
    match (laneAt s u).piece with
    | some q => (jobAt s q.job).map (fun b => (q.job, b.stage))
    | none => none
  | .comp | .dec | .henc => (s.codec.uses.find? (fun x => x.pool == p && x.unit == some u)).map (fun x => (x.job, x.stage))
  | .dgs =>
    match s.cry.msgs.find? (fun e => e.2.unit == some u && onGeneral e.1) with
    | some (.stage j k, _) => some (j, k)
    | _ => none
  | .ldpc | .burin => none

/-- Messages of paths and threads on a failed digest unit wait again for a unit. -/
def rewaitMsgs (s : State) (u : Nat) : State :=
  { s with cry := { s.cry with
      msgs := s.cry.msgs.map (fun e =>
        if e.2.unit = some u ∧ onGeneral e.1 then (e.1, { e.2 with unit := none, waiting := true }) else e) } }

/-- A lane out of service holds no programs. -/
def emptyLane (s : State) (p : Pool) (u : Nat) : State :=
  if p = .lane then updLane s u (fun l => { l with piece := none, residents := [], prog := 0 }) else s

/-- ENGINE_UNIT_FAILURE (R27): the unit is retired, the spare takes its place, and the stage that ran on it is rerun. -/
def execEngineUnitFailure (pool : Pool) (inst unit : Nat) (s : State) : Out :=
  .next <|
    if poolInsts pool ≤ inst || !unitUsable s pool inst unit then s
    else
      let on_ := stageOn s pool unit
      let s1 := retireEvent s pool inst unit
      let s2 := match on_ with
        | some (j, k) => rerunStage s1 j k
        | none => s1
      let s3 := emptyLane s2 pool unit
      match pool with
      | .comp | .dec | .henc => fillCodec s3 pool
      | .dgs => fillDgs (rewaitMsgs s3 unit)
      | _ => s3

end Sys2Proof.Machine
end

