-- ==== Sys2Proof/Machine/Discovery.lean ====
section
/-! DEFINITION. What the dies that discovery meets are taken for: volume addresses, types, unique IDs (R87, R92, R94, R95,
R101). -/

namespace Sys2Proof.Machine

/-- One shift of a CRC-16 register whose most significant bit leaves first. -/
def crc16Step (r : Nat) : Nat := if r.testBit 15 then ((r <<< 1) ^^^ 0x8005) % 65536 else (r <<< 1) % 65536

/-- The CRC of a parameter page: that of ONFI, 0x8005 from 0x4F4E (PRESUMED, log 120). -/
def crc16 (bs : List Byte) : Nat :=
  bs.foldl (fun r b => crc16Step (crc16Step (crc16Step (crc16Step (crc16Step (crc16Step (crc16Step (crc16Step
    (r ^^^ (b.toNat <<< 8)))))))))) 0x4F4E

/-- Whether a copy of the 256-byte parameter page verifies. -/
def pageVerifies (p : List Byte) : Bool := p.length == 256 && crc16 (p.take 254) == leAt p 254 2

/-- The type of a die (R95): its first eight Read ID bytes, zero where unused, and the digest of the first copy of its parameter
page that verifies. -/
def identOf (d : DieFinding) : Qword := BitVec.ofNat 64 (leAt (padTo 8 d.ident) 0 8)
def typeOf (d : DieFinding) : Option DieType :=
  (d.pages.find? pageVerifies).map (fun p => { ident := identOf d, digest := BitVec.ofNat 256 (leNat (sha256 p)) })

/-- A unique ID read correctly (R101): that of a copy with 16 bytes followed by their complement. -/
def uidGood (c : List Byte) : Bool := c.length == 32 && (c.drop 16) == (c.take 16).map (fun b => ~~~b)
def uidOf (d : DieFinding) : Option (BitVec 128) :=
  ((d.uids.take 16).find? uidGood).map (fun c => BitVec.ofNat 128 (leNat (c.take 16)))

/-- A volume address that answers: the die's number on its channel, and what it is taken for. -/
structure DieSeen where
  die    : Nat
  ident  : Qword
  dtype  : Option DieType
  uid    : Option (BitVec 128)
  params : DieParams
deriving DecidableEq, Repr

/-- A die at a volume address of its chip enable. -/
def seenAt (d : DieFinding) (vol : Nat) : DieSeen :=
  { die := 4 * d.ce + vol, ident := identOf d, dtype := typeOf d, uid := uidOf d, params := d.params }

/-- The addresses of a chip enable (R94): a strapped die keeps its own, and the next along the chain takes the next of 0 to 3
(DEDUCED, log 120). -/
def appoint : Nat → List DieFinding → List DieSeen
  | _, [] => []
  | n, d :: ds =>
    match d.strap with
    | some v => seenAt d v :: appoint n ds
    | none => if n < 4 then seenAt d n :: appoint (n + 1) ds else appoint n ds

/-- Two dies at one address answer at once, and no unique ID is read correctly there (R101; DEDUCED, log 120). -/
def mergeSeen (l : List DieSeen) (d : DieSeen) : List DieSeen :=
  if l.any (fun e => e.die == d.die) then l.map (fun e => if e.die = d.die then { e with uid := none } else e) else l ++ [d]

/-- The volume addresses of a chip enable that answer. A Toggle DDR die without volume addressing is used alone, at volume 0
(R92). -/
def ceSeen (ds : List DieFinding) : List DieSeen :=
  match ds.find? (fun d => d.params.iface == .toggle && !d.params.volumes) with
  | some d => [seenAt d 0]
  | none => (appoint 0 ds).foldl mergeSeen []

/-- The dies of a channel, by rising number. -/
def chanSeen (ds : List DieFinding) : List DieSeen :=
  ((List.range 4).map (fun ce => ceSeen (ds.filter (fun d => d.ce == ce)))).foldl (· ++ ·) []

/-- Whether a die's interface is that of die 0 of its channel (R90). -/
def sameIface (l : List DieSeen) (d : DieSeen) : Bool :=
  match l.find? (fun e => e.die == 0) with
  | some z => z.params.iface == d.params.iface
  | none => true

end Sys2Proof.Machine
end

