-- ==== Sys2Proof/Machine/Programs.lean ====
section
/-! DEFINITION. Program Load and Program Unload (R286 to R290, R343, R477, R616). -/

namespace Sys2Proof.Machine

/-! ### Program IDs (R286, R616) -/

/-- The generation of a program index: drawn at the start of its epoch, from 1 to 15. -/
def progGen (s : State) (i : Nat) : Nat :=
  (tabGet s.chn.pgens i).getD ((Config.drbg (2 ^ 65 + s.chn.pepoch * 2 ^ 15 + i)).toNat % 15 + 1)

/-- The program ID of an index. -/
def progId (s : State) (i : Nat) : Nat := progGen s i * 4096 + i

/-- The loaded program that an ID names for a tenant. -/
def progFor (s : State) (tenant id : Nat) : Option Program :=
  match tabGet s.chn.programs id with
  | some p => if p.tenant = tenant then some p else none
  | none => none

/-- Loaded programs of a tenant. -/
def programsUsed (s : State) (t : Nat) : Nat := (s.chn.programs.filter (fun e => e.2.tenant == t)).length

/-- A program index for a new program, the one freed longest ago, and the state with it taken (R616). -/
def takeProgIndex (s : State) : Option (State × Nat) :=
  if s.chn.pused < 4096 then some ({ s with chn := { s.chn with pused := s.chn.pused + 1 } }, s.chn.pused)
  else
    match s.chn.pfreed with
    | i :: t => some ({ s with chn := { s.chn with pfreed := t } }, i)
    | [] => none

/-- A program gone: its ID resolves no more and its index's generation increments (R616). -/
def dropProgram (s : State) (id : Nat) : State :=
  let g := id / 4096
  { s with chn := { s.chn with
      programs := tabDel s.chn.programs id, pgens := tabPut s.chn.pgens (id % 4096) (if g = 15 then 1 else g + 1)
      pfreed := s.chn.pfreed ++ [id % 4096] } }

/-! ### The checks of an image -/

/-- Whether the window entries of an image are as R477 has them. -/
def windowsOk (im : List Byte) : Bool :=
  (List.range 16).all (fun k =>
    let w := imgWindow im k
    if k < 2 ∨ k = 15 then w == 0 else decide (w < 2 ^ 15))

/-- Whether an image is a Difel image that passes R477. -/
def imageOk (im : List Byte) : Bool :=
  let words := imgCode im + imgData im
  im.length == 128 + 8 * words && leAt im 0 4 == 0x36334C49 && leAt im 4 1 == 1 && leAt im 5 1 == 0 && leAt im 6 2 == 0
    && decide (1 ≤ imgCode im) && decide (imgCode im ≤ 65536) && decide (imgData im ≤ 61424)
    && decide (imgData im + imgBss im ≤ 262144) && decide (256 ≤ imgStack im) && decide (imgStack im ≤ 16384)
    && decide (imgEntry im < imgCode im) && decide (imgOutMax im ≤ 67108864) && decide (1 ≤ imgThreads im)
    && decide (imgThreads im ≤ 256) && decide (1 ≤ imgLimit im) && decide (imgLimit im ≤ 60000)
    && leAt im 36 4 == crc32c (overlayAt im 36 (zeros 4)) && (sliceOf im 40 24).all (· == 0) && windowsOk im
    && (chunks 8 (im.drop 128)).all (fun w => decide (leNat w < 2 ^ 36))

/-- Whether an image passes the checks of its kind (R289). -/
def programOk (kind : Nat) (im : List Byte) : Bool := if kind = 0 then imageOk im else laneOk im

/-- The image that a Program Load transfers. -/
def loadImage (c : NvCmd) : List Byte := padTo c.c10.toNat c.data

/-- PROGRAM_LOAD (R289): the image checks, then the tenant's quota, then room. -/
def execProgramLoad (c : NvCmd) (s : State) : Out :=
  let len := c.c10.toNat
  let kind := fld c.c11 0 4
  let tenant := fnTenant s c.id.fn
  let fits := len % 4 == 0 && decide (64 ≤ len) && decide (len ≤ 1048576) && decide (kind ≤ 1)
  let checks (t : State) : Option Status :=
    firstBad
      [ adminChecks t c ([(c.nsid, 0xFFFFFFFF), (c.c11, 0xFFFFFFF0), (c.c12, 0xFFFFFFFF), (c.c13, 0xFFFFFFFF),
          (c.c14, 0xFFFFFFFF), (c.c15, 0xFFFFFFFF)] ++ c23 c),
        badIf (!fits) stInvalidField, badIf (!c.memOk) stDataTransfer ]
  let load (t : State) : State :=
    if !programOk kind (loadImage c) then failCmd (raiseIf (kind = 1) t evFln 4) c.id stInvalidField
    else if (tenantAt t tenant).programs ≤ programsUsed t tenant then failCmd (quotaEvent t) c.id stQuota
    else
      match takeProgIndex t with
      | none => failCmd t c.id stQuota
      | some (t1, i) =>
        let id := progId t1 i
        let p : Program :=
          { tenant := tenant, kind := kind, gen := progGen t1 i, image := loadImage c, loaded := islandTime t isFabric, runs := 0, faults := 0 }
        completeWith { t1 with chn := { t1.chn with programs := tabPut t1.chn.programs id p } } c.id stSuccess (dwordOf id) 0 []
  .next (cmdRun s c 0xC1 false checks load)

/-- Whether a live channel names a program. -/
def progNamed (s : State) (id : Nat) : Bool :=
  s.chn.slots.any (fun e => e.2.stages.any (fun d => (d.kind == 3 || d.kind == 5) && d.param == id))

/-- The 64-byte report of a program (R290). -/
def progReport (p : Program) : List Byte := leBytes p.runs 8 ++ leBytes p.faults 8 ++ leBytes p.loaded 8 ++ zeros 40

/-- PROGRAM_UNLOAD (R290). -/
def execProgramUnload (c : NvCmd) (s : State) : Out :=
  let id := fld c.c10 0 16
  let found := progFor s (fnTenant s c.id.fn) id
  let checks (t : State) : Option Status :=
    firstBad
      [ adminChecks t c ([(c.nsid, 0xFFFFFFFF), (c.c10, 0xFFFF0000), (c.c11, 0xFFFFFFFE), (c.c12, 0xFFFFFFFF),
          (c.c13, 0xFFFFFFFF), (c.c14, 0xFFFFFFFF), (c.c15, 0xFFFFFFFF)] ++ c23 c),
        badIf found.isNone stInvalidHandle, badIf (progNamed t id) stSequence ]
  .next (cmdRun s c 0xC2 false checks (fun t =>
    answerData (dropProgram t id) c 0 (if bitOf c.c11 0 then (found.map progReport).getD [] else [])))

end Sys2Proof.Machine
end

