-- ==== Sys2Proof/Machine/Channels.lean ====
section
/-! DEFINITION. Channel Create, Destroy and Drain, and the channels that a reset destroys (R275 to R293, R308 to R311, R342,
R373). -/

namespace Sys2Proof.Machine

/-! ### What Channel Create asks for (R276 to R279) -/

/-- A channel as its command dwords ask for it: a Channel with no state yet. -/
def specOf (tenant fn : Nat) (c2 c3 c10 c11 : Dword) (ps : List Dword) : Channel :=
  let stage (i : Nat) : StageDef := { kind := fld c11 (4 * i) 4, param := fld ((ps[i / 2]?).getD 0) (i % 2 * 16) 16 }
  { tenant := tenant, fn := fn, src := fld c10 0 4, srcParam := c2.toNat, snk := fld c10 4 4, snkParam := c3.toNat
    stages := (List.range (Nat.min 8 (fld c10 8 4))).map stage, qdepth := fld c10 16 9 }

/-- The channel that a Channel Create command asks for. -/
def specCreate (s : State) (c : NvCmd) : Channel :=
  specOf (fnTenant s c.id.fn) c.id.fn c.c2 c.c3 c.c10 c.c11 [c.c12, c.c13, c.c14, c.c15]

/-- Whether a stage's parameter sets only bits that R278 defines for its kind. -/
def paramOk (d : StageDef) : Bool :=
  if d.kind = 1 ∨ d.kind = 8 then decide (d.param < 2 ^ 13)
  else if d.kind = 2 then decide (d.param ≤ 1)
  else if d.kind = 3 ∨ d.kind = 5 then true
  else if d.kind = 4 then d.param == 0
  else if d.kind = 6 then decide (d.param ≤ 2)
  else if d.kind = 7 then
    d.param % 4 != 3 && (if d.param / 4 % 4 = 0 then decide (d.param < 16) else d.param / 4 % 4 == 1)
  else false

/-- Whether stages and parameters from STAGES up are zero. -/
def tailOk (n : Nat) (c11 : Dword) (ps : List Dword) : Bool :=
  (List.range' n (8 - n)).all (fun i => fld c11 (4 * i) 4 == 0 && fld ((ps[i / 2]?).getD 0) (i % 2 * 16) 16 == 0)

/-- Whether a lookup stage stands only right after the lane stage, and each occurs at most once. -/
def lookupOk (l : List StageDef) : Bool :=
  let at_ (k : Nat) : List Nat := (l.zipIdx.filter (fun e => e.1.kind == k)).map (·.2)
  decide ((at_ 3).length ≤ 1) && decide ((at_ 4).length ≤ 1) &&
    (match at_ 4, at_ 3 with
     | [], _ => true
     | j :: _, i :: _ => j == i + 1
     | _ :: _, [] => false)

/-- The list checks of R279, and the reserved bits. `query`: sources and sinks of kinds 2h and 3h are not for a Query, and its
QDEPTH is ignored (R315). -/
def listChecks (query : Bool) (ch : Channel) (c10 c11 : Dword) (ps : List Dword) : Bool :=
  let n := fld c10 8 4
  decide (n ≤ 8) && tailOk n c11 ps && ch.stages.all (fun d => decide (1 ≤ d.kind) && decide (d.kind ≤ 8) && paramOk d)
    && lookupOk ch.stages && decide (ch.src ≤ 3) && decide (ch.snk ≤ 3)
    && (ch.src != srcStream || ch.snk != snkHost)
    && (query || (decide (1 ≤ ch.qdepth) && decide (ch.qdepth ≤ 256)))
    && (!query || (decide (ch.src ≤ 1) && decide (ch.snk ≤ 1)))
    && (if ch.src = srcHost ∨ ch.src = srcStream then ch.srcParam == 0 else true)
    && (if ch.snk = snkHost ∨ ch.snk = snkChannel then ch.snkParam == 0 else true)
    && (if ch.snk = snkPool then decide (1 ≤ ch.snkParam) && decide (ch.snkParam ≤ 1024) else true)
    && fld c10 12 4 == 0 && fld c10 25 7 == 0

/-- Channels in the chain that ends with a channel. -/
def chainLen (s : State) : Nat → Nat → Nat
  | 0, _ => 0
  | n + 1, slot => 1 + (match (channelAt s slot).bind (·.up) with | some u => chainLen s n u | none => 0)

/-- The upstream checks of R282 and the chain check of R279. -/
def upstreamCheck (s : State) (ch : Channel) : Option Status :=
  if ch.src ≠ srcChannel then none
  else
    match resolve s ch.tenant (dwordOf ch.srcParam) with
    | none => some stInvalidHandle
    | some u =>
      match channelAt s u with
      | none => some stInvalidHandle
      | some x =>
        if x.snk ≠ snkChannel ∨ x.down.isSome ∨ 4 ≤ chainLen s 4 u ∨ (ch.snk = snkHost ∧ streamHeaded s 4 u) then
          some stInvalidField
        else none

/-- Whether a channel is headed by a stream. -/
def fedByStream (s : State) (ch : Channel) : Bool :=
  ch.src == srcStream || (ch.src == srcChannel && ((resolve s ch.tenant (dwordOf ch.srcParam)).map (streamHeaded s 4)).getD false)

/-- The namespace checks of R280. -/
def nsCheck (s : State) (ch : Channel) : Option Status :=
  let srcBad := ch.src == srcNamespace && (nsUsable s ch.srcParam ch.tenant).isNone
  let snkBad :=
    ch.snk == snkNamespace &&
      (match nsUsable s ch.snkParam ch.tenant with
       | some n => fedByStream s ch && !n.coarse
       | none => true)
  badIf (srcBad || snkBad) stInvalidNs

/-- Whether a namespace of CIPHER 02h names a key slot. -/
def slotNamed (s : State) (slot : Nat) : Bool := s.ftl.namespaces.any (fun e => e.2.cipher == 2 && e.2.keySlot == slot)

/-- Whether the key slot that a stage names passes R281, R414 and R429. -/
def stageKeyOk (s : State) (tenant : Nat) (d : StageDef) : Bool :=
  let own (slot : Nat) : Bool := (slotAt s slot).st != 0 && (slotAt s slot).owner == tenant
  if d.kind = 1 ∨ d.kind = 8 then
    own (d.param % 4096) && (slotAt s (d.param % 4096)).kind == (if d.param.testBit 12 then 1 else 2)
  else if d.kind = 7 ∧ d.param / 4 % 4 = 1 then own (d.param / 16) && !slotNamed s (d.param / 16)
  else true

/-- Whether the program that a stage names resolves with the kind it needs (R281, R286); in a Query a lane stage of parameter 0
takes the inline program. -/
def stageProgOk (s : State) (tenant : Nat) (query : Bool) (d : StageDef) : Bool :=
  if d.kind = 3 ∨ d.kind = 5 then
    (query && d.kind == 3 && d.param == 0)
      || (match progFor s tenant d.param with | some p => p.kind == (if d.kind = 3 then 1 else 0) | none => false)
  else true

/-- Whether each lane stage and the lookup stage after it form a pair (R342). -/
def pairOk (s : State) (inline : List Byte) (l : List StageDef) : Bool :=
  l.zipIdx.all (fun e =>
    if e.1.kind = 3 then
      let im := if e.1.param = 0 then inline else ((tabGet s.chn.programs e.1.param).map (·.image)).getD []
      let looked := ((l[e.2 + 1]?).map (·.kind)) == some 4
      looked == !(parseLane im).keys.isEmpty
    else true)

/-! ### Quotas and memory (R291, R373, R510) -/

/-- Live channels of a tenant, those of its Queries among them. -/
def channelsUsed (s : State) (t : Nat) : Nat := (s.chn.slots.filter (fun e => e.2.tenant == t)).length

/-- Bytes of a stage's context area (R373, R432). -/
def contextBytes (d : StageDef) : Nat :=
  if d.kind = 6 then (if d.param = 2 then 256 else 33024) else if d.kind = 2 then 34048 else if d.kind = 7 then 384 else 0

/-- The sizes of a channel's pool and context areas; 0 where there is none. -/
def channelBytes (ch : Channel) : List Nat :=
  (if ch.snk = snkPool then ch.snkParam * 1048576 else 0) :: ch.stages.map contextBytes

/-- DRAM that regions of some sizes take. -/
def regionBytes (l : List Nat) : Nat := l.foldl (fun a n => a + dramUnits n * 4096) 0

/-- The slot of a new channel, the one freed longest ago, and the state with it taken (R285). -/
def takeSlot (s : State) : Option (State × Nat) :=
  if s.chn.used < 16384 then some ({ s with chn := { s.chn with used := s.chn.used + 1 } }, s.chn.used)
  else
    match s.chn.freed with
    | i :: t => some ({ s with chn := { s.chn with freed := t } }, i)
    | [] => none

/-- A channel put into a slot, with its regions and its link to its upstream. -/
def placeChannel (s : State) (slot : Nat) (ch : Channel) (rs : List Nat) : State :=
  let pool := ch.snk = snkPool
  let up := if ch.src = srcChannel then resolve s ch.tenant (dwordOf ch.srcParam) else none
  let x := { ch with pool := if pool then rs.head? else none, areas := if pool then rs.drop 1 else rs, up := up }
  let s1 := { s with chn := { s.chn with slots := tabPut s.chn.slots slot x, gens := tabPut s.chn.gens slot (genOf s slot) } }
  match up with
  | some u => updChannel s1 u (fun y => { y with down := some slot })
  | none => s1

/-- The outcome of creating a channel: the state, with its slot or the status of the first check that failed. -/
structure Created where
  s    : State
  slot : Option Nat
  st   : Status

/-- A channel created, or the first check that fails (R279 to R291). -/
def createChannel (s : State) (ch : Channel) (query : Bool) (inline : List Byte) : Created :=
  let bad := firstBad
    [ upstreamCheck s ch, nsCheck s ch, badIf (!ch.stages.all (stageKeyOk s ch.tenant)) stInvalidField,
      badIf (!ch.stages.all (stageProgOk s ch.tenant query)) stInvalidHandle, badIf (!pairOk s inline ch.stages) stInvalidField ]
  match bad with
  | some st => { s := s, slot := none, st := st }
  | none =>
    if (tenantAt s ch.tenant).channels ≤ channelsUsed s ch.tenant ∨ !dramFits s ch.tenant (regionBytes (channelBytes ch)) then
      { s := quotaEvent s, slot := none, st := stQuota }
    else
      match takeSlot s with
      | none => { s := raise s evChn 0, slot := none, st := stQuota }
      | some (s1, i) =>
        match allocDram s1 ch.tenant (channelBytes ch) with
        | none => { s := s, slot := none, st := stQuota }
        | some (s2, rs) => { s := placeChannel s2 i { ch with temp := query } rs, slot := some i, st := stSuccess }

/-- CHANNEL_CREATE (R279). -/
def execChannelCreate (c : NvCmd) (s : State) : Out :=
  let ch := specCreate s c
  let checks (t : State) : Option Status :=
    firstBad [adminChecks t c ((c.nsid, 0xFFFFFFFF) :: c23 c), badIf (!listChecks false ch c.c10 c.c11 [c.c12, c.c13, c.c14, c.c15]) stInvalidField]
  .next (cmdRun s c 0xC4 false checks (fun t =>
    let r := createChannel t ch false []
    match r.slot with
    | some i => completeWith r.s c.id stSuccess (dwordOf (handleOf r.s i)) 0 []
    | none => failCmd r.s c.id r.st))

/-! ### Destroy (R292, R308 to R310) -/

/-- Jobs that R309 counts for a channel: those whose command named it, and those in it. -/
def jobsOn (s : State) (slot : Nat) : List (Nat × Job) := s.chn.jobs.filter (fun e => e.2.slot == slot || e.2.head == slot)

/-- The instant of destruction of a channel: its handle resolves no more, its upstream has no downstream (R283), and with WAIT
0b the jobs that have not begun end with Channel Destroyed. -/
def beginDestroy (s : State) (slot : Nat) (wait : Bool) : State :=
  let up := (channelAt s slot).bind (·.up)
  let s1 := updChannel s slot (fun c => { c with dying := some wait, up := none })
  let s2 := match up with
    | some u => updChannel s1 u (fun c => { c with down := none })
    | none => s1
  if wait then s2
  else
    (s2.chn.jobs.filter (fun e => e.2.head == slot && !e.2.begun)).foldl (fun t e => failJob t e.1 e.2 stChanDestroyed 0 []) s2

/-- Handles in list order up to the first that does not resolve: the state, the slots, and whether one did not resolve. -/
def destroyList (wait : Bool) (tenant : Nat) : List Dword → State → List Nat → State × List Nat × Bool
  | [], s, acc => (s, acc, false)
  | h :: t, s, acc =>
    match resolve s tenant h with
    | some slot => destroyList wait tenant t (beginDestroy s slot wait) (acc ++ [slot])
    | none => (s, acc, true)

/-- CHANNEL_DESTROY (R292): the named channels are on their way to destruction; the command completes when the last is gone. -/
def execChannelDestroy (c : NvCmd) (s : State) : Out :=
  let n := fld c.c10 0 11
  let tenant := fnTenant s c.id.fn
  let handles := (List.range n).map (fun i => dwordOf (leAt c.data (4 * i) 4))
  let checks (t : State) : Option Status :=
    firstBad
      [ adminChecks t c ([(c.nsid, 0xFFFFFFFF), (c.c10, 0xFFFFF800), (c.c11, 0xFFFFFFFE), (c.c12, 0xFFFFFFFF),
          (c.c13, 0xFFFFFFFF), (c.c14, 0xFFFFFFFF), (c.c15, 0xFFFFFFFF)] ++ c23 c),
        badIf (n = 0 ∨ 1024 < n) stInvalidField, badIf (!c.memOk) stDataTransfer ]
  .next (cmdRun s c 0xC5 false checks (fun t => resumeCmds <|
    let r := destroyList (bitOf c.c11 0) tenant handles t []
    if r.2.1.isEmpty then failCmd r.1 c.id stInvalidHandle
    else
      let d : Destroy := { id := c.id, slots := r.2.1, done := 0, bad := r.2.2 }
      updCmd { r.1 with chn := { r.1.chn with destroys := r.1.chn.destroys ++ [d] } } c.id (fun e => { e with phase := .held })))

/-- A destroyed channel counted for the commands that destroy it; one that has no more to wait for completes. -/
def countDestroyed (s : State) (slot : Nat) : State :=
  let ds := s.chn.destroys.map (fun d =>
    if d.slots.contains slot then { d with slots := d.slots.erase slot, done := d.done + 1 } else d)
  let s1 := { s with chn := { s.chn with destroys := ds.filter (fun d => !d.slots.isEmpty) } }
  (ds.filter (fun d => d.slots.isEmpty)).foldl (fun t d =>
    completeWith t d.id (if d.bad then stInvalidHandle else stSuccess) (dwordOf d.done) 0 []) s1

/-- DESTROY_COMPLETE (R310): no job of the channel and no Drain is left; its slot is free. -/
def execDestroyComplete (slot : Nat) (s : State) : Out :=
  .next <|
    match (channelAt s slot).bind (·.dying) with
    | none => s
    | some _ =>
      if !(jobsOn s slot).isEmpty || s.chn.drains.any (fun d => d.slot == slot) then s
      else countDestroyed (freeChannel s slot) slot

/-! ### The channels that a reset destroys (R239, R287, R507) -/

/-- A channel destroyed by a reset: its jobs and Drains end, and its slot begins a new epoch. -/
def killChannel (s : State) (slot : Nat) : State :=
  let s1 := (jobsOn s slot).foldl (fun t e =>
    let t1 := clearEngine t e.1 e.2
    match jobAt t1 e.1 with
    | some b => failJob t1 e.1 { b with failed := none } stChanDestroyed 0 []
    | none => t1) s
  let gone := s1.chn.drains.filter (fun d => d.slot == slot)
  let s2 := { s1 with chn := { s1.chn with drains := s1.chn.drains.filter (fun d => d.slot ≠ slot) } }
  let s3 := gone.foldl (fun t d => failCmd t d.id stChanDestroyed) s2
  countDestroyed (freeChannel s3 slot) slot

/-- The channels of some functions destroyed. Their slots' generations are drawn again (R287). -/
def killChannels (s : State) (p : Nat → Bool) : State :=
  let slots := (s.chn.slots.filter (fun e => p e.2.fn)).map (·.1)
  let s1 := slots.foldl killChannel s
  { s1 with chn := { s1.chn with
      epoch := if slots.isEmpty then s1.chn.epoch else s1.chn.epoch + 1
      gens := s1.chn.gens.filter (fun e => !slots.contains e.1) } }

/-! ### Drain (R293) -/

/-- CHANNEL_DRAIN (R293): the command waits for the jobs that entered before it was fetched. -/
def execChannelDrain (c : NvCmd) (s : State) : Out :=
  let exp := bitOf c.c11 0
  let found := resolve s (fnTenant s c.id.fn) c.c10
  let checks (t : State) : Option Status :=
    firstBad
      [ badIf t.power.settingsRecovery stNotReady,
        badIf (!reservedOk ([(c.nsid, 0xFFFFFFFF), (c.c11, 0xFFFFFFFC), (c.c12, 0xFFFFFFFF), (c.c13, 0xFFFFFFFF),
          (c.c14, 0xFFFFFFFF), (c.c15, 0xFFFFFFFF)] ++ c23 c)) stInvalidField,
        (if exp then sglCheck c.ptr true 16 else none), badIf (exp ∧ !c.memOk) stDataTransfer,
        badIf found.isNone stInvalidHandle,
        badIf (exp ∧ ((found.bind (channelAt t)).bind (·.pool)).isNone) stInvalidField ]
  .next (cmdRun s c 0x8D true checks (fun t =>
    match found with
    | none => t
    | some slot =>
      let jobs := ((channelAt t slot).map (·.jobs)).getD []
      let d : Drain :=
        { id := c.id, slot := slot, jobs := jobs, exp := if exp then some (leAt c.data 8 4) else none, zero := bitOf c.c11 1 }
      updCmd { t with chn := { t.chn with drains := t.chn.drains ++ [d] } } c.id (fun e => { e with phase := .running })))

/-- The end of a Drain: the pool is copied from offset 0, then zeroed. -/
def finishDrain (s : State) (d : Drain) (c : Channel) : State :=
  let a := (c.pool.map (regionBase s)).getD 0 * 4096
  let size := c.snkParam * 1048576
  let n := match d.exp with | some k => Nat.min k size | none => 0
  let s1 := completeWith s d.id stSuccess (dwordOf n) 0 (memRead s.drc.dram a n)
  let s2 := if d.zero && c.pool.isSome then { s1 with drc := { s1.drc with dram := memClear s1.drc.dram a size } } else s1
  { s2 with chn := { s2.chn with drains := s2.chn.drains.erase d } }

/-- DRAIN_COMPLETE (R293). -/
def execDrainComplete (id : CmdId) (s : State) : Out :=
  .next <|
    match s.chn.drains.find? (fun d => d.id == id) with
    | none => s
    | some d =>
      match channelAt s d.slot with
      | none => s
      | some c => if d.jobs.any (fun j => (jobAt s j).isSome) then s else finishDrain s d c

end Sys2Proof.Machine
end

