-- ==== Sys2Proof/Machine/NsActs.lean ====
section
/-! DEFINITION. What comes into effect on namespaces and their data at the commit of a settings update (R44, R188, R254, R264):
a namespace deleted or formatted, a sanitize begun and ended. -/

namespace Sys2Proof.Machine

def stFormatting : Status := (0, 0x84)

/-! ### Work on a namespace given up -/

/-- Whether a command in execution may still be aborted: an I/O command of which nothing has executed, a job whose first stage has
not begun, or an Asynchronous Event Request. -/
def abortable (s : State) (e : ExecCmd) : Bool :=
  match e.job.bind (tabGet s.chn.jobs) with
  | some b => !b.begun
  | none =>
    if e.isIo then
      e.done = 0 && (match e.phase with
        | .fetched | .waitOrder | .waitMap | .held | .moving | .built | .waitEnter => true
        | _ => false)
    else e.opcode = 0x0C

/-- The writes of some functions that have not committed, given up whole (R36, R86), with the reads of their commands. -/
def dropWrites (s : State) (p : CmdId → Bool) : State :=
  let mine (b : Built) : Bool := ((b.cmd.map p).getD false)
  let given := (s.etch.moving ++ s.etch.built).filter mine
  let s1 := { s with etch := { s.etch with
      moving := s.etch.moving.filter (fun b => !mine b), built := s.etch.built.filter (fun b => !mine b) } }
  let s2 := { s1 with ftl := { s1.ftl with reads := s1.ftl.reads.filter (fun r =>
      !(match r.owner with | .cmd id => p id | _ => false)) } }
  (given.map newSlots).foldl (fun t l => l.foldl freeExtentAt t) s2

/-- The jobs whose sink is a namespace and that write to it. -/
def sinkJobs (s : State) (nsid : Nat) : List (Nat × Job) :=
  s.chn.jobs.filter (fun e => e.2.sinking &&
    (match channelAt s e.2.slot with | some c => c.snk == snkNamespace && c.snkParam == nsid | none => false))

/-- The commands and job segments that wait to write to a namespace, or to read it, fail with a status and have no effect. -/
def failNsWork (s : State) (nsid : Nat) (st : Status) : State :=
  let es := s.host.exec.filter (fun e => e.isIo && e.nsid == nsid && abortable s e && e.job.isNone && e.phase ≠ .fetched)
  let s1 := es.foldl (fun t e =>
    let t1 := dropWrites (releaseHolds t e.blocks e.slots) (fun i => i == e.cmd.id)
    failCmd (updCmd t1 e.cmd.id (fun x => { x with blocks := [], slots := [] })) e.cmd.id st) s
  let js := sinkJobs s1 nsid
  let mine (b : Built) : Bool := (match b.job with | some j => js.any (fun e => e.1 == j) | none => false)
  let given := (s1.etch.moving ++ s1.etch.built).filter mine
  let s2 := { s1 with etch := { s1.etch with
      moving := s1.etch.moving.filter (fun b => !mine b), built := s1.etch.built.filter (fun b => !mine b) } }
  let s3 := (given.map newSlots).foldl (fun t l => l.foldl freeExtentAt t) s2
  js.foldl (fun t e => failJob t e.1 e.2 st (Nat.min (e.2.segs * 1048576) e.2.output.length) []) s3

/-- A namespace emptied by one journal record (R188). Only its home device holds its map. -/
def emptyNs (s : State) (nsid : Nat) (n : Namespace) : State :=
  if homeAway s n then s
  else commitRec s 9 0 [{ key := jUnitKey (unitKey nsid 0), old := tabAt 0 s.ftl.mapLoc (pageKey nsid 1 0), new := 0 }]

/-- A key drawn from the CTR_DRBG for a namespace of CIPHER 01h (R412). -/
def drawnKey (s : State) (owner : Nat) : KeySlot :=
  let bytes := leBytes (Config.drbg s.cry.draws).toNat 32 ++ leBytes (Config.drbg (s.cry.draws + 1)).toNat 32
  { st := 1, kind := 2, owner := owner, limit := defaultLimit false, key := bytes }
def drawNsKey (s : State) (nsid owner : Nat) : State :=
  let s1 := { s with cry := { s.cry with nsKeys := tabPut s.cry.nsKeys nsid (drawnKey s owner) } }
  takeDraw (takeDraw s1)

/-- A namespace's key erased: its own is replaced by another, and the slot that it names is destroyed (R254). -/
def replaceKey (s : State) (nsid : Nat) (n : Namespace) (key : KeySlot) : State :=
  if n.cipher = 1 then { s with cry := { s.cry with nsKeys := tabPut s.cry.nsKeys nsid key } }
  else if n.cipher = 2 then forgetKeys { s with cry := { s.cry with slots := tabUpd {} s.cry.slots n.keySlot (fun _ => {}) } }
  else s
def eraseKey (s : State) (nsid : Nat) (n : Namespace) : State :=
  let s1 := replaceKey s nsid n (drawnKey s n.owner)
  if n.cipher = 1 then takeDraw (takeDraw s1) else s1

/-- The namespace shown as changed to the controllers it is attached to. -/
def noteChanged (s : State) (nsid : Nat) (fs : List Nat) : State :=
  fs.foldl (fun t f => updCtrl t f (fun k => { k with changedNs := k.changedNs ++ [nsid] })) s

/-! ### At the commit (R44) -/

/-- A namespace deleted: its work, its map, its key, its reservation and its entries of page 0xC1 go with it. -/
def deleteNs (s : State) (nsid : Nat) : State :=
  match tabGet s.ftl.namespaces nsid with
  | none => s
  | some n =>
    let s1 := emptyNs (failNsWork s nsid stInvalidNs) nsid n
    let left := s1.etch.deferred.filter (fun d => d.nsid ≠ nsid)
    noteChanged { s1 with
      ftl := { s1.ftl with namespaces := tabDel s1.ftl.namespaces nsid }
      cry := { s1.cry with nsKeys := tabDel s1.cry.nsKeys nsid }
      host := { s1.host with reservations := tabDel s1.host.reservations nsid }
      etch := { s1.etch with
        deferred := left, defAt := if left.length = s1.etch.deferred.length then s1.etch.defAt else islandTime s1 isFabric
        deliveries := s1.etch.deliveries.filter (fun x => x.2.1 ≠ nsid) } } nsid n.attach

/-- A namespace formatted: it is emptied, takes the LBA size, and its key is erased where that was asked for. -/
def formatNs (s : State) (nsid size : Nat) (key : Option KeySlot) : State :=
  match tabGet s.ftl.namespaces nsid with
  | none => s
  | some n =>
    let s1 := coverDeferred (emptyNs (failNsWork s nsid stFormatting) nsid n) nsid 0 n.nsze
    let s2 := { s1 with ftl := { s1.ftl with namespaces := tabPut s1.ftl.namespaces nsid (withLba size n) } }
    match key with
    | some k => replaceKey s2 nsid n k
    | none => s2

/-- A sanitize begun: the work on every namespace fails, page 0xC1 is empty (R264), and a block erase leaves no namespace any data
and no swath open, so that every block that has held some is erased under R194. -/
def beginSanitize (s : State) (crypto : Bool) : State :=
  let s1 := (s.ftl.namespaces.map (·.1)).foldl (fun u n => failNsWork u n stSanitizing) s
  let s2 := { s1 with
    host := { s1.host with sanitizing := some crypto, sanitized := false }
    etch := { s1.etch with deferred := [], defAt := islandTime s1 isFabric, deliveries := [] } }
  if crypto then s2
  else
    let s3 := s2.ftl.namespaces.foldl (fun t e => emptyNs t e.1 e.2) s2
    ((s3.ftl.swaths.filter (fun w => w.opened && w.family ≠ 3)).map (·.id)).foldl closeSwath s3

/-- What the commit of an update brings into effect. -/
def actLive (s : State) : SavedAct → State
  | .deleteNs n => deleteNs s n
  | .formatNs n size key => formatNs s n size key
  | .sanitize crypto => beginSanitize s crypto
  | .sanitizeEnd => { s with host := { s.host with sanitizing := none, sanitized := true } }

/-- Whether an act writes journal records, which wait for the hold of R214. -/
def actRecords : SavedAct → Bool
  | .deleteNs _ => true
  | .formatNs _ _ _ => true
  | .sanitize crypto => !crypto
  | .sanitizeEnd => false

/-- Every key erased (R254). -/
def eraseKeys (s : State) : State := s.ftl.namespaces.foldl (fun t e => eraseKey t e.1 e.2) s

/-- Whether no block of families 0 to 2 that an erase can reach holds a codeword other than one of the map: what a block erase has to leave. A
retired block and a lost die take no erase (DEDUCED, log 138). -/
def dataErased (s : State) : Bool :=
  s.ftl.flash.all (fun e =>
    let k := e.1 / 32768
    let b := blockAt s k
    e.2.kind == 1 || b.family == 3 || !blockGood b || (dieAt s (keyDie k)).st ≠ dieActive)

end Sys2Proof.Machine
end

