-- ==== Sys2Proof/Machine/Journal.lean ====
section
/-! DEFINITION. The journal, the checkpoints and the settings store at work, and the loss of an Etch die (R204 to R227,
R613). -/

namespace Sys2Proof.Machine

/-! ### JOURNAL_COMMIT (R204) -/

/-- Whether a record may commit as the journal stands (R214): one of TYPE 06h to 08h always, since the region above LIVE_MAX is
reserved for them; one of a command not while the hold lasts; and every other one below LIVE_MAX. -/
def mayCommit (s : State) (b : Built) : Bool :=
  (decide (6 ≤ b.type) && decide (b.type ≤ 8))
    || (decide (liveBytes s < liveMax s) && !(s.etch.jrnlHold && (decide (b.type ≤ 3) || b.type == 9)))

/-- The record that commits next: the oldest one built that may. -/
def nextBuilt (s : State) : Option Built := s.etch.built.find? (mayCommit s)

/-- The LBAs [a, a + c) that a record of a write or of a deallocation has changed, by namespace. -/
def changedLbas (s : State) (b : Built) : List (Nat × Nat × Nat) :=
  if b.type = 3 then
    b.entries.filterMap (fun e =>
      let k := jUnit e.key
      (tabGet s.ftl.namespaces (keyNsid k)).map (fun n => (keyNsid k, keyUnit k * lbasPerUnit n, lbasPerUnit n)))
  else
    match b.cmd.bind (findCmd s) with
    | some e => (tabGet s.ftl.namespaces e.nsid).toList.map (fun n =>
        (e.nsid, e.slba + e.done, pieceLbas n (e.slba + e.done) (e.nlb - e.done)))
    | none =>
      match b.job.bind (tabGet s.chn.jobs) with
      | none => []
      | some j =>
        match (tabGet s.chn.slots j.slot).bind (fun c => (tabGet s.ftl.namespaces c.snkParam).map (fun n => (c.snkParam, n))) with
        | some (nsid, n) => [(nsid, (segRange j n).1, (segRange j n).2)]
        | none => []

/-- The data that a record of a write has made durable, in bytes: page 0xC0 counts it in units of 4,096 (R198). -/
def countHost (s : State) (l : List (Nat × Nat × Nat)) : State :=
  let bytes := l.foldl (fun a r => a + r.2.2 * ((tabGet s.ftl.namespaces r.1).map (·.lbaSize)).getD 0) 0
  { s with ftl := { s.ftl with health := { s.ftl.health with hostWritten := s.ftl.health.hostWritten + bytes } } }

/-- A command whose piece is committed completes with its last piece, or goes on with the next (R205). A direct append answers
with the first LBA of its region (R312). -/
def pieceCommitted (s : State) (id : CmdId) (last : Bool) : State :=
  match findCmd s id with
  | none => s
  | some e =>
    if last then
      if e.opcode = 0x85 then completeWith s id stSuccess (dwordOf e.slba) (dwordOf (e.slba / 2 ^ 32)) []
      else complete s id stSuccess
    else
      match tabGet s.ftl.namespaces e.nsid with
      | none => failCmd s id stInvalidNs
      | some n => ioTry (updCmd s id (fun x => { x with phase := .waitOrder, done := x.done + pieceLbas n (x.slba + x.done) (x.nlb - x.done), pend := 0 })) id

/-- The one to whom a record belongs goes on: its command, or its job with the next segment (R306). -/
def ownerCommitted (s : State) (b : Built) : State :=
  match b.cmd with
  | some id => pieceCommitted s id b.last
  | none =>
    match b.job with
    | none => s
    | some j =>
      match jobAt s j with
      | none => s
      | some x => settleChannel (updJob s j (fun y => { y with segs := y.segs + 1 })) x.slot

/-- The hold of R214 taken when the live journal reaches LIVE_MAX. -/
def settleJournal (s : State) : State :=
  if !s.etch.jrnlHold && decide (liveMax s ≤ liveBytes s) then
    raise { s with etch := { s.etch with jrnlHold := true } } evEtb 3
  else s

/-- What follows a commit whatever the record: the failing blocks that are empty retire, a rebuild that is done is repaired,
write-back starts, the cache keeps its size, records are discarded, the holds are settled, and what waited goes on. -/
def afterCommit (s : State) : State :=
  let s1 := noteShort (trimCache (startWriteBack (settleRebuild (retireEmpty s))))
  resumeJobs (resumeCmds (settleAdmission (settleJournal (discardRecs s1))))

/-- JOURNAL_COMMIT (R204): the next record commits and is applied. A relocation whose entry has changed is dropped (R191). Under
the fence, and with no Etch die left, nothing commits. -/
def execJournalCommit (s : State) : Out :=
  if !canRecord s then .next s
  else
    match nextBuilt s with
    | none => .next s
    | some b =>
      let s1 := { s with etch := { s.etch with built := s.etch.built.erase b } }
      let es := b.entries.filter (relocOk s1 b.type)
      if es.isEmpty && !b.entries.isEmpty then .next (afterCommit s1)
      else
        let lbas := if decide (1 ≤ b.type) && decide (b.type ≤ 3) then changedLbas s1 b else []
        let s2 := commitRec s1 b.type b.tenant es
        let s3 := lbas.foldl (fun t r => coverDeferred t r.1 r.2.1 (r.2.1 + r.2.2)) s2
        let s4 := if b.type = 1 then countHost s3 lbas else s3
        .next (afterCommit (ownerCommitted s4 b))

/-- ADMISSION_RESUME (R216, R510): a command that is held continues at step 2 of R203. -/
def execAdmissionResume (id : CmdId) (s : State) : Out :=
  let s1 := settleAdmission s
  match findCmd s1 id with
  | none => .next s1
  | some e =>
    match e.job with
    | some _ => .next (resumeJobs s1)
    | none => .next (resumeCmds (ioTry s1 id))

/-- JOURNAL_HOLD_RELEASE (R214): the hold ends once the live journal is 16 MiB below LIVE_MAX. -/
def execJournalHoldRelease (s : State) : Out :=
  if s.etch.jrnlHold && decide (liveBytes s + 16777216 < liveMax s) then
    .next (resumeJobs (resumeCmds (resumeHeld { s with etch := { s.etch with jrnlHold := false } })))
  else .next s

/-! ### Checkpoints (R211, R212, R215, R227) -/

/-- The SEQ up to which every record's effects are in the root or in a map copy that it names: below the oldest change of a map page
that is not written back, and below the oldest record of a unit that waits in the replay overlay (R195, R211; DEDUCED, log 136). -/
def settledSeq (s : State) : Nat :=
  let dirty := s.ftl.dirty.foldl (fun m e => Nat.min m (e.2 - 1)) s.etch.seq
  let inOver (r : JRec) : Bool := r.entries.any (fun e => (changedPage r.type e).isSome && inOverlay s r.type e)
  match s.etch.live.find? inOver with
  | some r => Nat.min dirty (r.seq - 1)
  | none => dirty

/-- The journal offset of the record after a SEQ: the tail where none follows. -/
def offsetAfter (s : State) (seq : Nat) : Nat := ((s.etch.live.find? (fun r => decide (seq < r.seq))).map (·.off)).getD s.etch.tail

/-- What a checkpoint written now holds: of the map the places of the directory pages (R160, R211). -/
def checkpointNow (s : State) : RootImg :=
  let cp := Nat.max (if s.etch.rootActive then (rootImages s).2 else (rootImages s).1).cpSeq (settledSeq s)
  { seq := Nat.max (rootImages s).1.seq (rootImages s).2.seq + 1, cpSeq := cp, cpOffset := offsetAfter s cp, ok := true
    blocks := s.ftl.blocks, swaths := s.ftl.swaths, mapLoc := s.ftl.mapLoc.filter (fun e => !isLeafPage e.1) }

/-- A change of the root image that a checkpoint is written into: the one that is not active; after the loss of a die the image
of the other. -/
def targetB (s : State) : Bool := if s.etch.lost0 then true else if s.etch.lost1 then false else !s.etch.rootActive
def updRoot (s : State) (b : Bool) (g : RootImg → RootImg) : State :=
  if b then { s with etch := { s.etch with rootB := g s.etch.rootB } }
  else { s with etch := { s.etch with rootA := g s.etch.rootA } }

/-- ETB_JRNL_CFG.CP_MS in ticks. -/
def cpPeriod (s : State) : Nat := within 50 10000 (regFld s 0xE0000C 18 14) * msTicks

/-- A checkpoint mirror placed in family 3 swaths (R215). -/
def placeRoot (s : State) (r : RootImg) : Option (State × RootMirror) :=
  (placeMirror s 2 (rootLen r) (rootBytes r)).map (fun p => (p.1, { img := r, words := p.2 }))

/-- ROOT_CHECKPOINT (R211): every CP_MS a checkpoint is written into the image that is not active, which does not verify until its
header is written. With a die lost, the mirror in flash comes first (R227). -/
def execRootCheckpoint (s : State) : Out :=
  if !canRecord s || !s.power.started || s.etch.cpOpen.isSome || decide (now s < s.etch.cpAt + cpPeriod s) then .next s
  else
    let r := checkpointNow s
    let opened (t : State) : State := { t with etch := { t.etch with cpOpen := some r, cpAt := now s } }
    if s.etch.lost0 || s.etch.lost1 then
      match placeRoot s r with
      | some (t, m) => .next (opened { t with etch := { t.etch with cpMirror := some m } })
      | none => .next s
    else .next (updRoot (opened s) (targetB s) (fun r => { r with ok := false }))

/-- A checkpoint mirror in flash: of the mirrors the device keeps the two latest with the journal mirror that follows the older, and
the anchor record that will name it is due (R215, R221). -/
def keepRoot (s : State) (m : RootMirror) : State :=
  let kept := s.etch.mirrorRoots.drop (s.etch.mirrorRoots.length - 1) ++ [m]
  let from_ := ((kept.head?).map (·.img.cpSeq)).getD 0
  let name (x : RootMirror) : MirrorName := nameOf x.img.seq x.words
  { s with etch := { s.etch with
      mirrorRoots := kept
      mirrorLog := s.etch.mirrorLog.filter (fun l => l.recs.any (fun r => decide (from_ < r.seq)))
      anchorsDue := s.etch.anchorsDue ++
        [{ root := true, cur := name m, before_ := ((s.etch.mirrorRoots.getLast?).map name).getD {} }] } }

/-- ROOT_CHECKPOINT_DONE (R211): the header is written last, and the image becomes active. With a die lost, the mirror in flash
is complete before the surviving die's image is written (R227); one whose program has failed is written again. -/
def execRootCheckpointDone (s : State) : Out :=
  match s.etch.cpOpen with
  | none => .next s
  | some r =>
    let b := targetB s
    let finish (t : State) : State :=
      discardRecs (updRoot { t with etch := { t.etch with cpOpen := none, cpMirror := none, rootActive := b } } b (fun _ => r))
    if !canRecord s then .next s
    else if !(s.etch.lost0 || s.etch.lost1) then .next (finish s)
    else
      match s.etch.cpMirror with
      | some m =>
        if wordsDone s m.words then .next (finish (keepRoot s m))
        else if m.words.isEmpty then
          match placeRoot s r with
          | some (t, n) => .next { t with etch := { t.etch with cpMirror := some n } }
          | none => .next s
        else .next s
      | none => .next s

/-- The records that the mirror does not hold yet. -/
def unmirrored (s : State) : List JRec :=
  let top := s.etch.mirrorLog.foldl (fun m l => l.recs.foldl (fun k r => Nat.max k r.seq) m)
    (((s.etch.mirrorRoots.head?).map (·.img.cpSeq)).getD 0)
  s.etch.live.filter (fun r => decide (top < r.seq))

/-- The committed records that the mirror does not hold yet copied into family 3 swaths. -/
def mirrorRecords (s : State) : State :=
  let rs := unmirrored s
  if rs.isEmpty then s
  else
    match placeMirror s 2 (rs.foldl (fun a r => a + r.len) 0) (rs.map recordBytes).flatten with
    | some (t, ws) => { t with etch := { t.etch with mirrorLog := t.etch.mirrorLog ++ [{ recs := rs, words := ws }] } }
    | none => s

/-- JOURNAL_MIRROR_COPY (R215): the committed records and the newest checkpoint are copied into family 3 swaths as codewords of KIND
02h; what finds no room there waits. -/
def execJournalMirrorCopy (s : State) : Out :=
  if !canProgram s then .next s
  else
    let s1 := mirrorRecords s
    let r := if s.etch.rootActive then s.etch.rootB else s.etch.rootA
    if r.ok && decide ((((s.etch.mirrorRoots.getLast?).map (·.img.seq)).getD 0) < r.seq) then
      match placeRoot s1 r with
      | some (t, m) => .next (keepRoot t m)
      | none => .next s1
    else .next s1

/-! ### The settings store (R218, R221, R227) -/

/-- The settings copy that an update writes: the one not in force. -/
def updSetCopy (s : State) (b : Bool) (g : SetCopy → SetCopy) : State :=
  if b then { s with etch := { s.etch with setB := g s.etch.setB } }
  else { s with etch := { s.etch with setA := g s.etch.setA } }

/-- The store that an update writes, and its mirror placed in a family 3 swath (step 2 of R218). -/
def newStore (s : State) (u : SetUpdate) : SetCopy :=
  { seq := s.etch.setSeq + 1, ok := true, stamp := islandTime s isEtch, body := u.body }
def placeStore (s : State) (c : SetCopy) : Option (State × SetMirror) :=
  (placeMirror s 3 (64 + settingsLen c.body) (settingsBytes c)).map (fun p => (p.1, { copy := c, words := p.2 }))

/-- The mirrors that the device keeps: the two latest of stores that have been committed, and the one of the update in progress. A
mirror whose update never committed is given up (R218). -/
def keptMirrors (s : State) : List SetMirror :=
  let old := s.etch.mirrors.filter (fun m => decide (m.copy.seq ≤ s.etch.setSeq))
  old.drop (old.length - 2)

/-- SETTINGS_UPDATE_START (steps 1 and 2 of R218): one update at a time; the copy that is not in force no longer verifies, and the
mirror is written. An update waits while no settings are in force yet, and for room and power for its mirror. -/
def execSettingsUpdateStart (s : State) : Out :=
  match s.etch.wanted, s.etch.update with
  | some u, none =>
    if !canRecord s || !s.power.settingsIn then .next s
    else
      match placeStore s (newStore s u) with
      | none => .next s
      | some (t, m) =>
        let t1 := updSetCopy t (!s.etch.setActive) (fun c => { c with ok := false })
        .next { t1 with etch := { t1.etch with update := some u, wanted := none, mirrors := keptMirrors s ++ [m] } }
  | _, _ => .next s

/-- The mirrors at a commit: the one of its update and the two before it. -/
def mirrorOf (s : State) (seq : Nat) : Option SetMirror := s.etch.mirrors.find? (fun m => m.copy.seq == seq)

/-- SETTINGS_COMMIT (step 3 of R218): the header is written, the copy is in force, what waited for it takes effect (R44), and the anchor record of its mirror is due. The
event of a fault follows its commit (R199). The mirror is programmed and verified before; one whose program has failed is written
again. -/
def execSettingsCommit (s : State) : Out :=
  match s.etch.update with
  | none => .next s
  | some u =>
    let n := s.etch.setSeq + 1
    match (if canRecord s then mirrorOf s n else none) with
    | none => .next s
    | some m =>
      if m.words.isEmpty then
        match placeStore s m.copy with
        | some (t, k) => .next { t with etch := { t.etch with mirrors := keptMirrors s ++ [k] } }
        | none => .next s
      else if !wordsDone s m.words || (s.etch.jrnlHold && u.acts.any actRecords) then .next s
      else
        let before_ := ((mirrorOf s s.etch.setSeq).map (fun x => nameOf x.copy.seq x.words)).getD {}
        let s1 := updSetCopy s (!s.etch.setActive) (fun _ => m.copy)
        let s2 := { s1 with etch := { s1.etch with
            update := none, setSeq := n, setActive := !s.etch.setActive
            anchorsDue := s.etch.anchorsDue ++ [{ root := false, cur := nameOf n m.words, before_ := before_, cmds := u.cmds }] } }
        let s3 := if u.acts.isEmpty then s2 else afterCommit (u.acts.foldl actLive s2)
        .next (if u.events then faultEvent s3 else s3)

/-- Whether the mirror that an anchor record is to name is complete in flash, and whether it has been lost. -/
def anchorReady (s : State) (a : Anchor) : Bool :=
  !a.root || (match s.etch.mirrorRoots.find? (fun m => m.img.seq == a.cur.seq) with
    | some m => wordsDone s m.words
    | none => false)
def anchorLost (s : State) (a : Anchor) : Bool :=
  a.root && (match s.etch.mirrorRoots.find? (fun m => m.img.seq == a.cur.seq) with
    | some m => m.words.isEmpty
    | none => true)

/-- ANCHOR_PROGRAMMED (R221): the oldest anchor record that is due has been programmed on the first `dies` of the four dies that can
take it. From then on R220 can find it; on at least three dies, its commands complete and the next record follows. -/
def execAnchorProgrammed (dies : Nat) (s : State) : Out :=
  match s.etch.anchorsDue with
  | [] => .next s
  | a :: rest =>
    if !canProgram s then .next s
    else if anchorLost s a then .next { s with etch := { s.etch with anchorsDue := rest } }
    else if !anchorReady s a then .next s
    else
      let taken := ((anchorDies s).filter (dieWritable s)).take dies
      let s1 := (taken.filter (fun d => !(anchoredOn s a).contains d)).foldl (programAnchor a) s
      if 3 ≤ (anchoredOn s1 a).length then .next (finishSaved { s1 with etch := { s1.etch with anchorsDue := rest } } a.cmds)
      else .next s1

/-! ### Losing an Etch die (R226, R227, R613) -/

/-- The units of KIND 10b whose extents lie on a die. -/
def unitsOnEtch (s : State) (die : Nat) : List Nat :=
  let on (e : Nat × Qword) : Bool := eKind e.2 == 2 && (decide (eSlot e.2 < 1048576) == (die == 0))
  (s.ftl.overlay.filter on).map (·.1)
    ++ (s.ftl.map.filter (fun e => on e && (tabGet s.ftl.overlay e.1).isNone)).map (·.1)

/-- Whether a command's way leads through a journal record or a settings commit (R613). -/
def needsRecord (e : ExecCmd) : Bool :=
  if e.isIo && e.job.isNone then
    [0x01, 0x08, 0x09, 0x85].contains e.opcode
      && (e.phase == .waitOrder || e.phase == .waitMap || e.phase == .held || e.phase == .moving || e.phase == .built)
  else e.phase == .held

/-- The second die lost (R613): what needs a record completes with Namespace Not Ready, the critical warnings are set, and the
Gleaner and the Stipple stop. -/
def secondDieLost (s : State) : State :=
  let s1 := restartWrites s
  let s2 := { s1 with
      etch := { s1.etch with moving := [], built := [], update := none, wanted := none, anchorsDue := [], cpOpen := none, cpMirror := none }
      ftl := { s1.ftl with stopped := true } }
  let s3 := (s2.host.exec.filter needsRecord).foldl (fun t e => failCmd t e.cmd.id stNotReady) s2
  resumeCmds (resumeJobs s3)

/-- The first die lost (R226, R227): the settings copy on the surviving die is in force, the copy that was on the lost die is now
the other half of the surviving region, and the settings are written again; a checkpoint under way is given up; the units on the
lost die are recorded as deferred write errors. -/
def firstDieLost (s : State) (die : Nat) : State :=
  let s1 := updSetCopy s (die == 1) (fun c => { c with ok := false })
  let s2 := wantSettings { s1 with etch := { s1.etch with setActive := die == 0, cpOpen := none, cpMirror := none } } []
  let s3 := (unitsOnEtch s2 die).foldl (fun t k => deferUnit t k 1) (restartWrites s2)
  resumeCmds (resumeJobs s3)

/-- An Etch die declared lost. -/
def loseEtchDie (s : State) (die : Nat) : State :=
  if (if die = 0 then s.etch.lost0 else s.etch.lost1) then s
  else
    let s1 := if die = 0 then { s with etch := { s.etch with lost0 := true } } else { s with etch := { s.etch with lost1 := true } }
    let s2 := raise s1 evEtb 8
    wakeOn s (if etchGone s1 then secondDieLost s2 else firstDieLost s2 die)

/-- ETCH_DIE_LOST (R226): an Etch die stops answering. -/
def execEtchDieLost (die : Nat) (s : State) : Out := .next (if die < 2 then loseEtchDie s die else s)

/-- The unit that holds a data slot. -/
def slotHolder (s : State) (slot : Nat) : Option Nat :=
  (s.etch.slots.find? (fun e => decide (e.1 ≤ slot) && decide (slot < e.1 + e.2.n) && !e.2.freed)).bind (fun e =>
    let en := entryAt s e.2.key
    if eKind en = 2 ∧ eSlot en = e.1 then some e.2.key else none)

/-- ETCH_LINE_UE (R226): an uncorrectable line in a data slot is a deferred write error of the unit that holds the slot, with
ETB_EVENT.ETCH_UE; more than 64 such lines outside the data region lose the die. -/
def execEtchLineUe (slot : Nat) (s : State) : Out :=
  .next <|
    if inDataRegion slot then
      let s1 := raise s evEtb 7
      match slotHolder s1 slot with
      | some k => if etchGone s1 then s1 else deferUnit s1 k 2
      | none => s1
    else if 2097152 ≤ slot then s
    else if slot < 1048576 then
      let s1 := { s with etch := { s.etch with badLines0 := s.etch.badLines0 + 1 } }
      if 64 < s1.etch.badLines0 then loseEtchDie s1 0 else s1
    else
      let s1 := { s with etch := { s.etch with badLines1 := s.etch.badLines1 + 1 } }
      if 64 < s1.etch.badLines1 then loseEtchDie s1 1 else s1

end Sys2Proof.Machine
end

