-- ==== Sys2Proof/Machine/Resets.lean ====
section
/-! DEFINITION. Resets: of controllers (R86, R239, R241), and of the device (R39, R225); what outlives them. -/

namespace Sys2Proof.Machine

/-! ### Controllers (R239) -/

/-- The jobs of some commands, taken out of their channels: their commands are never completed (R86). -/
def dropJobs (s : State) (p : CmdId → Bool) : State :=
  (s.chn.jobs.filter (fun e => p e.2.cmd)).foldl (fun t e =>
    let t1 := clearEngine t e.1 e.2
    match jobAt t1 e.1 with
    | some b => dropHistories (removeJob (releaseHolds t1 b.blocks b.slots) e.1 b) b.head
    | none => t1) s

/-- Some commands in execution given up. -/
def dropAll (s : State) (mine : CmdId → Bool) : State :=
  let s1 := dropJobs s mine
  let s2 := (s1.host.exec.filter (fun e => mine e.cmd.id)).foldl (fun t e => releaseHolds t e.blocks e.slots) s1
  let s3 := dropCmds (dropWrites s2 mine) mine
  { s3 with chn := { s3.chn with
      drains := s3.chn.drains.filter (fun d => !mine d.id), destroys := s3.chn.destroys.filter (fun d => !mine d.id) } }

/-- The writes that wait for a boundary discarded (R79). -/
def discardRwb (s : State) : State :=
  { s with
    bus := { s.bus with rwb := [] }
    drc := { s.drc with chans := s.drc.chans.map (fun e => (e.1, { e.2 with early := [] })) } }

/-- The controllers of some functions reset: the channels created through them are destroyed, their commands are never completed,
their queues are gone, and their features take the saved values; pending RWB writes are discarded (R79). -/
def resetFns (s : State) (p : Nat → Bool) : State :=
  let mine (id : CmdId) : Bool := p id.fn
  let s3 := discardRwb (dropAll (killChannels s p) mine)
  resumeJobs <| resumeCmds { s3 with
    cry := { s3.cry with assemblies := s3.cry.assemblies.filter (fun e => !p e.1) }
    host := { s3.host with
      asyncEvents := s3.host.asyncEvents.filter (fun e => !p e.1)
      ctrls := s3.host.ctrls.map (fun e =>
        if p e.1 then (e.1, { ({} : Ctrl) with flexQ := e.2.flexQ, flexI := e.2.flexI, online := e.2.online }) else e) } }

/-- The controllers of a port reset, with VF Enable clear: its secondary controllers are offline and hold no flexible
resources. -/
def resetPort (s : State) (port : Nat) : State :=
  let s1 := resetFns s (fun f => fnPort s f == port)
  { s1 with host := { s1.host with
      ports := tabUpd {} s1.host.ports port (fun q => { q with vfEnable := false })
      ctrls := s1.host.ctrls.map (fun e =>
        if fnPort s e.1 = port ∧ !isPhysical s e.1 then (e.1, { e.2 with flexQ := 0, flexI := 0, online := false }) else e) } }

/-- A port's link trained (R234): the speed and the width that it reaches are the host's and the board's (log 48). -/
def trainLink (s : State) (port : Nat) : State :=
  let w := (freeNow s).toNat / 8 % 5
  let lanes := 16 / 2 ^ s.power.linkMode.toNat
  let s1 := { s with host := { s.host with ports := tabUpd {} s.host.ports port (fun q => { q with
      speed := BitVec.ofNat 4 ((freeNow s).toNat % 5 + 1), width := BitVec.ofNat 5 (Nat.min lanes (2 ^ w)), pm := 0 }) } }
  takeFree s1

/-- The ports of the mode in force trained, when PERST_N is deasserted, the PHY runs and an image runs (R228, R229). A member of
a cascade keeps its lanes idle (R564). -/
def trainLinks (s : State) : State :=
  if s.power.perstN && s.power.casRole && (s.power.started || decide (2 ≤ s.power.stage.getD 0)) && !s.power.noImage then
    (List.range (portCount s)).foldl trainLink s
  else s

/-- A port's link down. -/
def dropLink (s : State) (port : Nat) : State :=
  { s with host := { s.host with ports := tabUpd {} s.host.ports port (fun q => { q with speed := 0, width := 0, pm := 0 }) } }

/-! ### Coordination bus frames (R575, R577) -/

/-- A frame that the device will send. -/
def queueFrame (s : State) (kind : BitVec 4) (data : List Byte) : State :=
  { s with cas := { s.cas with tcbQueue := s.cas.tcbQueue ++ [{ kind := kind, data := data, tries := 0 }] } }

/-- The position that MATCH_IN gives (R565); for a value that the manual does not name it is free. -/
def positionOf (s : State) (matchIn : BitVec 4) : Nat :=
  if matchIn = 15 then 0 else if matchIn.toNat ≤ 6 then matchIn.toNat + 1 else (freeNow s).toNat % 8

/-- Cascade start begins at the end of stage 1 (R566): the ROLE and ANNOUNCE frames are due, and the Tabfer links train. -/
def openCascade (s : State) (matchIn : BitVec 4) : State :=
  let pos := positionOf s matchIn
  let claim : Byte := if s.power.casRole then 1 else 2
  let c := { s.cas with
    opened := true, startAt := now s, settled := false, pos := pos, roles := [(pos, claim)], serials := [(pos, s.power.serial)]
    links := (List.range 4).map (fun l => (l, { st := 1, trainAt := now s })) }
  queueFrame (queueFrame { takeFree s with cas := c } 3 [claim]) 4 (leBytes s.power.serial.toNat 8)

/-- The READY frame of a stage that has ended, in a cascade or before its start has settled. -/
def readyFrame (s : State) (k : Nat) : State :=
  if s.cas.opened && (!s.cas.settled || s.cas.roleCode = 1 || s.cas.roleCode = 2) then queueFrame s 6 (leBytes k 1) else s

/-- The device's own bit of CAS_STATUS.READY. -/
def ownReady (s : State) : State :=
  if s.power.ready && (s.cas.roleCode = 1 || s.cas.roleCode = 2) then
    { s with cas := { s.cas with ready := s.cas.ready ||| BitVec.ofNat 8 (2 ^ s.cas.pos) } }
  else s

/-- An ALARM frame of a device that is in a cascade. -/
def sendAlarm (was s : State) (code : Byte) : State :=
  if was.cas.roleCode = 1 || was.cas.roleCode = 2 then queueFrame s 0 [code] else s

/-! ### The device -/

/-- What outlives a device reset or a power cut: the time counter, fused values, the Etch buffer, the flash, the SPI NOR, and
what the model counts. Everything else is at its reset value. -/
def coldState (s : State) : State :=
  { State.reset with
    pending := s.pending
    freeCount := s.freeCount
    time := { s.time with
      copyOff := [], stopAt := [], aligned := false, stepped := false, slew := 0, slewAge := 0, ptmValid := false, ptmOffset := 0, ptmAt := 0
      syncStamp := 0, syncOffset := 0, syncAt := 0, syncLost := false }
    power := { State.reset.power with
      serial := s.power.serial, lifecycle := s.power.lifecycle, fwVersion := s.power.fwVersion
      perstN := s.power.perstN, casRole := s.power.casRole, vioHigh := s.power.vioHigh, aonOk := s.power.aonOk, firstStart := s.power.firstStart
      ranBefore := s.power.ranBefore, cleanRecord := s.power.cleanRecord }
    ftl := { State.reset.ftl with
      flash := s.ftl.flash, rebuild := s.ftl.rebuild.filter (·.active), rebuilds := s.ftl.rebuilds, exported := s.ftl.exported
      spareFirst := s.ftl.spareFirst }
    etch := { s.etch with
      slots := [], moving := [], built := [], cpOpen := none, update := none, wanted := none, shutRoot := false, anchorsDue := []
      admitHold := false, jrnlHold := false, badLines0 := 0, badLines1 := 0, deliveries := [] }
    host := { State.reset.host with
      fwSlots := s.host.fwSlots, fwNext := s.host.fwNext
      reservations := s.host.reservations.filter (fun e => e.2.ptpl) }
    chn := { State.reset.chn with epoch := s.chn.epoch + 1, pepoch := s.chn.pepoch + 1 }
    cry := { State.reset.cry with draws := s.cry.draws }
    therm := { State.reset.therm with held := s.therm.held } }

/-- The latest time found in the Etch journal and the settings store (R20). The latest record stands in the journal region whether
it has been discarded or not, until another one follows it (DEDUCED, log 119). -/
def latestTime (s : State) : Nat :=
  let copies := [s.etch.setA, s.etch.setB].filter (·.ok)
  copies.foldl (fun m c => Nat.max m c.stamp) (s.etch.live.foldl (fun m r => Nat.max m r.stamp) s.etch.lastStamp)

/-- The time for readiness in ticks (R39). -/
def readyWithin : Nat := 1000 * msTicks

/-- A start from stage 0 with its cause (R228, GLB_RESET_CAUSE). A counter that the always-on island has lost restarts one second
past the latest time found (R20). The Etch fence is raised until its hold has passed; media power is on (R600). -/
def beginStart (s : State) (cause : BitVec 4) : State :=
  let c := coldState s
  let t := if s.time.aonLost then latestTime s + secTicks else now s
  { c with
    time := { c.time with master := BitVec.ofNat 64 t, aonLost := false }
    cam := { c.cam with epoch := 1 }
    tenants := { c.tenants with frameNo := t / 128000, slot := t % 128000 / 2000 }
    power := { c.power with
      pwrOk := true, mediaPwrEn := true, stage := some 0, cause := cause
      unclean := s.power.ranBefore && !s.power.cleanRecord, ranBefore := true, startAt := t, fenceAt := t
      readyDeadline := t + readyWithin } }

/-- A reset of the device with its supplies kept (R86): the start from stage 0, CAM_STATUS.EPOCH going on (R393, log 111); in a
cascade with ALARM 03h (R584). -/
def resetDevice (s : State) (cause : BitVec 4) : State :=
  let s1 := beginStart s cause
  sendAlarm s { s1 with cam := { s1.cam with epoch := s.cam.epoch + 1 } } 3

/-- A controller reset (R86, R241): every controller is reset and every channel destroyed. -/
def resetControllers (s : State) : State :=
  let s1 := resetFns s (fun _ => true)
  { s1 with power := { s1.power with cause := 5 } }

end Sys2Proof.Machine
end

