-- ==== Sys2Proof/Machine/Thermal.lean ====
section
/-! DEFINITION. Thermal control (R553 to R563): the sensors, the thresholds, the pause level, shutdown and restart, the thermal
history. -/

namespace Sys2Proof.Machine

/-- A sensor's state. -/
def sensorAt (s : State) (k : Nat) : Sensor := tabAt {} s.therm.sensors k

/-- A degree Celsius reading in kelvins. -/
def kelvin (t : Int) : Nat := (t + 273).toNat

/-! ### The pause level (R557 to R559) -/

/-- The least pause level that TMT1 and TMT2 ask for (R559). -/
def pauseFloor (s : State) : Nat :=
  let k := kelvin s.therm.tjMedian
  if s.therm.tmt2 ≠ 0 && decide (s.therm.tmt2 ≤ k) then 4
  else if s.therm.tmt1 ≠ 0 && decide (s.therm.tmt1 ≤ k) then 2
  else 0

/-- The pause level L. -/
def pauseLevel (s : State) : Nat := Nat.max s.therm.level (pauseFloor s)

/-- THM_CFG: pause mode, and GRACE_MS within its bounds, in ticks. -/
def pauseMode (s : State) : Bool := regFld s 0x200008 0 1 = 1
def graceTicks (s : State) : Nat := within 10 10000 (regFld s 0x200008 16 16) * msTicks

/-! ### The thermal history (R562) -/

/-- Whether the settings, and with them page 0xC3, have been loaded. -/
def thermLoaded (s : State) : Bool :=
  s.power.started || (match s.power.stage with | some k => decide (0 < k) | none => false)

/-- An entry of page 0xC3 put on the page; the oldest leaves a full page. A shutdown counts in SHUTDOWNS. -/
def putTherm (l : ThermLog) (e : ThermEntry) : ThermLog :=
  { l with
    entries := (if l.entries.length < 256 then l.entries else l.entries.drop 1) ++ [e]
    total := l.total + 1
    shutdowns := l.shutdowns + bitNat (e.kind == 6)
    changed := e.time }

/-- An event recorded: on the page, or in the always-on island until the page is there (R563). -/
def addTherm (s : State) (kind sensor : Nat) : State :=
  let e : ThermEntry :=
    { time := now s, kind := kind, temp := s.therm.tjMax, sensor := sensor, level := pauseLevel s }
  if thermLoaded s then { s with therm := { s.therm with
        log := putTherm s.therm.log e, urgent := s.therm.urgent || decide (6 ≤ kind ∧ kind ≤ 8) } }
  else { s with therm := { s.therm with held := s.therm.held ++ [e] } }

/-- At the end of a start the entries held are put on the page, which is committed (R563). -/
def recordHeld (s : State) : State :=
  if s.therm.held.isEmpty then s
  else
    wantSettings { s with therm := { s.therm with log := s.therm.held.foldl putTherm s.therm.log, held := [] } } []

/-! ### The sensors (R553 to R555) -/

/-- The reading of a sensor in a round. -/
def readingOf (rs : List Int) (k : Nat) : Int := (rs[k]?).getD 0

/-- The neighbours of a sensor in the 8 × 8 grid. -/
def neighbours (k : Nat) : List Nat :=
  (List.range 64).filter (fun j => j ≠ k && decide (j / 8 ≤ k / 8 + 1) && decide (k / 8 ≤ j / 8 + 1)
    && decide (j % 8 ≤ k % 8 + 1) && decide (k % 8 ≤ j % 8 + 1))

/-- Twice the median of some readings. -/
def median2 (l : List Int) : Int :=
  let v := sortInts l
  let n := v.length
  if n % 2 = 1 then 2 * (v[n / 2]?).getD 0 else (v[n / 2 - 1]?).getD 0 + (v[n / 2]?).getD 0

/-- Whether a reading is suspect beside its healthy neighbours (R554). -/
def isSuspect (rs : List Int) (healthy : List Nat) (k : Nat) : Bool :=
  let near := (neighbours k).filter (fun j => healthy.contains j)
  decide (2 ≤ near.length) && decide (24 < (2 * readingOf rs k - median2 (near.map (readingOf rs))).natAbs)

/-- One sensor after a round: its reading, its suspicion and whether it is broken. -/
def sensorRound (s : State) (rs : List Int) (out healthy : List Nat) (k : Nat) : Sensor :=
  let o := sensorAt s k
  let sus := healthy.contains k && isSuspect rs healthy k
  let n := if sus then o.rounds + 1 else 0
  { temp := readingOf rs k, suspect := sus, rounds := n, broken := o.broken || out.contains k || decide (3 ≤ n) }

/-- A sensor declared broken: its event, its entry, and the report of a fault that is repaired at once (R46, R49). -/
def breakSensor (s : State) (k : Nat) : State :=
  let s1 := addTherm (raise s evThm 3) 8 k
  if s.power.started then wantFaultEvent s1 else s1

/-- The lowest and highest counted readings of a sensor. -/
def noteReading (l : ThermLog) (k : Nat) (v : Int) (t : Nat) : ThermLog :=
  let lo := tabAt v l.mins k
  let hi := tabAt v l.maxs k
  if v < lo || hi < v || (tabGet l.mins k).isNone then
    { l with mins := tabPut l.mins k (min v lo), maxs := tabPut l.maxs k (max v hi), maxEver := max v l.maxEver, changed := t }
  else l

/-- A list's largest reading with its sensor, the lowest-numbered one that gives it. -/
def hottest (rs : List Int) : List Nat → Option (Int × Nat)
  | [] => none
  | k :: ks =>
    match hottest rs ks with
    | some (v, j) => if v ≤ readingOf rs k then some (readingOf rs k, k) else some (v, j)
    | none => some (readingOf rs k, k)

/-- TEMP_HIST (R198): the band of a median. -/
def tempBand (t : Int) : Nat := if t < -30 then 0 else Nat.min 15 ((t + 40) / 10).toNat

/-- The readings of a round taken: sensors, TJ_MAX, TJ_MEDIAN, the extremes and TEMP_HIST in milliseconds. -/
def takeReadings (s : State) (rs : List Int) (out : List Nat) : State :=
  let healthy := (List.range 64).filter (fun k => !(sensorAt s k).broken && !out.contains k)
  let tab := (List.range 64).map (fun k => (k, sensorRound s rs out healthy k))
  let newly := (tab.filter (fun e => e.2.broken && !(sensorAt s e.1).broken)).map (·.1)
  let left := (tab.filter (fun e => !e.2.broken)).map (·.1)
  let counted := (tab.filter (fun e => !e.2.broken && !e.2.suspect)).map (·.1)
  let top := (hottest rs counted).getD (s.therm.tjMax, s.therm.hotSensor)
  let med := if left.isEmpty then s.therm.tjMedian else median2 (left.map (readingOf rs)) / 2
  let t := s.therm
  let s1 := { s with therm := { t with
      sensors := tab, tjMax := top.1, tjMedian := med, hotSensor := top.2, roundAt := now s
      log := if thermLoaded s then counted.foldl (fun l k => noteReading l k (readingOf rs k) (now s)) t.log else t.log } }
  let runs := s.power.pwrOk && !s.power.shutdown && decide (s.power.pstate ≤ 2)
  let s2 := if runs then
      { s1 with ftl := { s1.ftl with health := { s1.ftl.health with
          tempHist := tabUpd 0 s1.ftl.health.tempHist (tempBand med) (· + 1) } } }
    else s1
  newly.foldl breakSensor s2

/-! ### The thresholds (R556, R558) and the features 04h -/

/-- The SMART / Health asynchronous event for a temperature. -/
def tempEvent (s : State) (fs : List Nat) : State := asyncAll s fs (asyncDword 1 1 2)

/-- The warning state entered or left. -/
def warnStep (s : State) : State :=
  let t := s.therm
  if !t.warning && decide (98 ≤ t.tjMax) then
    let s1 := addTherm (raise { s with therm := { t with warning := true } } evThm 0) 1 t.hotSensor
    tempEvent s1 (enabledFns s1)
  else if t.warning && decide (t.tjMax < 95) then addTherm { s with therm := { t with warning := false } } 2 t.hotSensor
  else s

/-- The throttle state entered or left, and the pause level moved at every 10th round. -/
def throttleStep (s : State) : State :=
  let t := s.therm
  if !t.throttle && decide (103 ≤ t.tjMax) then
    let cont := decide (0 < pauseLevel s)
    let s1 := { s with
      therm := { t with
        throttle := true, rounds := 0, graceAt := now s, raising := cont || pauseMode s
        level := if cont then pauseLevel s else t.level }
      power := { s.power with thermN := true } }
    let s2 := addTherm (raise s1 evThm 1) 3 t.hotSensor
    if pauseMode s then s2 else tempEvent s2 (enabledFns s2)
  else if t.throttle && decide (t.tjMax < 100) then
    let s1 := { s with
      therm := { t with throttle := false, fallRounds := 0, raising := false }, power := { s.power with thermN := s.power.shutdown } }
    addTherm s1 4 t.hotSensor
  else if t.throttle then
    let n := t.rounds + 1
    let up := n % 10 = 0 && (t.raising || pauseMode s)
    { s with therm := { t with rounds := n, level := if up then Nat.min 7 (pauseLevel s + 1) else t.level } }
  else if 0 < t.level then
    let n := t.fallRounds + 1
    { s with therm := { t with fallRounds := n, level := if n % 10 = 0 then t.level - 1 else t.level } }
  else s

/-- The thresholds of feature 04h that a function's controller sees crossed: over and under, of the composite temperature
and of sensor 1, in kelvins (R555). -/
def crossedBy (s : State) (f : Nat) : List Nat :=
  let th (sel : Nat) (d : Dword) : Nat := fld (featureAt s f (featKey 4 sel) d) 0 16
  let one (base : Nat) (sel : Nat) (t : Int) : List Nat :=
    (if th sel 371 ≤ kelvin t then [base] else []) ++ (if kelvin t ≤ th (sel + 16) 233 then [base + 1] else [])
  one (f * 4) 0 s.therm.tjMedian ++ one (f * 4 + 2) 1 s.therm.tjMax

/-- Crossings of feature 04h thresholds, with their events. -/
def crossStep (s : State) : State :=
  let cs := ((enabledFns s).map (crossedBy s)).foldl (· ++ ·) []
  let fs := setOfNats ((cs.filter (fun k => !s.therm.crossed.contains k)).map (· / 4))
  tempEvent { s with therm := { s.therm with crossed := cs } } fs

/-! ### Shutdown and restart (R560, R561) -/

/-- The device shut down: the fence is raised, every island but the always-on is held in reset; the sensors go on. -/
def shutDown (s : State) : State :=
  let e : ThermEntry :=
    { time := now s, kind := 6, temp := s.therm.tjMax, sensor := s.therm.hotSensor, level := pauseLevel s }
  let c := sendAlarm s (coldState s) 1
  { c with
    power := { c.power with pwrOk := true, shutdown := true, thermN := true }
    therm := { c.therm with
      sensors := s.therm.sensors, tjMax := s.therm.tjMax, tjMedian := s.therm.tjMedian, hotSensor := s.therm.hotSensor
      held := s.therm.held ++ [e] } }

/-- When the shutdown in force began. -/
def shutdownAt (s : State) : Nat := ((s.therm.held.reverse.find? (fun e => e.kind == 6)).map (·.time)).getD 0

/-- Whether every healthy sensor has read below 95 °C. -/
def cooled (s : State) : Bool := s.therm.sensors.all (fun e => e.2.broken || decide (e.2.temp < 95))

/-- The restart after a shutdown, with its entry. -/
def restart (s : State) : State :=
  let c := beginStart (addTherm s 7 s.therm.hotSensor) 3
  raise { c with therm := { c.therm with
    sensors := s.therm.sensors.filter (fun e => !e.2.broken), tjMax := s.therm.tjMax, tjMedian := s.therm.tjMedian
    hotSensor := s.therm.hotSensor } } evThm 4

/-- SENSOR_ROUND (R553): the always-on island's round, once a millisecond. -/
def execSensorRound (readings : List Int) (outOfRange : List Nat) (s : State) : Out :=
  if !s.power.aonOk || !isDue s s.therm.roundAt msTicks then .next s
  else
    let s1 := takeReadings s readings outOfRange
    if s.power.shutdown then
      .next (if cooled s1 && decide (shutdownAt s1 + 10 * secTicks ≤ now s1) then restart s1 else s1)
    else if !s.power.pwrOk then .next s1
    else
      let hot := if 120 ≤ s1.therm.tjMax then s1.therm.hot + 1 else 0
      let s2 := crossStep (throttleStep (warnStep { s1 with therm := { s1.therm with hot := hot } }))
      .next (if 2 ≤ hot then shutDown s2 else wakeOn s s2)

/-- THROTTLE_GRACE_EXPIRY (R558). -/
def execThrottleGraceExpiry (s : State) : Out :=
  let t := s.therm
  let due := t.throttle && !t.raising && !pauseMode s && decide (t.graceAt + graceTicks s ≤ now s)
  .next (
    if due && decide (103 ≤ t.tjMax) then addTherm (raise { s with therm := { t with raising := true } } evThm 2) 5 t.hotSensor
    else s)

/-- THERMAL_HISTORY_COMMIT (R563): every 10 minutes, and within 1 s after an entry of KIND 06h to 08h. -/
def execThermalHistoryCommit (s : State) : Out :=
  if !s.power.started || !(s.therm.urgent || isDue s s.therm.commitAt (600 * secTicks)) then .next s
  else .next (wantSettings { s with therm := { s.therm with urgent := false, commitAt := now s } } [])

end Sys2Proof.Machine
end

