-- ==== Sys2Proof/Machine/Start.lean ====
section
/-! DEFINITION. The start: what each stage of R228 does, with the recovery start of R220. -/

namespace Sys2Proof.Machine

/-! ### Stage times (R228, R229, R41) -/

/-- The budgets of the stages in units of 0.1 ms. -/
def stageBudget (k : Nat) : Nat := ([350, 100, 1200, 400, 1500, 2500, 600, 100][k]?).getD 0

/-- A stage's duration recorded in ETB_START_STAGE_k; an overrun sets START_OVERRUN. -/
def recordStage (s : State) (k tenths : Nat) : State :=
  let tooLong := decide (stageBudget k < tenths)
  raiseIf tooLong (setReg s (0xE00040 + 4 * k) (dwordOf (tenths % 65536 + place (bitNat tooLong) 16 1))) evEtb 6

/-- A condition of R41 lengthens the start by what its time exceeds 1,000 ms (R42). -/
def lengthen (s : State) (ms : Nat) : State :=
  { s with power := { s.power with readyDeadline := s.power.readyDeadline + ms * msTicks } }

/-- The next stage begins. -/
def toStage (s : State) (k : Nat) : State := { s with power := { s.power with stage := some k } }

/-- No image runs: the host link stays down (R229). -/
def stopStart (s : State) : State := { s with power := { s.power with stage := none, noImage := true } }

/-! ### Stage 0: images and settings (R219, R228, R229) -/

/-- The settings of a body in force: the records, and the registers that a start restores (R70). -/
def applySettings (s : State) (b : Settings) : State :=
  { s with
    media := { s.media with
      accepted := b.accepted, faults := b.faults.map (fun f => { f with fresh := false }), faultsTotal := b.faultsTotal
      faultsAt := b.faultsAt, training := b.training, present := b.present, away := b.away }
    pcs := { s.pcs with
      marks := b.marks, remapDram := b.remapDram, remapSram := b.remapSram, patrol := b.patrol, patrolSaved := b.patrol }
    ftl := { s.ftl with namespaces := b.namespaces, health := b.health }
    tenants := { s.tenants with recs := b.tenants, bind := b.bind }
    cry := { s.cry with slots := b.keys, nsKeys := b.nsKeys }
    host := { s.host with features := b.features, sanitizing := b.sanitize, sanitized := b.sanitized }
    power := { s.power with linkMode := b.linkMode }
    therm := { s.therm with log := b.therm }
    drc := { s.drc with population := b.dramPop }
    bus := { s.bus with active := b.snapshots.foldl (fun t e => tabSet (resetValue e.1) t e.1 e.2) s.bus.active } }

/-- The settings of a store come into force; an update asked for before takes them in. -/
def enforce (s : State) (c : SetCopy) : State :=
  let s1 := applySettings s c.body
  let s2 := { s1 with power := { s1.power with settingsIn := true }, etch := { s1.etch with setSeq := c.seq } }
  if s2.etch.wanted.isSome then wantSettings s2 [] else s2

/-- Settings copy A, or B, chosen. -/
def chooseCopy (s : State) (b : Bool) : State :=
  let s1 := enforce s (if b then s.etch.setB else s.etch.setA)
  { s1 with etch := { s1.etch with setActive := b } }

/-- The image that a firmware commit has named becomes the running image (R41). -/
def activateImage (s : State) : State :=
  match s.host.fwNext.bind (tabGet s.host.fwSlots) with
  | some v =>
    lengthen { s with
      power := { s.power with fwVersion := dwordOf v, newImage := true }, host := { s.host with fwNext := none } } 500
  | none => s

/-- Stage 0: the image, and the settings copy that verifies with the highest SEQ. Without one the recovery start begins; with no
Etch die left, the settings-recovery state (R613). -/
def stageBoot (s : State) (primaryOk secondaryOk copyAOk copyBOk : Bool) (dieTable : List (BitVec 256 × Bool)) : State :=
  if !primaryOk && !secondaryOk then stopStart s
  else
    let s0 := activateImage s
    let s1 := { s0 with power := { s0.power with dieTable := dieTable } }
    let s2 := if primaryOk then s1 else lengthen { s1 with power := { s1.power with bootImage := true } } 40
    let a := s.etch.setA.ok && copyAOk && !etchGone s
    let b := s.etch.setB.ok && copyBOk && !etchGone s
    let s3 := raiseIf (!(a && b)) s2 evEtb 4
    let s4 := if s.power.firstStart then lengthen s3 4000 else s3
    toStage (
      if a && (!b || decide (s.etch.setB.seq ≤ s.etch.setA.seq)) then chooseCopy s4 false
      else if b then chooseCopy s4 true
      else if etchGone s then { s4 with power := { s4.power with settingsRecovery := true } }
      else lengthen { s4 with power := { s4.power with recoveryStart := true } } (if s.power.firstStart then 0 else 4500)) 1

/-! ### Stage 2: DRAM (R527) -/

/-- A list with its positions. -/
def numbered {α : Type} : Nat → List α → List (Nat × α)
  | _, [] => []
  | k, x :: xs => (k, x) :: numbered (k + 1) xs

/-- Whether a start trains everything anew: the first start and the recovery start (R41, R220). -/
def trainsFully (s : State) : Bool := (s.power.firstStart || s.power.recoveryStart) && !s.power.started

/-- The DRAM population of some findings, as settings section 0002h keeps it: a number for each channel. -/
def populationOf (l : List DramFinding) : List (Nat × Nat) :=
  numbered 0 (l.map (fun f =>
    f.density.toNat + place (bitNat f.ranks2) 2 1 + place (bitNat f.rdimm) 3 1 + place f.rate.toNat 4 2 + f.ident * 64))

/-- A population met: when it is not the one kept with the training results, the device marks and the remap entries of DRAM are
cleared (R140, R146), which repairs the faults of the devices marked (R46). -/
def meetPopulation (s : State) (found : List (Nat × Nat)) : State :=
  if found = s.drc.population then s
  else
    let s1 := { s with
      pcs := { s.pcs with marks := [], remapDram := [] }, drc := { s.drc with population := found } }
    if s.pcs.marks.isEmpty then s1 else wantFaultEvent s1

/-- Whether a DRAM channel trains: its stored training verifies, of the same population, or full training succeeds. -/
def dramTrains (s : State) (same : Bool) (f : DramFinding) : Bool := (f.stored && same && !trainsFully s) || f.trains

/-- The configuration that a DRAM channel declares. -/
def sameDram (f g : DramFinding) : Bool :=
  f.density == g.density && f.ranks2 == g.ranks2 && f.rdimm == g.rdimm && f.rate == g.rate

/-- One DRAM channel taken into use, or left out of use with CH_EXCLUDED. -/
def placeDram (same : Bool) (ref : DramFinding) (s : State) (e : Nat × DramFinding) : State :=
  let f := e.2
  let ok := dramTrains s same f && sameDram f ref
  let c : DChan :=
    if ok then { st := 2, density := f.density, ranks2 := f.ranks2, rdimm := f.rdimm, rate := f.rate } else { st := 0 }
  raiseIf (!ok) { s with drc := { s.drc with chans := tabPut s.drc.chans e.1 c } } evDrc 0

/-- Stage 2: every channel takes the configuration of the lowest-numbered one that trains; channels not listed are unused. With
none, the device behaves as without an image. -/
def stageDram (s : State) (l : List DramFinding) : State :=
  let same := decide (populationOf l = s.drc.population)
  match l.find? (dramTrains s same) with
  | none => stopStart s
  | some ref =>
    let off := (List.range 8).foldl (fun t c => { t with drc := { t.drc with chans := tabPut t.drc.chans c { st := 0 } } }) s
    let s1 := meetPopulation ((numbered 0 (l.take 8)).foldl (placeDram same ref) off) (populationOf l)
    toStage (if trainsFully s || (same && l.all (·.stored)) then s1 else lengthen (wantSettings s1 []) 1000) 3

/-! ### Stage 3: checkers (R147, R148) -/

/-- A checker that is not trusted (R148). Which unit or core a macro group belongs to the manual does not say: the finding names
it (log 49). -/
def distrust (s : State) : Checker → State
  | .ldpc g u => wantFaultEvent (retireUnit s .ldpc g u)
  | .dramEcc c => { s with drc := { s.drc with chans := tabPut s.drc.chans c { st := 0 } } }
  | .sramUnit p i u => if p == .ldpc then wantFaultEvent (retireUnit s p i u) else retireEvent s p i u
  | .sramCore c => if (coreAt s c).failed then s else coreFail s c
  | .sramOther _ => { s with power := { s.power with settingsRecovery := true } }

/-- Whether a checker gives the verdict that R147 requires for its i-th pattern. -/
def patternOk (c : Checker) (i : Nat) (a : PatternAnswer) : Bool :=
  match c, i, a with
  | .ldpc _ _, 0, .corrected n _ => n == 0
  | .ldpc _ _, 1, .corrected n same => n == 48 && same
  | .ldpc _ _, 2, .corrected _ same => same
  | .ldpc _ _, 3, .reported => true
  | .ldpc _ _, _, _ => false
  | .dramEcc _, i, .corrected _ same => decide (i % 12 < 11) && same
  | .dramEcc _, i, .reported => i % 12 == 11
  | .sramUnit _ _ _, 0, .corrected _ same | .sramCore _, 0, .corrected _ same | .sramOther _, 0, .corrected _ same => same
  | .sramUnit _ _ _, 1, .reported | .sramCore _, 1, .reported | .sramOther _, 1, .reported => true
  | .sramUnit _ _ _, _, _ | .sramCore _, _, _ | .sramOther _, _, _ => false

/-- The patterns of a checker: of a DRAM channel's ECC twelve for each of its ranks and subchannels. -/
def patternCount (s : State) : Checker → Nat
  | .ldpc _ _ => 4
  | .dramEcc c => if (tabAt {} s.drc.chans c).ranks2 then 48 else 24
  | _ => 2

/-- Whether a checker has passed its test: the verdict required on every pattern (R147). -/
def runPasses (s : State) (r : CheckerRun) : Bool :=
  r.answers.length == patternCount s r.checker
    && (List.range r.answers.length).all (fun i => ((r.answers[i]?).map (patternOk r.checker i)).getD false)

/-- The checkers that have failed: one whose run is not given has answered every pattern as required. -/
def failedCheckers (s : State) (l : List CheckerRun) : List Checker := (l.filter (fun r => !runPasses s r)).map (·.checker)

/-- PCS_SELFTEST_RESULT of the checkers that failed. -/
def selftestResult (l : List Checker) : Dword :=
  let ldpc := (l.filter (fun c => match c with | .ldpc _ _ => true | _ => false)).length
  let dram := l.foldl (fun m c => match c with | .dramEcc k => m ||| 2 ^ k | _ => m) 0
  let sram := (l.filter (fun c => match c with | .sramUnit _ _ _ => true | .sramCore _ => true | .sramOther _ => true | _ => false)).length
  dwordOf (1 + 2 * bitNat l.isEmpty + place (Nat.min 255 ldpc) 8 8 + place dram 16 8 + place (Nat.min 255 sram) 24 8)

/-- The checkers tested; from now on stored data may pass them (R147). -/
def testCheckers (s : State) (runs : List CheckerRun) : State :=
  let l := failedCheckers s runs
  let s1 := raiseIf (!l.isEmpty) (setReg (l.foldl distrust s) 0xA00060 (selftestResult l)) evPcs 0
  { s1 with power := { s1.power with tested := true } }

/-- Stage 3, which runs in parallel with stage 4. -/
def stageCheckers (s : State) (l : List CheckerRun) : State :=
  toStage (testCheckers s l) (if s.power.earlyMedia then 5 else 4)

/-! ### Stage 4: media bring-up (R94 to R105, R220) -/

/-- Whether a pin test has passed: no fault, or one that leaves the channel running (R112). -/
def pinsPass (f : ChanFinding) : Bool := f.cls = 0 || f.cls = 7 || decide (8 ≤ f.cls.toNat)

/-- The accepted types after the first start has filled an empty list, in the order of the device-wide die numbers (R98). -/
def fillAccepted (l : List ChanFinding) : List DieType :=
  let typesOn (ch : Nat) : List DieType :=
    match l.find? (fun f => f.chan == ch && pinsPass f) with
    | some f => (chanSeen f.dies).filterMap (·.dtype)
    | none => []
  let found := ((List.range 128).map typesOn).foldl (· ++ ·) []
  (found.foldl (fun a t => if a.contains t then a else a ++ [t]) []).take 16

/-- Whether a die's type is accepted, and its interface is that of die 0 of its channel (R90, R96). -/
def dieAccepted (s : State) (l : List DieSeen) (d : DieSeen) : Bool :=
  sameIface l d && (match d.dtype with
    | some t => s.media.accepted.contains t
    | none => false)

/-- Whether a volume address collides (R101). -/
def dieCollides (s : State) (l : List DieSeen) (d : DieSeen) : Bool :=
  match d.uid with
  | none => true
  | some u => l.any (fun e => e.die ≠ d.die && dieAccepted s l e && e.uid == some u)

/-- The first four Read ID bytes and the first four digest bytes of an entry of page 0xC4. -/
def entryIdent (d : DieSeen) : Dword := dwordOf d.ident.toNat
def entryDigest (d : DieSeen) : Dword := (d.dtype.map (fun t => dwordOf t.digest.toNat)).getD 0

/-- One die of a channel takes its state (R96, R102); `old` are the channel's dies before a PS4 exit, of which a failed one stays
failed. -/
def placeDie (ch : Nat) (l : List DieSeen) (old : List (Nat × Die)) (s : State) (d : DieSeen) : State :=
  let was := tabAt {} old d.die
  let die (st : BitVec 4) : Die :=
    { was with st := st, dtype := d.dtype, uid := d.uid, params := if st = dieActive then d.params else noParams, rts := none }
  let put (t : State) (st : BitVec 4) : State := updChan t ch (fun c => { c with dies := tabPut c.dies d.die (die st) })
  if !dieAccepted s l d then
    raise (put (addFault s ch d.die 1 0xFF (entryIdent d) (entryDigest d)) dieStranger) (evMed ch) 0
  else if dieCollides s l d then
    raise (put (addFault s ch d.die 2 0xFF (entryIdent d) 0) dieCollision) (evMed ch) 1
  else put s (if was.dead then dieFailed else dieActive)

/-- The dies of a channel that answer now. -/
def notePresent (s : State) (ch : Nat) (l : List DieSeen) : State :=
  { s with media := { s.media with
      present := setOfNats (s.media.present.filter (fun d => d / 16 ≠ ch) ++ l.map (fun d => ch * 16 + d.die)) } }

/-- Steps 1 to 6 of bring-up on one channel, without step 1, the pin test, unless `test`. A start tries the highest step again; a
PS4 exit keeps the step to which a retraining has brought the channel (R109). -/
def discoverFrom (test : Bool) (s : State) (f : ChanFinding) : State :=
  let was := chanAt s f.chan
  let l := chanSeen f.dies
  let s1 := updChan s f.chan (fun _ =>
    { st := chanBringUp, trained := if s.power.started then was.trained else 6, pinAt := now s, ops := was.ops })
  let s2 := if test then pinFound s1 f.chan f.cls f.pin f.other else s1
  if pinsPass f || !test then notePresent (l.foldl (placeDie f.chan l was.dies) s2) f.chan l else s2

/-- Whether a channel's stored training verifies at the step that R93 gives (R104): for every active die it is stored, and the
eye reaches RETRAIN_PCT on each of the eight DQ pins. -/
def trainingVerifies (s : State) (f : ChanFinding) : Bool :=
  let step := rateStep s f.chan s.power.pstate
  hasTraining s f.chan step && (activeOf s f.chan).all (fun d =>
    match f.eyes.find? (fun e => e.1 == d % 16) with
    | some e => e.2.length == 8 && e.2.all (fun x => decide (retrainPct s f.chan ≤ x))
    | none => false)

/-- A channel whose stored training verifies. -/
def useStored (s : State) (f : ChanFinding) : State :=
  settleRate (updChan s f.chan (fun c => { c with st := chanActive })) f.chan

/-- A channel that will be trained in the background: until then its data is reconstructed (R105). -/
def trainLater (s : State) (f : ChanFinding) : State :=
  addFault (updChan s f.chan (fun c => { c with background := true })) f.chan 0xFF 0x20 0xFF 0 0

/-- Step 7 of bring-up on every channel (R105). -/
def trainAll (s : State) (l : List ChanFinding) : State :=
  let up := l.filter (fun f => (chanAt s f.chan).st == chanBringUp)
  if trainsFully s then wantSettings (up.foldl (fun t f => trainFully t f.chan f.best) s) []
  else
    let bad := up.filter (fun f => !trainingVerifies s f)
    let s1 := (up.filter (trainingVerifies s)).foldl useStored s
    match bad with
    | [] => s1
    | [f] => wantSettings (trainLater s1 f) []
    | _ =>
      let s2 := bad.foldl (fun t f => trainFully (addFault t f.chan 0xFF 0x20 0xFF 0 0) f.chan f.best) s1
      lengthen (wantSettings s2 []) 500

/-- A settings update for the entries of page 0xC4 that a bring-up has added (R199). -/
def saveFaults (was s : State) : State := if s.media.faultsTotal = was.media.faultsTotal then s else wantSettings s []

/-- Stages 4a and 4b: the settings restored from the mirror that the anchor records lead to, and the Etch copies rewritten from it;
without one, the settings-recovery state (R45, R220). -/
def recoverSettings (s : State) (badAnchors badMirrors : List Nat) : State :=
  match namedSettings s badAnchors badMirrors with
  | none => { s with power := { s.power with settingsRecovery := true } }
  | some c =>
    let s1 := meetPopulation (enforce s c) s.drc.population
    { s1 with etch := { s1.etch with setA := c, setB := c, setActive := false } }

/-- Stage 4. -/
def stageMedia (s : State) (l : List ChanFinding) (badAnchors badMirrors : List Nat) : State :=
  let s1 := if s.power.recoveryStart && !s.power.settingsIn then recoverSettings s badAnchors badMirrors else s
  if s1.power.settingsRecovery then s1
  else
    let s2 := if s1.media.accepted.isEmpty then
        wantSettings { s1 with media := { s1.media with accepted := fillAccepted l } } []
      else s1
    let s3 := saveFaults s2 (trainAll (l.foldl (discoverFrom true) s2) l)
    { s3 with power := { s3.power with wpg := if s3.power.fence then 0 else 0xFF } }

/-! ### Stage 5: replay (R195, R230) -/

/-- Root images that verify, as far as stage 5 knows, with the one of the lower CP_SEQ; with none, the mirror that the anchor records
lead to. -/
def lowerRoot (s : State) : RootImg :=
  match [(rootImages s).1, (rootImages s).2].filter (·.ok) with
  | [] => (namedRoot s [] []).getD {}
  | r :: rs => rs.foldl (fun m x => if x.cpSeq < m.cpSeq then x else m) r

/-- The bytes of a copy of a map page, read at its place or by reconstruction. -/
def copyBytes (s : State) (loc : Qword) : List Byte := ((gleanWord s (cwAfter loc 0)).map (·.user)).getD []

/-- The entries of a leaf page as its flash copy holds them. -/
def loadLeaf (s : State) (page : Nat) (loc : Qword) : State :=
  { s with ftl := { s.ftl with map := leafEntries s.ftl.map page (copyBytes s loc) } }

/-- The places of the leaf pages as the flash copy of their directory page names them. -/
def loadDir (s : State) (page : Nat) (loc : Qword) : State :=
  let bytes := copyBytes s loc
  let put (t : List (Nat × Qword)) (i : Nat) : List (Nat × Qword) :=
    let e := BitVec.ofNat 64 (leAt bytes (8 * i) 8)
    let k := pageKey (page / 2 ^ 48) 0 (page % 2 ^ 47 * 512 + i)
    if eKind e = 1 then tabPut t k e else tabDel t k
  { s with ftl := { s.ftl with mapLoc := (List.range 512).foldl put s.ftl.mapLoc } }

/-- A copy of a map page takes effect as the map is loaded. -/
def loadPage (s : State) (page : Nat) (loc : Qword) : State :=
  let s1 := { s with ftl := { s.ftl with mapLoc := tabPut s.ftl.mapLoc page loc } }
  if isLeafPage page then loadLeaf s1 page loc else loadDir s1 page loc

/-- The map as it is found from the directory pages of an image: their copies name the leaf pages, and the leaf copies hold the entries
(R195). -/
def loadMap (s : State) (dirs : List (Nat × Qword)) : State :=
  let s0 := { s with ftl := { s.ftl with map := [], mapLoc := [], overlay := [] } }
  let s1 := dirs.foldl (fun t e => loadPage t e.1 e.2) s0
  (s1.ftl.mapLoc.filter (fun e => isLeafPage e.1)).foldl (fun t e => loadLeaf t e.1 e.2) s1

/-- One entry of a record replayed: unit entries go to the overlay, map pages to their new copy, a deleted namespace loses its
units, a deferred write error poisons its unit again. Relocations are checked (R191). -/
def replayEntry (type : Nat) (s : State) (e : JEntry) : State :=
  if 1 ≤ type ∧ type ≤ 5 then
    if relocOk s type e then { s with ftl := { s.ftl with overlay := tabPut s.ftl.overlay (jUnit e.key) e.new } } else s
  else if type = 6 then
    if !relocOk s type e then s
    else if isLeafPage (jPage e.key) then loadPage s (jPage e.key) e.new
    else { s with ftl := { s.ftl with mapLoc := tabPut s.ftl.mapLoc (jPage e.key) e.new } }
  else if type = 9 then
    let gone (k : Nat) : Bool := keyNsid k == keyNsid (jUnit e.key)
    { s with ftl := { s.ftl with
        overlay := s.ftl.overlay.filter (fun p => !gone p.1)
        map := s.ftl.map.filter (fun p => !gone p.1)
        mapLoc := s.ftl.mapLoc.filter (fun p => !gone p.1) } }
  else if type = 10 then
    let k := jUnit e.key
    let coarse := ((tabGet s.ftl.namespaces (keyNsid k)).map (·.coarse)).getD false
    { s with ftl := { s.ftl with
        overlay := tabPut s.ftl.overlay k (withPoison (entryAt s k) (if coarse then 0xFFFF else 1)) } }
  else s

/-- A record replayed. -/
def replayRec (s : State) (r : JRec) : State := r.entries.foldl (replayEntry r.type) s

/-- Extents named by the overlay are held, for the tenant of the record that named them; every other data slot is free. -/
def holdNamed (s : State) : State :=
  let named := (s.etch.live.map (fun r => r.entries.map (fun e => (e.new, r.tenant)))).foldl (· ++ ·) []
  let tenantOf (e : Qword) : Nat :=
    ((named.find? (fun n => eKind n.1 == 2 && eSlot n.1 == eSlot e)).map (·.2)).getD 0
  let s0 := { s with etch := { s.etch with slots := [] } }
  (s.ftl.overlay.filter (fun e => eKind e.2 == 2)).foldl (fun t e => takeExtent t (eSlot e.2) (eLen e.2) e.1 (tenantOf e.2)) s0

/-- The replay of some records over the map of an image. -/
def replayOver (s : State) (r : RootImg) (recs : List JRec) : State :=
  holdNamed ((recs.filter (fun x => decide (r.cpSeq < x.seq))).foldl replayRec (loadMap s r.mapLoc))

/-- Stage 5: the journal up to the first record that fails on both dies (`badFrom`) is replayed; the next record will lie behind the last
one that is good (R208, R230). -/
def stageReplay (s : State) (badFrom : Option Nat) : State :=
  let good := match badFrom with
    | some n => s.etch.live.takeWhile (fun r => decide (r.seq < n))
    | none => s.etch.live
  let cut := decide (good.length < s.etch.live.length)
  let last := (good.getLast?.map (·.seq)).getD (s.etch.seq - s.etch.live.length)
  let tail := (good.getLast?.map (fun r => r.off + r.len)).getD (lowerRoot s).cpOffset
  let s1 := { s with etch := { s.etch with
      live := good, seq := if cut then last else s.etch.seq, tail := if cut then tail else s.etch.tail } }
  replayOver s1 (lowerRoot s1) good

/-! ### Stage 6: the map root (R211, R229, R195) -/

/-- One entry of a block or swath record applied over an image (R230). -/
def rootEntry (type : Nat) (s : State) (e : JEntry) : State :=
  if type = 7 then
    let k := blockKey (jDie e.key) (jBlock e.key)
    let s1 := updBlock s k (fun b => blockFrom b e.new)
    if e.old.toNat = 6 then
      { s1 with ftl := { s1.ftl with
          swaths := (s1.ftl.swaths.map (fun w => { w with members := w.members.filter (· ≠ (jDie e.key, jBlock e.key)) })).filter
            (fun w => !w.members.isEmpty) } }
    else s1
  else if type = 8 then
    let id := natFld e.key.toNat 0 20
    let m := (eDie e.new, eBlock e.new)
    if s.ftl.swaths.any (fun w => w.id == id) then
      let i := natFld e.key.toNat 20 5
      let put (ms : List (Nat × Nat)) : List (Nat × Nat) := if i < ms.length then ms.set i m else ms ++ [m]
      { s with ftl := { s.ftl with
          swaths := updFirst (fun w => w.id == id) (fun w => { w with members := put w.members }) s.ftl.swaths } }
    else
      let w : Swath :=
        { id := id, family := (blockAt s (blockKey m.1 m.2)).family, members := [m], opened := true, next := 0, done := []
          safe := [], fallow := false, chset := 0 }
      { s with ftl := { s.ftl with swaths := s.ftl.swaths ++ [w] } }
  else s

/-- The blocks and swaths of an image, with the records above its CP_SEQ. -/
def loadRoot (s : State) (r : RootImg) (recs : List JRec) : State :=
  let s0 := { s with ftl := { s.ftl with blocks := r.blocks, swaths := r.swaths } }
  (recs.filter (fun x => decide (r.cpSeq < x.seq))).foldl (fun t x => x.entries.foldl (rootEntry x.type) t) s0

/-- VALID of every block counted from the entries in force (R165). -/
def recount (s : State) : State :=
  let s0 := { s with ftl := { s.ftl with blocks := s.ftl.blocks.map (fun e => (e.1, { e.2 with valid := 0 })) } }
  let units := s.ftl.overlay ++ s.ftl.map.filter (fun e => (tabGet s.ftl.overlay e.1).isNone) ++ s.ftl.mapLoc
  units.foldl (fun t e => countValid t e.2 true) s0

/-- The program records of the blocks as their codewords hold them (R136), since a block's journal records give bytes 0 to 7 of its
record alone. -/
def restorePrograms (s : State) : State :=
  s.ftl.flash.foldl (fun t e =>
    let k := e.1 / 32768
    if (tabGet t.ftl.blocks k).isSome && (t.ftl.swaths.any (fun w => w.members.contains (keyDie k, keyBlock k))) && e.2.white == pageSeed e.1
        && (blockAt t k).progTime == 0 && !(isParity t k e.1) then
      updBlock t k (fun b => { b with
        profile := e.2.profile, progTime := e.2.progTime, progTemp := signedOf 8 e.2.progTemp })
    else t) s
where
  /-- Whether a place lies on a parity page, whose metadata is the XOR of others. -/
  isParity (s : State) (k key : Nat) : Bool :=
    match swathOf s (keyDie k) (keyBlock k) with
    | some w => w.members[key / 4 % 8192 % 32]? == some (keyDie k, keyBlock k)
    | none => true

/-- The stripes of each swath that hold anything: behind the last page of its members that does (R195). -/
def recountStripes (s : State) : State :=
  let used (w : Swath) : Nat := s.ftl.flash.foldl (fun m e =>
    if w.members.contains (keyDie (e.1 / 32768), keyBlock (e.1 / 32768)) then Nat.max m (e.1 / 4 % 8192 + 1) else m) 0
  { s with ftl := { s.ftl with swaths := s.ftl.swaths.map (fun w => { w with next := used w }) } }

/-- The directory pages that a leaf record in the live journal has changed are dirty (R212). -/
def dirtyDirs (s : State) : State :=
  (s.etch.live.filter (fun r => r.type == 6)).foldl (fun t r => r.entries.foldl (fun u e =>
    let p := jPage e.key
    if isLeafPage p && decide (cpBoth s < r.seq) then markDirty u (dirPage p) r.seq else u) t) s

/-! ### Families at the first start (R614, R171) -/

/-- The good blocks of a die that the device uses, rising, without its anchor blocks (R158, R221). -/
def goodBlocks (s : State) (die : Nat) : List Nat :=
  let p := (dieAt s die).params
  (List.range (Nat.min 16384 p.blocks)).filter (fun b => !p.badBlocks.contains b && !(anchorBlocks s die).contains b)

/-- The block records of a die that it does not have yet. At the first start its good blocks are free; later, on a die newly accepted,
they are erased before they store data (R100). -/
def assignFamilies (s : State) (die : Nat) : State :=
  let p := (dieAt s die).params
  let good := goodBlocks s die
  let n3 := ceilDiv good.length 100
  let mx := within 5 200 (regFld s 0xC00008 0 8)
  let n0 := ceilDiv ((good.length - n3) * mx) 1000
  let st := if s.power.firstStart then blkFree else blkClosed
  let fam (i : Nat) : BitVec 2 := if i < n3 then 3 else if i < n3 + n0 then 0 else heathFamily s die
  let new (t : State) (b : Nat) (g : BlockRec → BlockRec) : State :=
    if (tabGet t.ftl.blocks (blockKey die b)).isSome then t else updBlock t (blockKey die b) g
  let s1 := (numbered 0 good).foldl (fun t e => new t e.2 (fun b => { b with st := st, family := fam e.1 })) s
  (p.badBlocks.filter (fun b => decide (b < p.blocks) && decide (b < 16384))).foldl (fun t b =>
    new t b (fun x => { x with st := blkFactoryBad })) s1

/-- The active dies. -/
def activeDies (s : State) : List Nat :=
  (s.media.chans.map (fun c => (c.2.dies.filter (fun d => d.2.st == dieActive)).map (fun d => c.1 * 16 + d.1))).foldl (· ++ ·) []

/-- Block records for the blocks of the active dies that have none, and the anchor blocks. -/
def assignNew (s : State) : State := takeAnchors ((activeDies s).foldl assignFamilies s)

/-- The exported capacity E and the spare at the first start (R171, R183). -/
def fixCapacity (s : State) : State :=
  let pages := (activeDies s).foldl (fun a d => a + (goodBlocks s d).length * usedPages s d) 0
  let s1 := { s with ftl := { s.ftl with exported := pages * 16384 * 31 / 32 * 7 / 8 / 2 ^ 30 * 2 ^ 30 } }
  { s1 with ftl := { s1.ftl with spareFirst := spareBytes s1 } }

/-! ### Lost positions (R97, R102, R113, R185) -/

/-- The data of a lost die or channel is rebuilt, unless its rebuild is under way or waits. -/
def rebuildLost (s : State) (chan : Nat) (die : Option Nat) : State :=
  if hurtStripes s chan die = 0 then s
  else
    let s1 := ((hurtSwaths s chan die).map (·.id)).foldl closeSwath s
    let known := (match s1.ftl.rebuild with
        | some r => r.active && r.chan == chan && r.die == die
        | none => false) || s1.ftl.rebuilds.contains (chan, die)
    if known then s1 else startRebuild (wantFaultEvent s1) chan die

/-- Every position whose data a start finds lost: channels fenced, strangers and collisions. -/
def rebuildAll (s : State) : State :=
  s.media.chans.foldl (fun t c =>
    if c.2.st = chanFenced then rebuildLost t c.1 none
    else
      (c.2.dies.filter (fun d => d.2.st == dieStranger || d.2.st == dieCollision)).foldl (fun u d => rebuildLost u c.1 (some d.1)) t) s

/-- The free blocks of dies that were not active when the settings were last written and are now: each is erased before it stores
data (R100, R115). A closed block without data is erased so. -/
def eraseReturned (s : State) : State :=
  let back := s.media.away.filter (fun d => (dieAt s d).st == dieActive)
  let s1 := (s.ftl.blocks.filter (fun e => e.2.st == blkFree && back.contains (keyDie e.1))).foldl
    (fun t e => setBlock t (keyDie e.1) (keyBlock e.1) 2 (fun b => { b with st := blkClosed })) s
  { s1 with media := { s1.media with away := s1.media.away.filter (fun d => !back.contains d) } }

/-- The functions to which a Deferred Write Error is due again after a start (R262). -/
def dueAgain (s : State) : List (Nat × Nat × Nat) :=
  let nss := setOfNats (s.etch.deferred.map (·.nsid))
  (nss.map (fun n => ((tabGet s.ftl.namespaces n).map (fun x => x.attach.map (fun f => (f, n, 0)))).getD [])).foldl (· ++ ·) []

/-- The migration of every failing block asked for again: the Gleaner's requests do not outlast a start (R174, R196). -/
def askMigrations (s : State) : State :=
  (s.ftl.blocks.filter (fun e => e.2.st == blkFailing)).foldl (fun t e =>
    addWork t { prio := 2, die := keyDie e.1, block := keyBlock e.1, whole := false }) s

/-- The root as the first start has made it, written at once into root image A, so that a cut does not lose the families (R197; DEDUCED,
log 136). -/
def firstRoot (s : State) : State :=
  if s.power.firstStart then
    { s with etch := { s.etch with rootA := { checkpointNow s with seq := (rootImages s).1.seq + 1 }, rootActive := false } }
  else s

/-- What stage 6 does once the root is loaded. -/
def settleRoot (s : State) : State :=
  let s1 := assignNew (dirtyDirs (recountStripes (restorePrograms (recount s))))
  let s2 := if s.power.firstStart then fixCapacity s1 else s1
  let next := s2.ftl.swaths.foldl (fun m w => Nat.max m (w.id + 1)) 0
  let s3 := { s2 with
    ftl := { s2.ftl with nextSwath := next % 2 ^ 20, resident := [], since := [] }
    etch := { s2.etch with deliveries := dueAgain s2 } }
  let s4 := askMigrations (eraseReturned (((s3.ftl.swaths.filter (·.opened)).map (·.id)).foldl closeSwath s3))
  firstRoot (noteShort (settleSpare (settleRebuild (rebuildAll s4))))

/-- Stage 6: the root image with the higher SEQ, or the other with ROOT_FALLBACK; with neither, the root is rebuilt from the
journal mirror behind the checkpoint mirror that the anchor records lead to (R221, R229). -/
def stageRoot (s : State) (aOk bOk : Bool) (badAnchors badMirrors : List Nat) : State :=
  let a := (rootImages s).1
  let b := (rootImages s).2
  let aGood := a.ok && aOk
  let bGood := b.ok && bOk
  let aFirst := decide (b.seq ≤ a.seq)
  let fell := if aFirst then !aGood && bGood else !bGood && aGood
  if aGood || bGood then
    let useA := aGood && (aFirst || !bGood)
    let s1 := raiseIf fell (loadRoot s (if useA then a else b) s.etch.live) evEtb 5
    settleRoot { s1 with etch := { s1.etch with rootActive := !useA } }
  else
    let r := (namedRoot s badAnchors badMirrors).getD {}
    let copied := ((s.etch.mirrorLog.filter (fun l => !badMirrors.contains ((l.words.head?).getD 0))).map (·.recs)).flatten
    let top := copied.foldl (fun m r => Nat.max m r.seq) 0
    let recs := copied ++ s.etch.live.filter (fun r => decide (top < r.seq))
    settleRoot (loadRoot (replayOver s r recs) r recs)

/-! ### Stage 7 and START_STAGE_END -/

/-- Stage 7: the controllers are initialised; the device is ready unless it is in the settings-recovery state (R40, R45). -/
def stageInit (s : State) : State :=
  let t := tabAt 0 s.host.features (savedKey 0 0x10)
  startWindows <| recordHeld { s with
    therm := { s.therm with tmt1 := fld t 16 16, tmt2 := fld t 0 16 }
    power := { s.power with stage := none, started := true, ready := !s.power.settingsRecovery, firstStart := false }
    ftl := { s.ftl with meadowTarget := meadowTargetNow s, meadowShare := meadowShareNow s }
    host := { s.host with ctrls := s.host.ctrls.map (fun e => (e.1, { e.2 with rdy := e.2.en })) } }

/-- The stage that a finding ends, when that stage runs: stage 4 may end while stage 3 runs (R228), except in a recovery start, whose
stage 4a reads a mirror through the checkers (R147, R220). -/
def stageOfFinding (s : State) (f : StageFinding) : Option Nat :=
  let k : Nat := match f with
    | .boot _ _ _ _ _ => 0
    | .plls _ => 1
    | .dram _ => 2
    | .checkers _ => 3
    | .media _ _ _ => 4
    | .replay _ => 5
    | .root _ _ _ _ => 6
    | .init => 7
  if s.power.stage = some k ∨ (k = 4 ∧ s.power.stage = some 3 ∧ !s.power.earlyMedia ∧ !s.power.recoveryStart) then some k else none

/-- START_STAGE_END (R228). A finding of a stage that does not run ends nothing. In the settings-recovery state the later stages
load nothing (R45). -/
def execStartStageEnd (tenthsMs : Nat) (f : StageFinding) (s : State) : Out :=
  match stageOfFinding s f with
  | none => .next s
  | some k =>
    let s1 := recordStage s k tenthsMs
    let bare := s1.power.settingsRecovery
    .next <| (fun t => ownReady (if k = 0 then t else readyFrame t k)) <| match f with
      | .boot p q a b t => stageBoot s1 p q a b t
      | .plls m => openCascade (trainLinks (toStage s1 2)) m
      | .dram l => stageDram s1 l
      | .checkers l => stageCheckers s1 l
      | .media l a m =>
        let s2 := if bare then s1 else stageMedia s1 l a m
        if s.power.stage = some 3 then { s2 with power := { s2.power with earlyMedia := true } } else toStage s2 5
      | .replay b => toStage (if bare then s1 else stageReplay s1 b) 6
      | .root a b x y => toStage (if bare then s1 else stageRoot s1 a b x y) 7
      | .init => stageInit s1

end Sys2Proof.Machine
end

