-- ==== Sys2Proof/Machine/Power.lean ====
section
/-! DEFINITION. Time, pins, supplies, device resets and power states (R16 to R21, R39, R86, R222 to R225, R239 to R241, R266 to
R269, R274, R594 to R600). -/

namespace Sys2Proof.Machine

/-! ### Time -/

/-- REFCLK_SYS_LOSS (R17). -/
def execRefclkSysLoss (present : Bool) (s : State) : Out := .next { s with time := { s.time with refclk := present } }

/-- How far a corrected copy stands from the master value: within ±2 ticks (R18). -/
def copyError (s : State) (sample : Qword) : Int := Max.max (-2) (Min.min 2 ((sample.toNat : Int) - (now s : Int)))

/-- ISLAND_TIME_CORRECTION (R18): the island's copy takes the sample of the master value, compensated for its crossing. -/
def execIslandTimeCorrection (island : Nat) (sample : Qword) (s : State) : Out :=
  if island < 178 ∧ clockRuns s island then
    .next { s with time := { s.time with copyOff := tabSet 0 s.time.copyOff island (copyError s sample) } }
  else .next s

/-- The counter corrected toward a reference that is `off` ticks behind it (R21): the first alignment may step forward; every
other correction is a slew. -/
def alignTime (s : State) (off : Int) : State :=
  let t := s.time
  if !t.aligned && decide (off < 0) then
    let s1 := stepTime s (now s + off.natAbs)
    { s1 with time := { s1.time with aligned := true, stepped := true, slew := 0 } }
  else { s with time := { t with aligned := true, slew := -off } }

/-- HIF_PTM_CFG: the period in ticks within its bounds, and ALIGN_EN. -/
def ptmPeriod (s : State) : Nat := within 10 10000 (regFld s 0x1000020 0 16) * msTicks
def ptmAligns (s : State) : Bool := regFld s 0x1000020 16 1 = 1

/-- PTM_EXCHANGE (R274): every PERIOD_MS. -/
def execPtmExchange (hostTime : Qword) (s : State) : Out :=
  if !s.power.pwrOk || !isDue s s.time.ptmAt (ptmPeriod s) then .next s
  else
    let off : Int := (now s : Int) - (hostTime.toNat : Int)
    let s1 := if ptmAligns s then alignTime s off else s
    let s2 := raiseIf (s1.time.stepped && !s.time.stepped) s1 evHif 3
    .next { s2 with time := { s2.time with ptmValid := true, ptmOffset := off, ptmAt := now s2 } }

/-- PTM_LOST (R274). -/
def execPtmLost (s : State) : Out :=
  let since := Nat.max s.time.ptmAt s.power.startAt
  if s.power.pwrOk && decide (since + 10 * ptmPeriod s ≤ now s) then
    .next (raise { s with time := { s.time with ptmValid := false } } evHif 4)
  else .next s

/-- AON_TIMEBASE_LOSS (R20): while the other rails are off, the counter is lost, with what the always-on island kept. -/
def execAonTimebaseLoss (s : State) : Out :=
  if s.power.pwrOk then .next s
  else
    .next { takeFree s with
      time := { s.time with aonLost := true, master := freeNow s, frac := 0 }, therm := { s.therm with held := [] } }

/-- VAON_RAMP (R595). -/
def execVaonRamp (s : State) : Out := .next { s with power := { s.power with aonOk := true } }

/-! ### Pins and device resets -/

/-- PWR_OK_RISE (R39, R564, R594, R596): CAS_ROLE and the level of VIO are taken. -/
def execPwrOkRise (pins : SampledPins) (s : State) : Out :=
  if s.power.pwrOk then .next s
  else .next (beginStart { s with power := { s.power with casRole := pins.casRole, vioHigh := pins.vioHigh } } 0)

/-- PWR_OK_FALL (R225, R597): a pulse shorter than 1 µs is ignored, one of 10 µs or more resets the device, and one between the
two has one of these effects. -/
def execPwrOkFall (lowNs : Nat) (s : State) : Out :=
  if !s.power.pwrOk || lowNs < 1000 then .next s
  else if 10000 ≤ lowNs then .next (coldState s)
  else if Config.pulseResets s.freeCount then .next (coldState (takeFree s))
  else .next (takeFree s)

/-- CONTROLLER_RESET (R86): GLB_RESET_CTL has committed KIND 1h, which returns to 0h. -/
def execControllerReset (s : State) : Out :=
  if regFld s 0x40 0 4 = 1 then .next (resetControllers (setReg s 0x40 0)) else .next s

/-- DEVICE_RESET (R86): GLB_RESET_CTL has committed KIND 2h. -/
def execDeviceReset (s : State) : Out :=
  if regFld s 0x40 0 4 = 2 then .next (resetDevice s 2) else .next s

/-- NVM_SUBSYSTEM_RESET (R241). -/
def execNvmSubsystemReset (s : State) : Out := .next (resetControllers s)

/-- KEEPER_WATCHDOG (GLB_RESET_CAUSE). -/
def execKeeperWatchdog (s : State) : Out :=
  if s.power.pwrOk && !s.power.shutdown then .next (resetDevice s 4) else .next s

/-- PERST_N_ASSERT (R239): every port is reset and its link goes down. -/
def execPerstNAssert (s : State) : Out :=
  if !s.power.perstN then .next s
  else
    let up := s.host.ports.any (fun p => p.2.speed ≠ 0)
    let s1 := (List.range (portCount s)).foldl (fun t p => dropLink (resetPort t p) p) s
    .next (raiseIf up { s1 with power := { s1.power with perstN := false } } evHif 5)

/-- PERST_N_DEASSERT (R39, R240): the links may train; a deassertion later than 100 ms after the start moves the deadline. -/
def execPerstNDeassert (s : State) : Out :=
  if s.power.perstN then .next s
  else
    let late := s.power.pwrOk && !s.power.ready && decide (s.power.startAt + 100 * msTicks < now s)
    let p := { s.power with
      perstN := true, wakeN := false, cause := if s.power.started then 1 else s.power.cause
      readyDeadline := if late then Nat.max s.power.readyDeadline (now s + 100 * msTicks) else s.power.readyDeadline }
    .next (trainLinks { s with power := p })

/-! ### The Etch fence (R222 to R225) -/

/-- Whether media bring-up has ended and the media are powered. -/
def mediaUp (s : State) : Bool :=
  s.power.mediaPwrEn && s.power.pstate ≠ 4 && !s.power.settingsRecovery && !s.power.bringUp
    && (s.power.started || s.power.earlyMedia || decide (5 ≤ s.power.stage.getD 0))

/-- HOLD_MS in ticks. -/
def fenceHold (s : State) : Nat := within 1 200 (regFld s 0xE00010 0 8) * msTicks

/-- ETCH_FENCE_RAISE: a dip while the fence is up begins the hold again (R222). Otherwise WPGg_N go low, no Etch write starts, writes not committed will start again; a start is abandoned. -/
def execEtchFenceRaise (rails : BitVec 6) (s : State) : Out :=
  if !s.power.pwrOk || s.power.shutdown then .next s
  else if s.power.fence then .next { s with power := { s.power with fenceAt := now s } }
  else
    let starting := s.power.stage.isSome
    let p := { s.power with
      fence := true, fenceAt := now s, fenceRails := rails, fenceCount := Nat.min 65535 (s.power.fenceCount + 1), wpg := 0
      stage := none, earlyMedia := false, abandoned := s.power.abandoned || starting }
    .next (sendAlarm s (restartWrites (stopPrograms (raise { s with power := p } evEtb 0))) 2)

/-- Whether stage 0 of this start has ended: the settings are in force, or they are known to be lost. -/
def bootEnded (s : State) : Bool := s.power.settingsIn || s.power.recoveryStart || s.power.settingsRecovery

/-- The time for readiness of a start begun again, in ms: 1,000 and the excess of every condition of R41 that stage 0 has found and
that holds still; the later stages find theirs again (R42; DEDUCED, log 137). -/
def againWithin (s : State) : Nat :=
  1000 + (if !bootEnded s then 0 else
    (if s.power.firstStart then 4000 else if s.power.recoveryStart then 4500 else 0)
      + (if s.power.newImage then 500 else 0) + (if s.power.bootImage then 40 else 0))

/-- ETCH_FENCE_LOWER: HOLD_MS after the latest dip (R222), commands that were fetched and not committed continue. An abandoned start begins again from stage 1 (R225); where
the fence rose in stage 0 there are no settings yet, and it begins from stage 0, since no start goes on without them (R43, R45;
DEDUCED, log 137). -/
def execEtchFenceLower (s : State) : Out :=
  if !s.power.fence || !s.power.pwrOk || s.power.shutdown || !elapsed s s.power.fenceAt (fenceHold s) then .next s
  else
    let again := s.power.abandoned && s.cas.roleCode ≠ 3
    let p := { s.power with
      fence := false, wpg := if mediaUp s && !again then 0xFF else s.power.wpg, abandoned := false
      stage := if again then some (if bootEnded s then 1 else 0) else s.power.stage
      startAt := if again then now s else s.power.startAt
      readyDeadline := if again then now s + againWithin s * msTicks else s.power.readyDeadline }
    .next (resumeJobs (resumeCmds (raise { s with power := p } evEtb 1)))

/-! ### Power states (R15, R266 to R269, R539, R540, R600) -/

/-- Whether a job still runs on a lane or a Sward island that a state stops, or a transaction on a channel that it slows
down (R268). -/
def jobsWait (s : State) (t : Nat) : Bool :=
  let keep := (usableUnits s .lane 0).take (lanesPowered t)
  s.lanes.lanes.any (fun e => e.2.piece.isSome && !keep.contains e.1)
    || s.chn.jobs.any (fun e => match e.2.im with | some m => decide (swardCount t ≤ m.island) | none => false)
    || s.media.chans.any (fun e => (e.2.holder.isSome || e.2.st == chanRetraining)
      && (decide (powerRate t < e.2.rate.toNat) || decide (3 ≤ t)))

/-- A DRAM channel on its way into self-refresh: its requests are done, and its check line is written. -/
def selfRefresh (s : State) (ch : Nat) : State :=
  { s with drc := { s.drc with
      chans := tabUpd {} s.drc.chans ch (fun c => if c.st = 2 then { c with st := 3, checkLine := now s } else c)
      arbs := tabUpd {} s.drc.arbs ch (fun a => { a with waiting := [], atPort := [], grants := [], suspended := false }) } }

/-- The Tabfer links that were up go down in PS3 and PS4 (R584). -/
def sleepLinks (s : State) : State :=
  { s with cas := { s.cas with links := s.cas.links.map (fun e => (e.1, if e.2.st = 2 then { e.2 with st := 4, asleep := true } else e.2)) } }

/-- A state in force: the rate steps, and from PS3 the DRAM in self-refresh; in PS4 the media lose their power. -/
def enterState (s : State) (t : Nat) : State :=
  let s1 := { s with power := { s.power with
      pstate := t, changing := false, lastOp := if t < 3 then t else s.power.lastOp } }
  let s2 := (tabKeys chanServes s1.media.chans).foldl changeRate s1
  let s3 := settleClocks s (if 3 ≤ t then sleepLinks ((List.range 8).foldl selfRefresh s2) else s2)
  if t = 4 then
    gapWindows { s3 with
      power := { s3.power with wpg := 0, mediaPwrEn := false, tested := false }
      media := { s3.media with chans := s3.media.chans.map (fun e =>
        (e.1, if e.2.st = chanFenced then e.2 else { e.2 with st := chanOff, reqs := [], holder := none, hold := none })) } }
  else s3

/-- POWER_STATE_ENTRY (R268). Entry to PS3 or PS4 waits until no I/O command is in execution. -/
def execPowerStateEntry (s : State) : Out :=
  let t := s.power.ptarget
  let waits := jobsWait s t || (decide (3 ≤ t) && s.host.exec.any (·.isIo))
  if s.power.changing && !waits then .next (enterState s t) else .next s

/-- A DRAM channel that leaves self-refresh. -/
def leaveRefresh (s : State) : State :=
  { s with drc := { s.drc with chans := s.drc.chans.map (fun e => (e.1, if e.2.st = 3 then { e.2 with st := 2 } else e.2)) } }

/-- The Tabfer links that were up retrain (R584). -/
def retrainLinks (s : State) : State :=
  { s with cas := { s.cas with links := s.cas.links.map (fun e => (e.1, if e.2.asleep then { e.2 with st := 3, asleep := false } else e.2)) } }

/-- The scrubbers after PS4, as at a start: the DRAM pass begins at line 0, and the flash pass at the position saved (R153). -/
def resumePatrol (s : State) : State :=
  { s with pcs := { s.pcs with patrol := s.pcs.patrolSaved, dramPos := 0, dramAt := 0 } }

/-- The exit from PS3 or PS4 (R269, R540, R600): the most recent operational state is in force again, the DRAM leaves
self-refresh; a check line that differs sets SR_LOST and resets the device. An exit from PS4 tests the checkers (R147). -/
def exitState (s : State) (badLines : List Nat) (checks : List CheckerRun) : State :=
  if s.power.pstate < 3 then s
  else
    let bad := badLines.any (fun c => (tabAt {} s.drc.chans c).st = 3)
    let four := s.power.pstate = 4
    let p := { s.power with
      pstate := s.power.lastOp, changing := false
      mediaPwrEn := true, bringUp := four || s.power.bringUp, mediaAt := if four then now s else s.power.mediaAt }
    let s1 := settleClocks s (leaveRefresh { s with power := p })
    let s2 := (tabKeys chanServes s1.media.chans).foldl changeRate s1
    let s3 := retrainLinks (if four then testCheckers (resumePatrol (resumeWindows s2)) checks else s2)
    if bad then raise (resetDevice s3 2) evDrc 4 else s3

/-- PS4_EXIT_MEDIA_BRING_UP (R600, R115): 5 ms after MEDIA_PWR_EN rose, bring-up from step 2, and on a fenced channel from step 1. R105 says what a start does
about stored training that does not verify, and R600 says nothing of an exit: here an exit does the same, with an entry of
KIND 20h, and for two channels or more full training and 500 ms more to readiness (DESIGN CHOICE, log 122). -/
def execPs4ExitMediaBringUp (chans : List ChanFinding) (s : State) : Out :=
  if !s.power.bringUp || !s.power.started || s.power.pstate = 4 || !elapsed s s.power.mediaAt (5 * msTicks) then .next s
  else
    let s0 := { s with media := { s.media with away := setOfNats (s.media.away ++ awayDies s) } }
    let found := chans.foldl (fun t f => discoverFrom ((chanAt s f.chan).st == chanFenced) t f) s0
    let s1 := saveFaults s (trainAll found chans)
    let s2 := settleRebuild (rebuildAll (eraseReturned s1))
    .next { s2 with power := { s2.power with bringUp := false, wpg := if s2.power.fence then 0 else 0xFF } }

end Sys2Proof.Machine
end

