-- ==== Sys2Proof/Machine/HostIf.lean ====
section
/-! DEFINITION. Doorbells, command fetch, and the resets and shutdown of controllers (R239 to R245, R248, R269, R270). -/

namespace Sys2Proof.Machine

/-! ### Doorbells -/

/-- The entries from one position of a circular queue to another. -/
def ringDist (size a b : Nat) : Nat := if size = 0 then 0 else (b % size + size - a % size) % size

/-- A new tail of a submission queue, with the entries that host software has placed there. -/
def ringTail (s : State) (f qid value : Nat) (entries : List SqEntry) : State :=
  match tabGet (ctrlAt s f).sqs qid with
  | some q =>
    if q.size ≤ value then s
    else
      let q1 := { q with entries := q.entries ++ entries.take (ringDist q.size q.tail value), tail := value }
      updCtrl s f (fun k => { k with sqs := tabPut k.sqs qid q1 })
  | none => s

/-- A new head of a completion queue: the entries up to it are free. -/
def ringHead (s : State) (f qid value : Nat) : State :=
  match tabGet (ctrlAt s f).cqs qid with
  | some q =>
    if q.size ≤ value then s
    else
      let q1 := { q with posted := q.posted.drop (ringDist q.size q.head value), head := value }
      updCtrl s f (fun k => { k with cqs := tabPut k.cqs qid q1 })
  | none => s

/-- DOORBELL_WRITE: it also ends PS3 or PS4 (R269). -/
def execDoorbellWrite (fn qid : Nat) (completion : Bool) (value : Nat) (entries : List SqEntry) (badLines : List Nat)
    (checks : List CheckerRun) (s : State) : Out :=
  let s1 := exitState s badLines checks
  .next (if completion then ringHead s1 fn qid value else ringTail s1 fn qid value entries)

/-! ### Fetch (R243, R248) -/

/-- FN_MAX within its bounds, and the commands of a function in execution. -/
def fnMax (s : State) : Nat := within 16 32768 (regFld s 0x1000008 0 16)
def fnExec (s : State) (f : Nat) : Nat := (s.host.exec.filter (fun e => e.cmd.id.fn == f)).length

/-- The I/O commands in execution. -/
def ioExec (s : State) : Nat := (s.host.exec.filter (·.isIo)).length

/-- The next submission queue of a controller that is not empty, in round-robin order. In lifecycle state RETIRED (3h of
GLB_LIFECYCLE) the device serves admin commands alone. -/
def nextSq (s : State) (k : Ctrl) : Option (Nat × Sq) :=
  let full := k.sqs.filter (fun e => !e.2.entries.isEmpty && (e.1 == 0 || s.power.lifecycle != 3))
  match full.find? (fun e => decide (k.lastQ < e.1)) with
  | some e => some e
  | none => full.head?

/-- Whether a turn may take a command from a function. -/
def mayFetch (s : State) (f : Nat) : Bool :=
  let k := ctrlAt s f
  k.rdy && !k.shn && servesTenant s (fnTenant s f) && decide (fnExec s f < fnMax s) &&
    (match nextSq s k with
     | none => false
     | some e => !cqFull s f e.2.cqid && (e.1 = 0 || decide (ioExec s < 32768)))

/-- The function that the next turn serves: the first eligible one after the function served last. -/
def nextTurn (s : State) : Option Nat :=
  let fs := (s.host.ctrls.map (·.1)).filter (mayFetch s)
  match fs.find? (fun f => decide (s.host.lastFn < f)) with
  | some f => some f
  | none => fs.head?

/-- The admin and the I/O opcodes that the device supports (R248, R249, R288). -/
def adminOpcodes : List Nat :=
  [0x00, 0x01, 0x02, 0x04, 0x05, 0x06, 0x08, 0x09, 0x0A, 0x0C, 0x0D, 0x10, 0x11, 0x15, 0x1C, 0x80, 0x84,
    0xC1, 0xC2, 0xC4, 0xC5, 0xC6, 0xC8]
def ioOpcodes : List Nat :=
  [0x00, 0x01, 0x02, 0x05, 0x08, 0x09, 0x0C, 0x0D, 0x0E, 0x11, 0x15, 0x81, 0x85, 0x89, 0x8D]

/-- The command of a queue entry, as far as the fetch has it. -/
def entryCmd (f qid : Nat) (e : SqEntry) : NvCmd :=
  { id := { fn := f, qid := qid, cid := e.cid }, nsid := e.nsid, c2 := 0, c3 := 0, c10 := 0, c11 := 0, c12 := 0, c13 := 0,
    c14 := 0, c15 := 0, ptr := .prp, data := [], memOk := true }

/-- One command fetched from a queue: it is in execution; an opcode that is not supported completes with Invalid Command Opcode,
in the settings-recovery state with Namespace Not Ready (R45). A clean-shutdown record is withdrawn (R270). -/
def fetchOne (s : State) (f qid : Nat) (e : SqEntry) : State :=
  let c := entryCmd f qid e
  let io := qid ≠ 0
  let s1 := updCtrl s f (fun k => { k with
    sqs := match tabGet k.sqs qid with
      | some q => tabPut k.sqs qid { q with entries := q.entries.drop 1 }
      | none => k.sqs
    lastQ := qid, cmds := k.cmds + 1 })
  let s2 := intake { s1 with power := { s1.power with cleanRecord := false }, etch := { s1.etch with shutRoot := false } } c e.opcode.toNat io
  let s3 := raiseIf (decide (fnMax s ≤ fnExec s2 f)) s2 evHif 2
  if (if io then ioOpcodes else adminOpcodes).contains e.opcode.toNat then s3 else failCmd s3 c.id (if s3.power.settingsRecovery then stNotReady else stInvalidOpcode)

/-- A turn of at most `n` commands of a function. -/
def fetchTurn (f : Nat) : Nat → State → State
  | 0, s => s
  | n + 1, s =>
    if !mayFetch s f then s
    else
      match nextSq s (ctrlAt s f) with
      | none => s
      | some q =>
        match q.2.entries with
        | [] => s
        | e :: _ => fetchTurn f n (fetchOne s f q.1 e)

/-- The Arbitration Burst of a function's controller: 2 to the power AB, or no limit for 111b. -/
def arbBurst (s : State) (f : Nat) : Nat :=
  let ab := fld (featureAt s f 0x01 0) 0 3
  if ab = 7 then 32768 else 2 ^ ab

/-- COMMAND_FETCH: a turn of the next eligible function. While the Etch fence is raised nothing is fetched (R223). -/
def execCommandFetch (fn : Nat) (s : State) : Out :=
  if !s.power.started || s.power.fence || decide (3 ≤ s.power.pstate) || nextTurn s ≠ some fn then .next s
  else .next (fetchTurn fn (arbBurst s fn) { s with host := { s.host with lastFn := fn } })

/-! ### Controllers enabled, reset and shut down -/

/-- Whether a function has a controller that may be enabled: a physical function, or a secondary controller that is online. -/
def mayEnable (s : State) (f : Nat) : Bool := isPhysical s f || (ctrlAt s f).online

/-- CC_EN_SET (R40): the admin queues exist (their size log 51); CSTS.RDY is set once the device is ready. -/
def execCcEnSet (fn : Nat) (s : State) : Out :=
  if (ctrlAt s fn).en || !mayEnable s fn || s.power.noImage || !s.power.pwrOk || decide (portCount s ≤ fnPort s fn) then .next s
  else
    .next (updCtrl s fn (fun k => { k with
      en := true, rdy := s.power.started
      sqs := tabPut k.sqs 0 { size := 4096, cqid := 0, entries := [], tail := 0 }
      cqs := tabPut k.cqs 0 { size := 4096, head := 0, vector := 0, ien := true, posted := [] } }))

/-- CC_EN_CLEAR (R239): that controller alone is reset. -/
def execCcEnClear (fn : Nat) (s : State) : Out :=
  if (ctrlAt s fn).en then .next (resetFns s (fun f => f == fn)) else .next s

/-- SHUTDOWN_REQUEST (R270). -/
def execShutdownRequest (fn : Nat) (s : State) : Out :=
  let k := ctrlAt s fn
  if k.en && !k.shn then .next (updCtrl s fn (fun k => { k with shn := true, shst := 1 })) else .next s

/-- The root checkpoint of the last controller that shuts down, whatever CP_MS is. With an Etch die lost its mirror in flash is
programmed first (R227), and the shutdown waits for it. -/
def shutdownRoot (s : State) : State :=
  if !canRecord s then s
  else if s.etch.lost0 || s.etch.lost1 then
    if s.etch.cpOpen.isSome then s
    else
      match placeRoot s (checkpointNow s) with
      | some (t, m) => { t with etch := { t.etch with cpOpen := some m.img, cpMirror := some m, cpAt := now s, shutRoot := true } }
      | none => s
  else
    let s1 := updRoot s (targetB s) (fun _ => checkpointNow s)
    discardRecs { s1 with etch := { s1.etch with rootActive := targetB s, cpOpen := none, cpAt := now s, shutRoot := true } }

/-- Whether the shutdown of the last controller has its checkpoint and may record it. Where no record can be written any more none is
(R45, R613); while the fence is raised the shutdown waits. -/
def rootDone (s : State) : Bool :=
  etchGone s || s.power.settingsRecovery || (s.etch.shutRoot && s.etch.cpOpen.isNone && !s.power.fence)

/-- The clean-shutdown record. -/
def cleanShutdown (s : State) : State :=
  if canRecord s then { s with power := { s.power with cleanRecord := true }, etch := { s.etch with shutRoot := false } } else s

/-- SHUTDOWN_COMPLETE (R270): the controller's commands have finished. -/
def execShutdownComplete (fn : Nat) (s : State) : Out :=
  let k := ctrlAt s fn
  let left := s.host.exec.any (fun e => e.cmd.id.fn == fn && !k.aers.contains e.cmd.id)
  if !k.shn || k.shst ≠ 1 || left then .next s
  else
    let last := s.host.ctrls.all (fun e => e.1 == fn || !e.2.en || e.2.shst == 2)
    let s1 := if last && !rootDone s then shutdownRoot s else s
    if last && !rootDone s1 then .next s1
    else .next (updCtrl (if last then cleanShutdown s1 else s1) fn (fun k => { k with shst := 2 }))

/-- FUNCTION_LEVEL_RESET (R239). -/
def execFunctionLevelReset (fn : Nat) (s : State) : Out :=
  let s1 := if isPhysical s fn then resetPort s (fnPort s fn) else resetFns s (fun f => f == fn)
  .next (raise s1 evHif 6)

/-- PCIE_HOT_RESET (R239): a hot reset or a link-down; the link then trains again (log 48). -/
def execPcieHotReset (port : Nat) (s : State) : Out :=
  if portCount s ≤ port then .next s
  else
    let s1 := raise (dropLink (resetPort s port) port) evHif 5
    .next (if s.power.perstN && s.power.started && s.power.casRole then trainLink s1 port else s1)

end Sys2Proof.Machine
end

