-- ==== Sys2Proof/Machine/Queues.lean ====
section
/-! DEFINITION. The admin commands of queues: creation and deletion, Abort, Asynchronous Event Request (R242, R248, R260,
R261). -/

namespace Sys2Proof.Machine

/-! ### Queues (R242) -/

/-- Queue pairs that a controller holds: 128 of a physical function, the assigned ones of a virtual function. -/
def queuePairs (s : State) (f : Nat) : Nat := if isPhysical s f then 128 else (ctrlAt s f).flexQ

/-- Interrupt vectors of a controller (R238, R242). -/
def vectorsOf (s : State) (f : Nat) : Nat := if isPhysical s f then 64 else Nat.min 64 (ctrlAt s f).flexI

/-- Queues allocated by feature 07h: submission and completion queues. -/
def sqsAllowed (s : State) (f : Nat) : Nat := Nat.min (queuePairs s f) (fld (featureAt s f 0x07 0xFFFFFFFF) 0 16 + 1)
def cqsAllowed (s : State) (f : Nat) : Nat := Nat.min (queuePairs s f) (fld (featureAt s f 0x07 0xFFFFFFFF) 16 16 + 1)

/-- CREATE_IO_SQ. -/
def execCreateIoSq (c : NvCmd) (s : State) : Out :=
  let f := c.id.fn
  let qid := fld c.c10 0 16
  let size := fld c.c10 16 16 + 1
  let cqid := fld c.c11 16 16
  let checks (t : State) : Option Status :=
    firstBad
      [ adminChecks t c ([(c.nsid, 0xFFFFFFFF), (c.c11, 0xFFF8)] ++ c12on c ++ c23 c),
        badIf (qid = 0 ∨ sqsAllowed t f < qid ∨ (tabGet (ctrlAt t f).sqs qid).isSome) stInvalidQid,
        badIf (size < 2 ∨ 4096 < size) stInvalidQsize,
        badIf (cqid = 0 ∨ (tabGet (ctrlAt t f).cqs cqid).isNone) stCqInvalid, badIf (!bitOf c.c11 0) stInvalidField ]
  .next <| cmdRun s c 0x01 false checks (fun t =>
    complete (updCtrl t f (fun k => { k with
      sqs := tabPut k.sqs qid { size := size, cqid := cqid, entries := [], tail := 0 } })) c.id stSuccess)

/-- CREATE_IO_CQ. -/
def execCreateIoCq (c : NvCmd) (s : State) : Out :=
  let f := c.id.fn
  let qid := fld c.c10 0 16
  let size := fld c.c10 16 16 + 1
  let vec := fld c.c11 16 16
  let checks (t : State) : Option Status :=
    firstBad
      [ adminChecks t c ([(c.nsid, 0xFFFFFFFF), (c.c11, 0xFFFC)] ++ c12on c ++ c23 c),
        badIf (qid = 0 ∨ cqsAllowed t f < qid ∨ (tabGet (ctrlAt t f).cqs qid).isSome) stInvalidQid,
        badIf (size < 2 ∨ 4096 < size) stInvalidQsize, badIf (bitOf c.c11 1 ∧ vectorsOf t f ≤ vec) stInvalidVector,
        badIf (!bitOf c.c11 0) stInvalidField ]
  .next <| cmdRun s c 0x05 false checks (fun t =>
    complete (updCtrl t f (fun k => { k with
      cqs := tabPut k.cqs qid { size := size, head := 0, vector := vec, ien := bitOf c.c11 1, posted := [] } })) c.id stSuccess)

/-- DELETE_IO_SQ: the commands of the queue that are in execution are given up. -/
def execDeleteIoSq (c : NvCmd) (s : State) : Out :=
  let f := c.id.fn
  let qid := fld c.c10 0 16
  let checks (t : State) : Option Status :=
    firstBad
      [ adminChecks t c ([(c.nsid, 0xFFFFFFFF), (c.c10, 0xFFFF0000), (c.c11, 0xFFFFFFFF)] ++ c12on c ++ c23 c),
        badIf (qid = 0 ∨ (tabGet (ctrlAt t f).sqs qid).isNone) stInvalidQid ]
  .next <| cmdRun s c 0x00 false checks (fun t =>
    let t1 := dropAll t (fun id => id.fn == f && id.qid == qid)
    let t2 := updCtrl t1 f (fun k => { k with sqs := tabDel k.sqs qid })
    resumeJobs (resumeCmds (complete t2 c.id stSuccess)))

/-- DELETE_IO_CQ: only once no submission queue uses it. -/
def execDeleteIoCq (c : NvCmd) (s : State) : Out :=
  let f := c.id.fn
  let qid := fld c.c10 0 16
  let checks (t : State) : Option Status :=
    firstBad
      [ adminChecks t c ([(c.nsid, 0xFFFFFFFF), (c.c10, 0xFFFF0000), (c.c11, 0xFFFFFFFF)] ++ c12on c ++ c23 c),
        badIf (qid = 0 ∨ (tabGet (ctrlAt t f).cqs qid).isNone) stInvalidQid,
        badIf ((ctrlAt t f).sqs.any (fun e => e.2.cqid == qid)) stQueueDeletion ]
  .next <| cmdRun s c 0x04 false checks (fun t =>
    complete (updCtrl t f (fun k => { k with cqs := tabDel k.cqs qid })) c.id stSuccess)

/-! ### Abort (R260, R261) -/

/-- A target taken out of execution with no effect, and completed with Command Abort Requested. -/
def abortTarget (s : State) (e : ExecCmd) : State :=
  let id := e.cmd.id
  let s1 := match e.job.bind (fun j => (tabGet s.chn.jobs j).map (fun b => (j, b))) with
    | some (j, b) => removeJob (releaseHolds (clearEngine s j b) b.blocks b.slots) j b
    | none => dropWrites (releaseHolds s e.blocks e.slots) (fun i => i == id)
  let s2 := updCtrl s1 id.fn (fun k => { k with aers := k.aers.filter (· ≠ id) })
  failCmd (updCmd s2 id (fun x => { x with blocks := [], slots := [], job := none })) id stAbortRequested

/-- A command still in its submission queue fetched and completed. -/
def abortQueued (s : State) (f sqid : Nat) (e : SqEntry) : State :=
  let c := entryCmd f sqid e
  let s1 := updCtrl s f (fun k => { k with
    sqs := match tabGet k.sqs sqid with
      | some q => tabPut k.sqs sqid { q with entries := q.entries.erase e }
      | none => k.sqs })
  failCmd (intake s1 c e.opcode.toNat (sqid ≠ 0)) c.id stAbortRequested

/-- ABORT (R260): the decision is taken at this step; the target's completion comes before the Abort's (R261). -/
def execAbort (c : NvCmd) (s : State) : Out :=
  let f := c.id.fn
  let sqid := fld c.c10 0 16
  let cid := fld c.c10 16 16
  let others (t : State) : Nat :=
    (t.host.exec.filter (fun e => e.cmd.id.fn == f && !e.isIo && e.opcode == 0x08 && e.cmd.id ≠ c.id)).length
  let checks (t : State) : Option Status :=
    firstBad
      [ adminChecks t c ([(c.nsid, 0xFFFFFFFF), (c.c11, 0xFFFFFFFF), (c.c12, 0xFFFFFFFF), (c.c13, 0xFFFFFFFF),
          (c.c14, 0xFFFFFFFF), (c.c15, 0xFFFFFFFF)] ++ c23 c),
        badIf (16 ≤ others t) stAbortLimit ]
  .next <| cmdRun s c 0x08 false checks (fun t =>
    let answer (u : State) (kept : Bool) : State := resumeJobs (resumeCmds (completeWith u c.id stSuccess (dwordOf (bitNat kept)) 0 []))
    match findCmd t { fn := f, qid := sqid, cid := cid } with
    | some e => if abortable t e then answer (abortTarget t e) false else answer t true
    | none =>
      match (tabGet (ctrlAt t f).sqs sqid).bind (fun q => q.entries.find? (fun e => e.cid == cid)) with
      | some e => answer (abortQueued t f sqid e) false
      | none => answer t true)

/-! ### Asynchronous Event Request -/

/-- The first event waiting for a function whose type is not masked. -/
def eventFor (s : State) (f : Nat) : Option (Nat × Dword) :=
  s.host.asyncEvents.find? (fun e => e.1 == f && !(ctrlAt s f).masked.contains (fld e.2 0 3))

/-- ASYNC_EVENT_REQUEST: it waits for an event, or takes one that waits. -/
def execAsyncEventRequest (c : NvCmd) (s : State) : Out :=
  let f := c.id.fn
  let checks (t : State) : Option Status :=
    firstBad
      [ adminChecks t c ([(c.nsid, 0xFFFFFFFF), (c.c10, 0xFFFFFFFF), (c.c11, 0xFFFFFFFF)] ++ c12on c ++ c23 c),
        badIf (16 ≤ (ctrlAt t f).aers.length) stAerLimit ]
  .next <| cmdRun s c 0x0C false checks (fun t =>
    match eventFor t f with
    | some e =>
      let t1 := updCtrl t f (fun k => { k with masked := k.masked ++ [fld e.2 0 3] })
      completeWith { t1 with host := { t1.host with asyncEvents := t1.host.asyncEvents.erase e } } c.id stSuccess e.2 0 []
    | none => updCtrl (updCmd t c.id (fun e => { e with phase := .held })) f (fun k => { k with aers := k.aers ++ [c.id] }))

/-- A log page read lets the next events of a type through. -/
def unmaskEvents (s : State) (f ty : Nat) : State :=
  let s1 := updCtrl s f (fun k => { k with masked := k.masked.filter (· ≠ ty) })
  match s1.host.asyncEvents.find? (fun e => e.1 == f && fld e.2 0 3 == ty) with
  | some e =>
    if (ctrlAt s1 f).aers.isEmpty then s1
    else asyncEvent { s1 with host := { s1.host with asyncEvents := s1.host.asyncEvents.erase e } } f e.2
  | none => s1

end Sys2Proof.Machine
end

