-- ==== Sys2Proof/Machine/Features.lean ====
section
/-! DEFINITION. Set Features and Get Features (R99, R100, R235, R250, R266 to R268, R559, R579). -/

namespace Sys2Proof.Machine

/-- The features that the device supports (R250). -/
def featureIds : List Nat := [0x01, 0x02, 0x04, 0x05, 0x06, 0x07, 0x08, 0x09, 0x0A, 0x0B, 0x0E, 0x10, 0x82, 0x83, 0xD0, 0xD1, 0xD2]

/-- The selector that a feature's value is kept under: a threshold, a vector, a namespace. -/
def featSel (c : NvCmd) (fid : Nat) : Nat :=
  if fid = 0x04 then natFld c.c11.toNat 16 6
  else if fid = 0x09 then fld c.c11 0 16
  else if fid = 0x05 ∨ fid = 0x82 ∨ fid = 0x83 then c.nsid.toNat
  else 0

/-- The controller under which a feature's value is saved: the power state and the thermal thresholds are device-wide. -/
def featOwner (f fid : Nat) : Nat := if fid = 0x02 ∨ fid = 0x10 then 0 else f

/-- Defaults (R250, R555, R579): thresholds of 371 K and 233 K, placement Fh, every event enabled; else zero. -/
def featDefault (s : State) (f fid sel : Nat) : Dword :=
  if fid = 0x04 then (if sel / 16 = 1 then 233 else 371)
  else if fid = 0x07 then
    let n := queuePairs s f - 1
    dwordOf (n + n * 65536)
  else if fid = 0x09 then dwordOf sel
  else if fid = 0x0B then 0xFFFFFFFF
  else if fid = 0xD2 then 0xF
  else 0

/-- The reserved bits of CDW11 of a feature. -/
def featReserved (fid : Nat) : Nat :=
  if fid = 0x01 then 0x000000F8
  else if fid = 0x02 then 0xFFFFFF00
  else if fid = 0x04 then 0xFFC00000
  else if fid = 0x05 then 0xFFFE0000
  else if fid = 0x06 then 0xFFFFFFFE
  else if fid = 0x08 then 0xFFFF0000
  else if fid = 0x09 then 0xFFFE0000
  else if fid = 0x0A then 0xFFFFFFFE
  else if fid = 0xD1 then 0xFFFFFFFC
  else if fid = 0xD2 then 0xFFFFFFF0
  else if fid = 0x82 then 0xFFFFFFF1
  else if fid = 0x83 then 0xFFFFFFFE
  else if fid = 0x0E then 0xFFFFFFFF
  else 0

/-- The reserved bits of CDW11 of a Get Features: a threshold's and a vector's selector alone stand there. -/
def getReserved (fid : Nat) : Nat := if fid = 0x04 then 0xFFC00000 else if fid = 0x09 then 0xFFFE0000 else 0xFFFFFFFF

/-! ### The accepted-die list (R99, R100) -/

/-- A type of the list as its 40 bytes, and back. -/
def dieTypeBytes (t : DieType) : List Byte := leBytes t.ident.toNat 8 ++ leBytes t.digest.toNat 32
def typeAt (d : List Byte) (k : Nat) : DieType :=
  { ident := BitVec.ofNat 64 (leAt d (4 + 40 * k) 8), digest := BitVec.ofNat 256 (leAt d (12 + 40 * k) 32) }

/-- The list of a data buffer, and the buffer of a list. -/
def typesOf (d : List Byte) : List DieType := (List.range (leAt d 0 1)).map (typeAt d)
def typesBuffer (l : List DieType) : List Byte :=
  padTo 1024 (leBytes l.length 1 ++ zeros 3 ++ (l.map dieTypeBytes).foldl (· ++ ·) [])

/-- Whether a buffer may become the list: at most 16 types, reserved bytes zero, no active die's type left out. -/
def typesOk (s : State) (d : List Byte) : Bool :=
  let n := leAt d 0 1
  let held := (s.media.chans.map (fun c => (c.2.dies.filter (fun x => x.2.st == dieActive)).filterMap (·.2.dtype))).foldl (· ++ ·) []
  decide (n ≤ 16) && leAt d 1 3 == 0 && leAt d 644 380 == 0 && held.all (fun t => (typesOf d).contains t)

/-! ### SET_FEATURES -/

/-- The check that a feature's own rules make. -/
def featCheck (s : State) (c : NvCmd) (fid : Nat) (save : Bool) : Option Status :=
  let f := c.id.fn
  let v := c.c11
  let pf := isPhysical s f
  if !featureIds.contains fid then some stInvalidField
  else if fid = 0xD2 ∧ save then some stNotSaveable
  else if v.toNat &&& featReserved fid ≠ 0 then some stInvalidField
  else
    firstBad
      [ badIf (fid = 0x02 ∧ (!pf ∨ 4 < fld v 0 5 ∨ fld v 5 3 ≠ 0)) stInvalidField,
        badIf (fid = 0x04 ∧ (1 < fld v 20 2 ∨ (1 < fld v 16 4 ∧ fld v 16 4 ≠ 0xF))) stInvalidField,
        badIf (fid = 0x05 ∧ bitOf v 16) stInvalidField, badIf (fid = 0x06 ∧ bitOf v 0) stInvalidField,
        badIf (fid = 0x07 ∧ (fld v 0 16 = 0xFFFF ∨ fld v 16 16 = 0xFFFF)) stInvalidField,
        badIf (fid = 0x07 ∧ ((ctrlAt s f).sqs.any (fun e => e.1 ≠ 0) ∨ (ctrlAt s f).cqs.any (fun e => e.1 ≠ 0))) stSequence,
        badIf (fid = 0x09 ∧ vectorsOf s f ≤ fld v 0 16) stInvalidField,
        badIf (fid = 0x10 ∧ (fld v 16 16 ≠ 0 ∧ fld v 0 16 ≠ 0 ∧ fld v 0 16 < fld v 16 16)) stInvalidField,
        badIf ((fid = 0x82 ∨ fid = 0x83) ∧ c.nsid ≠ 0xFFFFFFFF ∧ (nsFor s f c.nsid.toNat).isNone) stInvalidNs,
        badIf (fid = 0xD0 ∧ (!pf ∨ !save ∨ !c.memOk)) (if pf && save then stDataTransfer else stInvalidField),
        badIf (fid = 0xD0 ∧ !typesOk s (padTo 1024 c.data)) stInvalidField,
        badIf (fid = 0xD1 ∧ (f ≠ 0 ∨ !save ∨ fld v 0 2 = 3)) stInvalidField,
        badIf (fid = 0xD2 ∧ 7 < fld v 0 4 ∧ fld v 0 4 ≠ 0xF) stInvalidField,
        badIf (fid = 0x0E ∧ !c.memOk) stDataTransfer, badIf (save ∧ !canSave s) stNotReady ]

/-- The keys that a value is kept under: a threshold written for all sensors sets both (TMPSEL Fh). -/
def featKeys (c : NvCmd) (fid : Nat) : List Nat :=
  if fid = 0x04 ∧ fld c.c11 16 4 = 0xF then [featKey 4 (16 * fld c.c11 20 2), featKey 4 (1 + 16 * fld c.c11 20 2)]
  else [featKey fid (featSel c fid)]

/-- The reservations of the namespaces named, kept over power loss or not (R249). -/
def setPtpl (s : State) (nsid : Nat) (on_ : Bool) : State :=
  let put (l : List (Nat × Reservation)) (n : Nat) := tabUpd {} l n (fun r => { r with ptpl := on_ })
  let ns := if nsid = 0xFFFFFFFF then s.ftl.namespaces.map (·.1) else [nsid]
  { s with host := { s.host with reservations := ns.foldl put s.host.reservations } }

/-- What a feature changes beside its value. -/
def featEffect (s : State) (c : NvCmd) (fid : Nat) : State :=
  let v := c.c11
  if fid = 0x02 then
    { s with power := { s.power with ptarget := fld v 0 5, changing := decide (fld v 0 5 ≠ s.power.pstate) } }
  else if fid = 0x10 then { s with therm := { s.therm with tmt1 := fld v 16 16, tmt2 := fld v 0 16 } }
  else if fid = 0x83 then setPtpl s c.nsid.toNat (bitOf v 0)
  else if fid = 0xD0 then { s with media := { s.media with acceptedNext := some (typesOf (padTo 1024 c.data)) } }
  else if fid = 0xD1 then { s with power := { s.power with linkNext := some (BitVec.ofNat 2 (fld v 0 2)) } }
  else s

/-- The dwords of a feature's value: CDW11, and for Timestamp the 8 bytes of its data. -/
def featValues (c : NvCmd) (fid : Nat) : List (Nat × Dword) :=
  if fid = 0x0E then [(featKey fid 0, dwordOf (leAt c.data 0 4)), (featKey fid 1, dwordOf (leAt c.data 4 4))]
  else (featKeys c fid).map (fun k => (k, c.c11))

/-- The queues allocated, 0's based: at most what the controller holds. -/
def queuesGiven (s : State) (f : Nat) (v : Dword) : Nat :=
  let n := queuePairs s f - 1
  Nat.min n (fld v 0 16) + Nat.min n (fld v 16 16) * 65536

/-- SET_FEATURES (R250): the current value, and with Save the saved one (R44). -/
def execSetFeatures (c : NvCmd) (s : State) : Out :=
  let f := c.id.fn
  let fid := fld c.c10 0 8
  let save := bitOf c.c10 31
  let checks (t : State) : Option Status :=
    firstBad [ adminChecks t c ([(c.c10, 0x7FFFFF00)] ++ c12on c ++ c23 c), featCheck t c fid save ]
  .next <| cmdRun s c 0x09 false checks (fun t =>
    let t1 := featEffect t c fid
    let t2 := if fid = 0xD0 ∨ fid = 0xD1 then t1 else
      updCtrl t1 f (fun k => { k with features := (featValues c fid).foldl (fun l e => tabPut l e.1 e.2) k.features })
    let dw0 := if fid = 0x07 then queuesGiven t f c.c11 else 0
    if save then
      let own := featOwner f fid
      let t3 := if fid = 0xD0 ∨ fid = 0xD1 then t2 else
        { t2 with host := { t2.host with
          features := (featValues c fid).foldl (fun l e => tabPut l (savedKey own e.1) e.2) t2.host.features } }
      completeSaved t3 c.id dw0 []
    else completeWith t2 c.id stSuccess (dwordOf dw0) 0 [])

/-! ### GET_FEATURES -/

/-- The value of a feature under a selection: current, default, saved. -/
def featValue (s : State) (f fid sel pick : Nat) : Dword :=
  let d := featDefault s f fid sel
  let saved := tabAt d s.host.features (savedKey (featOwner f fid) (featKey fid sel))
  if pick = 1 then d
  else if pick = 2 ∧ fid = 0xD1 then dwordOf (s.power.linkNext.getD s.power.linkMode).toNat
  else if pick = 2 then saved
  else if fid = 0x02 then dwordOf s.power.pstate
  else if fid = 0x06 then 0
  else if fid = 0x07 then dwordOf (queuesGiven s f (featureAt s f (featKey fid 0) d))
  else if fid = 0x10 then dwordOf (s.therm.tmt1 * 65536 + s.therm.tmt2)
  else if fid = 0x83 then dwordOf (bitNat (tabAt {} s.host.reservations sel).ptpl)
  else if fid = 0xD1 then dwordOf s.power.linkMode.toNat
  else featureAt s f (featKey fid sel) d

/-- What Get Features says a feature can do: saveable, per namespace, changeable. -/
def featCaps (fid : Nat) : Nat :=
  bitNat (fid ≠ 0xD2) + 2 * bitNat (fid = 0x05 ∨ fid = 0x82 ∨ fid = 0x83) + 4

/-- The data of a feature: the accepted-die list, and the timestamp as it was set. -/
def featData (s : State) (f fid : Nat) (pick : Nat) : List Byte :=
  if fid = 0xD0 then
    typesBuffer (if pick = 1 then [] else if pick = 2 then s.media.acceptedNext.getD s.media.accepted else s.media.accepted)
  else if fid = 0x0E then leBytes (featValue s f fid 0 pick).toNat 4 ++ leBytes (featValue s f fid 1 pick).toNat 4
  else []

/-- GET_FEATURES (R250, R267). -/
def execGetFeatures (c : NvCmd) (s : State) : Out :=
  let f := c.id.fn
  let fid := fld c.c10 0 8
  let pick := fld c.c10 8 3
  let checks (t : State) : Option Status :=
    firstBad
      [ adminChecks t c ([(c.c10, 0xFFFFF800), (c.c11, getReserved fid)] ++ c12on c ++ c23 c), badIf (!featureIds.contains fid ∨ 3 < pick) stInvalidField,
        badIf (fid = 0x09 ∧ vectorsOf t f ≤ fld c.c11 0 16) stInvalidField,
        badIf ((fid = 0x82 ∨ fid = 0x83) ∧ (nsFor t f c.nsid.toNat).isNone) stInvalidNs ]
  .next <| cmdRun s c 0x0A false checks (fun t =>
    if pick = 3 then completeWith t c.id stSuccess (dwordOf (featCaps fid)) 0 []
    else if fid = 0xD0 ∨ fid = 0x0E then answerData t c 0 (featData t f fid pick)
    else completeWith t c.id stSuccess (featValue t f fid (featSel c fid) pick) 0 [])

end Sys2Proof.Machine
end

