-- ==== Sys2Proof/Machine/LogPages.lean ====
section
/-! DEFINITION. Get Log Page (R121, R198, R251, R264, R519, R555, R562, R583). -/

namespace Sys2Proof.Machine

/-- The checks of the admin commands that the settings-recovery state still takes (R45). -/
def openChecks (c : NvCmd) (reserved : List (Dword × Nat)) : Option Status :=
  firstBad [badIf (!reservedOk reserved) stInvalidField, badIf (c.ptr ≠ .prp) stInvalidField]

/-- `n` free values taken. -/
def takeFrees (s : State) (n : Nat) : State := { s with freeCount := s.freeCount + n }

/-- A structure from its stated fields, as (offset, bytes, value), over some bytes. -/
def withFields (base : List Byte) (fs : List (Nat × Nat × Nat)) : List Byte :=
  fs.foldl (fun b f => overlayAt b f.1 (leBytes f.2.2 f.2.1)) base

/-- A value held at the largest that `n` bytes can say. -/
def satBytes (n v : Nat) : Nat := Nat.min (2 ^ (8 * n) - 1) v

/-! ### Page 0xC0 (R198) -/

/-- The wear of a die: the mean erase count of its heath blocks that are not retired, as a share of its rated endurance in
units of 0.01%. -/
def dieWear (s : State) (die : Nat) : Nat :=
  let bs := s.ftl.blocks.filter (fun e => keyDie e.1 == die && blockGood e.2 && (e.2.family == 1 || e.2.family == 2))
  let sum := bs.foldl (fun a e => a + e.2.erases) 0
  let rated := (dieAt s die).params.endurance
  if bs.isEmpty || rated = 0 then 0 else sum * 10000 / (bs.length * rated)

/-- WEAR_USED. -/
def wearUsed (s : State) : Nat := (activeDies s).foldl (fun m d => Nat.max m (dieWear s d)) 0

/-- Dies in a state. -/
def diesIn (s : State) (st : BitVec 4) : Nat := s.media.chans.foldl (fun a c => a + (c.2.dies.filter (fun d => d.2.st == st)).length) 0

/-- Log page 0xC0. Its layout gives no field for the address of a line that is left to ECC (R145): the page shows that no spare is left
through PCS_REMAP_SRAM and PCS_EVENT alone, and the address stays in the state (DESIGN CHOICE, log 129). -/
def pageC0 (s : State) : List Byte :=
  let h := s.ftl.health
  withFields (zeros 512)
    ([ (0, 1, 1), (1, 1, warnByte s), (4, 2, s.ftl.spareLeft), (6, 2, satBytes 2 (wearUsed s)), (8, 2, s.ftl.meadowShare),
       (10, 2, s.ftl.meadowTarget), (16, 8, satBytes 8 (h.hostWritten / 4096)), (24, 8, satBytes 8 (h.mediaProgrammed / 4096)),
       (32, 8, satBytes 8 h.relocated), (40, 8, satBytes 8 h.erases), (48, 4, satBytes 4 h.retiredErase),
       (52, 4, satBytes 4 h.retiredProgram), (56, 4, satBytes 4 h.retiredRead),
       (60, 4, (s.ftl.blocks.filter (fun e => e.2.st == blkFactoryBad)).length), (104, 8, satBytes 8 h.unrecovered),
       (112, 8, satBytes 8 h.dramCorrected), (120, 8, satBytes 8 h.dramUe), (128, 8, satBytes 8 h.sramCorrected),
       (136, 8, satBytes 8 h.sramUe), (144, 4, s.pcs.remapDram.length), (148, 4, s.pcs.remapSram.length),
       (152, 4, (regAt s 0xA00060).toNat), (156, 4, satBytes 4 (faultsOpen s)), (160, 4, h.unrepaired.length),
       (164, 4, diesIn s dieFailed), (168, 4, (fencedChans s).length), (172, 4, satBytes 4 h.deferred) ]
      ++ (List.range 5).map (fun k => (64 + 8 * k, 8, satBytes 8 (tabAt 0 h.ladder k)))
      ++ (List.range 16).map (fun i => (256 + 8 * i, 8, satBytes 8 (tabAt 0 h.tempHist i / 1000))))

/-! ### Pages 0xC1, 0xC3, 0xC4 (R264, R562, R121) -/

/-- The header that these pages share: VERSION, COUNT, TOTAL and the next 8 bytes. -/
def pageHeader (n count total : Nat) : List Byte := withFields (zeros n) [(0, 1, 1), (4, 4, count), (8, 8, satBytes 8 total)]

/-- An entry of page 0xC1. -/
def deferredBytes (d : DefEntry) : List Byte :=
  withFields (zeros 32)
    [ (0, 4, d.nsid), (4, 8, d.first), (12, 4, satBytes 4 d.count), (16, 1, d.cause + 128 * bitNat d.overflow), (24, 8, d.stamp) ]

/-- Log page 0xC1 as a function sees it: tenant 1 every entry, another tenant those of its controller's namespaces (R519). -/
def pageC1 (s : State) (f : Nat) : List Byte :=
  let all := fnTenant s f = 1
  let ds := s.etch.deferred.filter (fun d => all || (nsFor s f d.nsid).isSome)
  let total := if all then s.etch.defTotal else ds.length
  let changed := if all then s.etch.defAt else ds.foldl (fun m d => Nat.max m d.stamp) 0
  withFields (pageHeader 64 ds.length total) [(16, 8, changed)] ++ (ds.map deferredBytes).foldl (· ++ ·) []

/-- An entry of page 0xC3. -/
def thermBytes (e : ThermEntry) : List Byte :=
  withFields (zeros 16) [(0, 8, e.time), (8, 1, e.kind), (9, 1, bitsOf 8 e.temp), (10, 1, e.sensor), (11, 1, e.level)]

/-- Log page 0xC3. -/
def pageC3 (s : State) : List Byte :=
  let l := s.therm.log
  let broken := s.therm.sensors.foldl (fun a e => if e.2.broken then a + 2 ^ e.1 else a) 0
  withFields (pageHeader 256 l.entries.length l.total)
      ([(16, 4, satBytes 4 l.shutdowns), (20, 1, bitsOf 8 l.maxEver), (24, 8, l.changed), (32, 8, broken)]
        ++ l.mins.map (fun e => (64 + 2 * e.1, 1, bitsOf 8 e.2)) ++ l.maxs.map (fun e => (65 + 2 * e.1, 1, bitsOf 8 e.2)))
    ++ (l.entries.map thermBytes).foldl (· ++ ·) []

/-- An entry of page 0xC4. -/
def faultBytes (e : FaultEntry) : List Byte :=
  withFields (zeros 32)
    [ (0, 2, e.chan), (2, 1, e.die), (3, 1, e.kind), (4, 1, e.pin), (5, 1, e.st), (8, 8, e.first), (16, 8, e.last),
      (24, 4, e.ident.toNat), (28, 4, e.digest.toNat) ]

/-- Log page 0xC4. -/
def pageC4 (s : State) : List Byte :=
  withFields (pageHeader 64 s.media.faults.length s.media.faultsTotal) [(16, 8, s.media.faultsAt)]
    ++ (s.media.faults.map faultBytes).foldl (· ++ ·) []

/-! ### The pages of NVMe (R251): fields that the manual does not state are free (logs 3 and 13) -/

/-- Log page 02h. -/
def page02 (s : State) (f : Nat) : List Byte :=
  withFields (freeBytes s 512)
    [ (0, 1, criticalOf s f), (1, 2, kelvin s.therm.tjMedian), (3, 1, s.ftl.spareLeft / 100), (4, 1, 10),
      (5, 1, satBytes 1 (wearUsed s / 100)), (200, 2, kelvin s.therm.tjMax), (202, 14, 0) ]

/-- Log page 03h: the slot that runs where one holds the version that runs, and the slot of the next activation. -/
def page03 (s : State) : List Byte :=
  let run := ((s.host.fwSlots.find? (fun e => e.2 == s.power.fwVersion.toNat)).map (·.1)).getD ((freeNow s).toNat % 8)
  withFields (freeBytes s 512) [(0, 1, run % 8 + 16 * (s.host.fwNext.getD 0 % 8))]

/-- Log page 04h: the namespaces changed, rising. -/
def page04 (s : State) (f : Nat) : List Byte :=
  let ns := setOfNats (ctrlAt s f).changedNs
  if 1024 < ns.length then withFields (zeros 4096) [(0, 4, 0xFFFFFFFF)]
  else padTo 4096 ((ns.map (fun n => leBytes n 4)).foldl (· ++ ·) [])

/-- Log page 05h: CSUPP for every supported opcode. -/
def page05 (s : State) : List Byte :=
  let one (base k : Nat) : Nat × Nat × Nat := (base + 4 * k, 4, (Config.freeValue (s.freeCount + base + k)).toNat % 2 ^ 31 * 2 + 1)
  withFields (zeros 4096) (adminOpcodes.map (one 0) ++ ioOpcodes.map (one 1024))

/-- Log page 81h: SSTAT and SPROG. -/
def page81 (s : State) : List Byte :=
  let st := if s.host.sanitizing.isSome then 2 else if s.host.sanitized then 1 else 0
  withFields (freeBytes s 512)
    ([(2, 1, (freeNow s).toNat / 8 % 32 * 8 + st)] ++ (if st = 2 then [] else [(0, 2, 0xFFFF)]))

/-! ### GET_LOG_PAGE -/

/-- The position that a page of one device is asked of (R583): the device's own where bit 3 of the log-specific field is 0. -/
def pagePos (s : State) (c : NvCmd) : Nat := if bitOf c.c10 11 then fld c.c10 8 3 else s.cas.pos

/-- Whether a device at a position is ready and in the cascade; a device used alone is at position 0. -/
def posReady (s : State) (p : Nat) : Bool := p = s.cas.pos || s.cas.ready.getLsbD p

/-- The pages of one device, which a tenant other than 1 may not read (R519). -/
def devicePages : List Nat := [0xC0, 0xC2, 0xC3, 0xC4]

/-- Whether the content of a page is another device's, or not laid out by the manual: then its bytes are free. -/
def pageOpen (s : State) (c : NvCmd) (lid : Nat) : Bool :=
  [0x01, 0x07, 0x08, 0x80, 0xC2].contains lid || (devicePages.contains lid && pagePos s c ≠ s.cas.pos)

/-- A page, from its first byte. -/
def pageOf (s : State) (f lid : Nat) : List Byte :=
  if lid = 0x02 then page02 s f
  else if lid = 0x03 then page03 s
  else if lid = 0x04 then page04 s f
  else if lid = 0x05 then page05 s
  else if lid = 0x81 then page81 s
  else if lid = 0xC0 then pageC0 s
  else if lid = 0xC1 then pageC1 s f
  else if lid = 0xC3 then pageC3 s
  else pageC4 s

/-- The asynchronous event type whose page this is. -/
def pageEvent (lid : Nat) : Nat :=
  if lid = 0x01 then 0 else if lid = 0x02 then 1 else if lid = 0x03 ∨ lid = 0x04 then 2 else if lid = 0x80 ∨ lid = 0x81 then 6 else 7

/-- The page identifiers (R251). -/
def pageIds : List Nat := [0x01, 0x02, 0x03, 0x04, 0x05, 0x07, 0x08, 0x80, 0x81, 0xC0, 0xC1, 0xC2, 0xC3, 0xC4]

/-- GET_LOG_PAGE. -/
def execGetLogPage (c : NvCmd) (s : State) : Out :=
  let f := c.id.fn
  let lid := fld c.c10 0 8
  let len := (fld c.c10 16 16 + fld c.c11 0 16 * 65536 + 1) * 4
  let off := c.c12.toNat + c.c13.toNat * 2 ^ 32
  let checks (t : State) : Option Status :=
    firstBad
      [ openChecks c ([(c.c11, 0xFFFF0000), (c.c14, 0xFFFFFFFF), (c.c15, 0xFFFFFFFF)] ++ c23 c),
        badIf (!pageIds.contains lid) stInvalidLog, badIf (2097152 < len ∨ off % 4 ≠ 0) stInvalidField,
        badIf (devicePages.contains lid ∧ fnTenant t f ≠ 1) stAccessDenied,
        badIf (devicePages.contains lid ∧ !posReady t (pagePos t c)) stInvalidField,
        badIf (!pageOpen t c lid ∧ (pageOf t f lid).length < off) stInvalidField ]
  .next <| cmdRun s c 0x02 false checks (fun t =>
    let data := if pageOpen t c lid then freeBytes t len else sliceOf (pageOf t f lid) off len
    let t1 := takeFrees t (Nat.max len 4096)
    let t2 := if bitOf c.c10 15 then t1 else unmaskEvents t1 f (pageEvent lid)
    let t3 := if lid = 0x04 then updCtrl t2 f (fun k => { k with changedNs := [] }) else t2
    answerData t3 c 0 data)

end Sys2Proof.Machine
end

