-- ==== Sys2Proof/Machine/Identify.lean ====
section
/-! DEFINITION. Identify (R236, R241, R242, R248, R249, R252, R265, R266, R555, R579). Fields that the manual does not state are
free (logs 3 and 13). -/

namespace Sys2Proof.Machine

/-- The namespaces that a function's tenant may see: tenant 1 every one, another tenant those attached to the controller (R519,
R615). -/
def seenNs (s : State) (f : Nat) : List (Nat × Namespace) :=
  if fnTenant s f = 1 then s.ftl.namespaces else s.ftl.namespaces.filter (fun e => attachedTo e.2 f)

/-- A list of namespace identifiers above one, as a page. -/
def nsList (l : List (Nat × Namespace)) (above : Nat) : List Byte :=
  padTo 4096 ((((l.map (·.1)).filter (fun n => decide (above < n))).take 1024 |>.map (fun n => leBytes n 4)).foldl (· ++ ·) [])

/-- The sizes of R265: (offset, bytes, value). -/
def atomicFields (n : Namespace) : List (Nat × Nat × Nat) :=
  let w := if n.lbaSize = 512 then 2047 else 255
  let g := if n.coarse then (if n.lbaSize = 512 then 127 else 15) else if n.lbaSize = 512 then 7 else 0
  [(34, 2, w), (36, 2, w), (38, 2, 0), (40, 2, 0), (42, 2, 0), (44, 2, 0), (64, 2, g), (66, 2, g), (68, 2, g), (70, 2, g)]

/-- The fields that Namespace Management create takes (R252), and the home position (R579). -/
def vendorFields (n : Namespace) : List (Nat × Nat × Nat) :=
  [ (3072, 1, bitNat n.coarse), (3073, 1, n.codec), (3074, 1, n.cipher), (3075, 1, 0), (3076, 2, n.keySlot), (3078, 2, n.owner),
    (3080, 2, n.chset), (3082, 2, 0), (3084, 1, n.home) ]

/-- The LBA formats: 0 of 4,096 bytes and 1 of 512 bytes, without metadata (R249). -/
def formatFields : List (Nat × Nat × Nat) :=
  [(25, 1, 1), (27, 1, 0), (28, 1, 0), (29, 1, 0), (128, 2, 0), (130, 1, 12), (132, 2, 0), (134, 1, 9)]

/-- Identify Namespace. -/
def identNs (s : State) (n : Namespace) : List Byte :=
  withFields (freeBytes s 4096)
    ([(0, 8, n.nsze), (8, 8, n.nsze), (24, 1, 2), (26, 1, if n.lbaSize = 512 then 1 else 0), (31, 1, 0x7F), (33, 1, 0)]
      ++ formatFields ++ atomicFields n ++ vendorFields n)

/-- The power state descriptors (R266): power in 0.01 W, non-operational, entry and exit latency in µs, rank. -/
def powerDescs : List (Nat × Nat × Nat × Nat × Nat) :=
  [(14000, 0, 0, 0, 0), (9000, 0, 2000, 2000, 1), (4500, 0, 5000, 5000, 2), (800, 1, 10000, 20000, 3), (250, 1, 50000, 150000, 4)]

/-- The fields of one descriptor. -/
def descFields (e : Nat × Nat × Nat × Nat × Nat × Nat) : List (Nat × Nat × Nat) :=
  let b := 2048 + 32 * e.1
  let d := e.2
  [ (b, 2, d.1), (b + 2, 1, 0), (b + 3, 1, 2 * d.2.1), (b + 4, 4, d.2.2.1), (b + 8, 4, d.2.2.2.1), (b + 12, 1, d.2.2.2.2),
    (b + 13, 1, d.2.2.2.2), (b + 14, 1, d.2.2.2.2), (b + 15, 1, d.2.2.2.2) ]
/-- The bytes of namespaces in being. -/
def usedBytes (s : State) : Nat := (s.ftl.namespaces.filter (fun e => !homeAway s e.2)).foldl (fun a e => a + nsBytes e.2) 0

/-- Identify Controller (R241, R248, R249, R265, R555). Of TNVMCAP only the own device's part is in this state; in a cascade of
several the sum is free. -/
def identCtrl (s : State) (f : Nat) : List Byte :=
  let alone := s.cas.ready.toNat = 0 || s.cas.roleCode = 0
  withFields (freeBytes s 4096)
    ([ (76, 1, if s.power.linkMode = 0 then 6 else 7), (77, 1, 9), (78, 2, f + 1), (84, 4, 1000000), (88, 4, 60000),
       (256, 2, 0x8E), (258, 1, 15), (259, 1, 15), (260, 1, 4), (262, 1, 255), (263, 1, 4), (265, 1, 0), (266, 2, 371), (268, 2, 393),
       (320, 2, 0), (328, 4, 3), (343, 1, 0), (512, 1, 0x66), (513, 1, 0x44), (516, 4, 4096), (520, 2, 0xFD), (522, 2, 0), (525, 1, 0),
       (526, 2, 255), (528, 2, 255), (532, 2, 0), (536, 4, 0x10001), (540, 4, 4096) ]
      ++ (if alone then [(280, 16, s.ftl.exported), (296, 16, s.ftl.exported - usedBytes s)] else [])
      ++ ((numbered 0 powerDescs).map descFields).foldl (· ++ ·) [])

/-- The fields of CAP that the manual gives (R241), at the bits (lowest, number) at which NVMe has them (PRESUMED, log 13): MQES, CQR,
AMS, TO, DSTRD, NSSRS, MPSMIN, MPSMAX. No command reads a controller register. -/
def capFields : List (Nat × Nat × Nat) :=
  [(0, 16, 4095), (16, 1, 1), (17, 2, 0), (24, 8, 13), (32, 4, 0), (36, 1, 1), (48, 4, 0), (52, 4, 4)]

/-- The functions of the mode in force, and those of a port. -/
def allFns (s : State) : List Nat := List.range (portCount s * fnsPerPort s)
def portFns (s : State) (p : Nat) : List Nat := List.range' (p * fnsPerPort s) (fnsPerPort s)

/-- A list of controller identifiers from one on. -/
def ctrlList (fs : List Nat) (from_ : Nat) : List Byte :=
  let ids := ((fs.map (· + 1)).filter (fun i => decide (from_ ≤ i))).take 2047
  padTo 4096 (leBytes ids.length 2 ++ (ids.map (fun i => leBytes i 2)).foldl (· ++ ·) [])

/-- The flexible queue resources of a port (R242), and those assigned. -/
def flexPool (s : State) : Nat := if s.power.linkMode = 0 then 8064 else if s.power.linkMode = 1 then 3968 else 1920
def flexAssigned (s : State) (p : Nat) : Nat :=
  (s.host.ctrls.filter (fun e => fnPort s e.1 == p)).foldl (fun a e => a + e.2.flexQ) 0

/-- Primary Controller Capabilities. -/
def identPrimary (s : State) (f : Nat) : List Byte :=
  let p := fnPort s f
  withFields (freeBytes s 4096)
    [ (0, 2, f + 1), (2, 2, p), (4, 1, 3), (32, 4, flexPool s), (36, 4, flexAssigned s p), (40, 2, 0), (42, 2, 128), (44, 2, 1024) ]

/-- An entry of the Secondary Controller List. -/
def secondaryBytes (s : State) (p f : Nat) : List Byte :=
  let k := ctrlAt s f
  withFields (zeros 32)
    [ (0, 2, f + 1), (2, 2, p * fnsPerPort s + 1), (4, 1, bitNat k.online), (8, 2, f - p * fnsPerPort s), (10, 2, k.flexQ),
      (12, 2, k.flexI) ]

/-- Secondary Controller List, from a controller on. -/
def identSecondary (s : State) (f from_ : Nat) : List Byte :=
  let p := fnPort s f
  let fs := (((portFns s p).drop 1).filter (fun g => decide (from_ ≤ g + 1))).take 127
  padTo 4096 (leBytes fs.length 1 ++ zeros 31 ++ (fs.map (secondaryBytes s p)).foldl (· ++ ·) [])

/-- The structure of a CNS, none where it has none for the namespace named. -/
def identData (s : State) (c : NvCmd) (cns : Nat) : List Byte :=
  let f := c.id.fn
  let nsid := c.nsid.toNat
  let from_ := fld c.c10 16 16
  let admin := fnTenant s f = 1
  if cns = 0x00 then
    if nsid = 0xFFFFFFFF then withFields (freeBytes s 4096) ([(24, 1, 2), (31, 1, 0x7F), (33, 1, 0)] ++ formatFields)
    else match nsFor s f nsid with | some n => identNs s n | none => zeros 4096
  else if cns = 0x01 then identCtrl s f
  else if cns = 0x02 then nsList (s.ftl.namespaces.filter (fun e => attachedTo e.2 f)) nsid
  else if cns = 0x03 then
    match nsFor s f nsid with | some _ => freeBytes s 4096 | none => zeros 4096
  else if cns = 0x10 then nsList (seenNs s f) nsid
  else if cns = 0x11 then
    match (seenNs s f).find? (fun e => e.1 == nsid) with | some e => identNs s e.2 | none => zeros 4096
  else if cns = 0x12 then
    ctrlList (((tabGet s.ftl.namespaces nsid).map (fun n => setOfNats n.attach)).getD [] |>.filter (fun g => admin || g == f)) from_
  else if cns = 0x13 then ctrlList (if admin then allFns s else [f]) from_
  else if cns = 0x14 then (if isPhysical s f then identPrimary s f else zeros 4096)
  else if cns = 0x15 then (if isPhysical s f then identSecondary s f from_ else zeros 4096)
  else freeBytes s 4096

/-- The structures supported (R248). -/
def cnsValues : List Nat := [0x00, 0x01, 0x02, 0x03, 0x06, 0x10, 0x11, 0x12, 0x13, 0x14, 0x15, 0x1F]

/-- IDENTIFY. -/
def execIdentify (c : NvCmd) (s : State) : Out :=
  let cns := fld c.c10 0 8
  let nsid := c.nsid.toNat
  let checks : Option Status :=
    firstBad
      [ openChecks c ([(c.c10, 0xFF00), (c.c11, 0xFF0000), (c.c12, 0xFFFFFFFF), (c.c13, 0xFFFFFFFF), (c.c14, 0xFFFFFF80),
          (c.c15, 0xFFFFFFFF)] ++ c23 c),
        badIf (!cnsValues.contains cns) stInvalidField,
        badIf ((cns = 0x00 ∧ nsid ≠ 0xFFFFFFFF ∨ cns = 0x03 ∨ cns = 0x11 ∨ cns = 0x12) ∧ (nsid = 0 ∨ 4096 < nsid)) stInvalidNs,
        badIf ((cns = 0x02 ∨ cns = 0x10) ∧ 0xFFFFFFFE ≤ nsid) stInvalidNs ]
  .next <| cmdRun s c 0x06 false (fun _ => checks) (fun t =>
    answerData (takeFrees t 4096) c 0 (identData t c cns))

end Sys2Proof.Machine
end

