-- ==== Sys2Proof/Machine/Namespaces.lean ====
section
/-! DEFINITION. Namespace Management and Attachment, Format NVM, Sanitize (R154, R188, R248, R252 to R254, R264, R524, R579). -/

namespace Sys2Proof.Machine

def stThin : Status := (1, 0x1B)

/-! ### NAMESPACE_MANAGEMENT (R252) -/

/-- The namespace that a create asks for. -/
def askedNs (d : List Byte) (home : Nat) : Namespace :=
  { nsze := leAt d 0 8, lbaSize := if leAt d 26 1 % 16 = 1 then 512 else 4096, coarse := leAt d 3072 1 == 1, codec := leAt d 3073 1
    cipher := leAt d 3074 1, keySlot := leAt d 3076 2, owner := leAt d 3078 2, chset := leAt d 3080 2, attach := [], home := home }

/-- The positions of the ready devices. -/
def readyPositions (s : State) : List Nat := (List.range 8).filter (posReady s)

/-- The position that feature D2h gives a controller's new namespaces (R579). Which of several ready devices has the most spare is
not in this state: the choice is free. -/
def placement (s : State) (f : Nat) : Option Nat :=
  let v := fld (featureAt s f 0xD2 0xF) 0 4
  if v = 0xF then
    let l := readyPositions s
    l[(freeNow s).toNat % Nat.max 1 l.length]?
  else if posReady s v then some v
  else none

/-- The checks of R252 and R524 on the fields of a create. -/
def askedOk (s : State) (d : List Byte) : Bool :=
  let n := askedNs d 0
  let k := tabAt {} s.cry.slots n.keySlot
  decide (leAt d 3072 1 ≤ 1) && decide (n.codec ≤ 1) && decide (n.cipher ≤ 2) && leAt d 3075 1 == 0 && leAt d 3082 2 == 0
    && (if n.cipher = 2 then decide (n.keySlot < 4096) else n.keySlot == 0)
    && decide (1 ≤ n.owner) && decide (n.owner ≤ 1024) && decide (n.chset ≤ 63)
    && (n.codec == 0 || n.coarse)
    && (n.cipher ≠ 2 || (k.st ≠ 0 && k.origin == 1 && k.kind == 2 && k.owner == n.owner))
    && decide (0 < n.nsze) && nsBytes n % unitBytes n == 0
    && (n.chset == 0 || regFld s (0x1E00410 + 0x20 * n.chset) 0 11 == n.owner)

/-- The lowest namespace identifier that is free. -/
def freeNsid (s : State) : Option Nat := (List.range' 1 4096).find? (fun i => (tabGet s.ftl.namespaces i).isNone)

/-- Why a create is refused. -/
def createCheck (s : State) (c : NvCmd) : Option Status :=
  let d := padTo 4096 c.data
  let n := askedNs d 0
  firstBad
    [ badIf (!c.memOk) stDataTransfer, badIf (c.nsid ≠ 0) stInvalidField,
      badIf (1 < leAt d 26 1 ∨ leAt d 29 1 ≠ 0) stInvalidFormat, badIf (leAt d 8 8 ≠ n.nsze) stThin,
      badIf (!askedOk s d ∨ (placement s c.id.fn).isNone) stInvalidField,
      badIf (placement s c.id.fn = some s.cas.pos ∧ s.ftl.exported < usedBytes s + nsBytes n) stNsCapacity,
      badIf (freeNsid s).isNone stNsUnavailable ]

/-- A namespace created. -/
def createNs (s : State) (c : NvCmd) : State :=
  let n := askedNs (padTo 4096 c.data) ((placement s c.id.fn).getD s.cas.pos)
  let id := (freeNsid s).getD 0
  let s1 := { takeFree s with ftl := { s.ftl with namespaces := tabPut s.ftl.namespaces id n } }
  let s2 := if n.cipher = 1 then drawNsKey s1 id n.owner else s1
  completeSaved s2 c.id id []

/-- A command that writes a journal record waits while the fence is raised (R223) or the hold of R214 lasts. -/
def whileRecording (s : State) (f : State → State) : State :=
  if s.power.fence || s.etch.jrnlHold || decide (liveMax s ≤ liveBytes s) then s else f s

/-- NAMESPACE_MANAGEMENT. -/
def execNamespaceManagement (c : NvCmd) (s : State) : Out :=
  let sel := fld c.c10 0 4
  let checks (t : State) : Option Status :=
    firstBad
      [ adminChecks t c ([(c.c10, 0xFFFFFFF0), (c.c11, 0xFFFFFFFF), (c.c12, 0xFFFFFFFF), (c.c13, 0xFFFFFFFF),
          (c.c14, 0xFFFFFFFF), (c.c15, 0xFFFFFFFF)] ++ c23 c),
        badIf (!isPhysical t c.id.fn ∨ 1 < sel) stInvalidField, badIf t.host.sanitizing.isSome stSanitizing,
        badIf (!canSave t) stNotReady,
        if sel = 0 then createCheck t c
        else badIf (c.nsid ≠ 0xFFFFFFFF ∧ (tabGet t.ftl.namespaces c.nsid.toNat).isNone) stInvalidNs ]
  .next <| cmdRun s c 0x0D false checks (fun t =>
    if sel = 0 then createNs t c
    else whileRecording t (fun u =>
      let ns := if c.nsid = 0xFFFFFFFF then u.ftl.namespaces.map (·.1) else [c.nsid.toNat]
      completeActs u c.id (ns.map .deleteNs)))

/-! ### NAMESPACE_ATTACHMENT (R253) -/

/-- The functions that a controller list names; none where it is no list of controllers. -/
def listedFns (s : State) (d : List Byte) : Option (List Nat) :=
  let n := leAt d 0 2
  let ids := (List.range n).map (fun i => leAt d (2 + 2 * i) 2)
  if n = 0 || 2047 < n || ids.any (fun i => i = 0 || decide (portCount s * fnsPerPort s < i)) then none else some (ids.map (· - 1))

/-- Why an attachment is refused. -/
def attachCheck (s : State) (c : NvCmd) (sel : Nat) : Option Status :=
  match tabGet s.ftl.namespaces c.nsid.toNat, listedFns s (padTo 4096 c.data) with
  | none, _ => some stInvalidNs
  | _, none => some (if c.memOk then stCtrlList else stDataTransfer)
  | some n, some fs =>
    firstBad
      [ badIf (!c.memOk) stDataTransfer,
        badIf (fs.any (fun f => fnTenant s f ≠ n.owner && fnTenant s f ≠ 1)) stCtrlList,
        badIf (sel = 0 ∧ fs.any (attachedTo n)) stNsAttached, badIf (sel = 1 ∧ fs.any (fun f => !attachedTo n f)) stNsNotAttached ]

/-- NAMESPACE_ATTACHMENT. -/
def execNamespaceAttachment (c : NvCmd) (s : State) : Out :=
  let sel := fld c.c10 0 4
  let checks (t : State) : Option Status :=
    firstBad
      [ adminChecks t c ([(c.c10, 0xFFFFFFF0), (c.c11, 0xFFFFFFFF), (c.c12, 0xFFFFFFFF), (c.c13, 0xFFFFFFFF),
          (c.c14, 0xFFFFFFFF), (c.c15, 0xFFFFFFFF)] ++ c23 c),
        badIf (!isPhysical t c.id.fn ∨ 1 < sel) stInvalidField, badIf (!canSave t) stNotReady, attachCheck t c sel ]
  .next <| cmdRun s c 0x15 false checks (fun t =>
    let fs := (listedFns t (padTo 4096 c.data)).getD []
    let change (n : Namespace) : Namespace :=
      { n with attach := if sel = 0 then setOfNats (n.attach ++ fs) else n.attach.filter (fun f => !fs.contains f) }
    let t1 := { t with ftl := { t.ftl with namespaces := t.ftl.namespaces.map (fun e =>
      if e.1 = c.nsid.toNat then (e.1, change e.2) else e) } }
    completeSaved (noteChanged t1 c.nsid.toNat fs) c.id 0 [])

/-! ### FORMAT_NVM -/

/-- FORMAT_NVM: the namespace is emptied and takes the LBA format; its size in bytes stays. -/
def execFormatNvm (c : NvCmd) (s : State) : Out :=
  let nsid := c.nsid.toNat
  let lbaf := fld c.c10 0 4
  let ses := fld c.c10 9 3
  let checks (t : State) : Option Status :=
    firstBad
      [ adminChecks t c ([(c.c10, 0xFFFFC000), (c.c11, 0xFFFFFFFF), (c.c12, 0xFFFFFFFF), (c.c13, 0xFFFFFFFF),
          (c.c14, 0xFFFFFFFF), (c.c15, 0xFFFFFFFF)] ++ c23 c),
        badIf (!isPhysical t c.id.fn) stInvalidField, badIf (tabGet t.ftl.namespaces nsid).isNone stInvalidNs,
        badIf (1 < lbaf ∨ fld c.c10 4 5 ≠ 0 ∨ fld c.c10 12 2 ≠ 0) stInvalidFormat,
        badIf (ses ≠ 0 ∧ (ses ≠ 2 ∨ (tabGet t.ftl.namespaces nsid).all (fun n => n.cipher == 0))) stInvalidField,
        badIf t.host.sanitizing.isSome stSanitizing, badIf ((tabGet t.ftl.namespaces nsid).any (homeLost t)) stNotReady,
        badIf (!canSave t) stNotReady ]
  .next <| cmdRun s c 0x80 false checks (fun t => whileRecording t (fun u =>
    match tabGet u.ftl.namespaces nsid with
    | none => u
    | some n =>
      let size := if lbaf = 1 then 512 else 4096
      let u1 := if ses = 2 && n.cipher = 1 then takeDraw (takeDraw u) else u
      completeActs u1 c.id [.formatNs nsid size (if ses = 2 then some (drawnKey u n.owner) else none)]))

/-! ### SANITIZE (R254, R264, R41) -/

/-- Whether an update waits whose commit begins a sanitize. -/
def isSanitize : SavedAct → Bool
  | .sanitize _ => true
  | _ => false

/-- SANITIZE: block erase or crypto erase begins, and is kept in the settings store; exit failure mode has nothing to leave. -/
def execSanitize (c : NvCmd) (s : State) : Out :=
  let act := fld c.c10 0 3
  let checks (t : State) : Option Status :=
    firstBad
      [ adminChecks t c ([(c.nsid, 0xFFFFFFFF), (c.c10, 0xFFFFFC00), (c.c12, 0xFFFFFFFF), (c.c13, 0xFFFFFFFF),
          (c.c14, 0xFFFFFFFF), (c.c15, 0xFFFFFFFF)] ++ c23 c),
        badIf (!isPhysical t c.id.fn ∨ !(act = 1 ∨ act = 2 ∨ act = 4)) stInvalidField,
        badIf (t.host.sanitizing.isSome || (pendingActs t).any isSanitize) stSanitizing, badIf (!canSave t) stNotReady ]
  .next <| cmdRun s c 0x84 false checks (fun t =>
    if act = 1 then complete t c.id stSuccess
    else if act = 4 then completeActs t c.id [.sanitize true]
    else whileRecording t (fun u => completeActs u c.id [.sanitize false]))

/-- SANITIZE_COMPLETE: the erase has ended, and the state leaves the settings store; the namespaces report it as in progress until
that update commits, so that a cut before does not leave data written meanwhile to the sanitize that resumes (R30). A block erase
ends once no data is left: its blocks are erased one by one (R194). -/
def execSanitizeComplete (s : State) : Out :=
  match s.host.sanitizing with
  | none => .next s
  | some crypto =>
    if !canRecord s || !s.power.started || (pendingActs s).contains .sanitizeEnd then .next s
    else if crypto then .next (wantActs (eraseKeys s) [.sanitizeEnd] [])
    else if dataErased s then .next (wantActs s [.sanitizeEnd] [])
    else .next s

end Sys2Proof.Machine
end

