-- ==== Sys2Proof/Machine/Cascade.lean ====
section
/-! DEFINITION. The cascade of one device (R564 to R585): the coordination bus, roles, Tabfer links, members, remote register
accesses. What another device holds is not in this state (log 53). -/

namespace Sys2Proof.Machine

/-! ### Who is there -/

/-- The cascade's state changed. -/
def updCas (s : State) (f : Cas → Cas) : State := { s with cas := f s.cas }

/-- A sign of life of the device at a position. -/
def noteHeard (s : State) (src : Nat) : State := updCas s (fun c => { c with heard := tabPut c.heard src (now s) })

/-- Whether the device is the master, or a member, of a settled cascade. -/
def isMaster (s : State) : Bool := s.cas.roleCode == 1
def isMember (s : State) : Bool := s.cas.roleCode == 2

/-- The positions found: those that sent ROLE or ANNOUNCE, the device's own among them (CAS_STATUS.COUNT). -/
def foundPositions (s : State) : List Nat := setOfNats (s.cas.roles.map (·.1) ++ s.cas.serials.map (·.1) ++ [s.cas.pos])

/-- The position whose ROLE frame claims the master role. -/
def masterPos (s : State) : Option Nat := (tabKeys (fun (b : Byte) => b == 1) s.cas.roles).head?

/-! ### Routes (R573) -/

/-- The links that are up, as pairs of positions, from the device's own links and from LINK frames. -/
def upEdges (s : State) : List (Nat × Nat) :=
  (s.cas.links.filter (fun e => e.2.st == 2 || e.2.st == 3)).map (fun e => (s.cas.pos, e.2.peerPos))
    ++ (s.cas.topo.filter (fun e => e.2.2 && e.1 / 4 != s.cas.pos)).map (fun e => (e.1 / 4, e.2.1))

/-- The positions within `n` hops of those given. -/
def reachIn (es : List (Nat × Nat)) : Nat → List Nat → List Nat
  | 0, l => l
  | n + 1, l =>
    reachIn es n (setOfNats (l ++ (es.filter (fun e => l.contains e.1)).map (·.2) ++ (es.filter (fun e => l.contains e.2)).map (·.1)))

/-- The positions that the device reaches. -/
def reached (s : State) : List Nat := reachIn (upEdges s) 8 [s.cas.pos]

/-- The hops from a position to another over the links that are up, none within 8. -/
def hopsTo (es : List (Nat × Nat)) (a b : Nat) : Option Nat :=
  (List.range 9).find? (fun n => (reachIn es n [a]).contains b)

/-- The link on which a flit to a position leaves: on a shortest path, the lowest link number on a tie (R573). A link that
retrains holds its traffic and keeps its routes (R572). -/
def routeTo (s : State) (dst : Nat) : Option Nat :=
  let es := upEdges s
  let cost (e : Nat × Link) : Option (Nat × Nat) := if e.2.st = 2 ∨ e.2.st = 3 then (hopsTo es e.2.peerPos dst).map (fun n => (n, e.1)) else none
  ((s.cas.links.filterMap cost).foldl (fun (b : Option (Nat × Nat)) x =>
    match b with
    | none => some x
    | some y => if x.1 < y.1 then some x else some y) none).map (·.2)

/-! ### Members lost and joined (R568, R581) -/

/-- The commands that run on a device completed with Namespace Not Ready. -/
def failForwarded (s : State) (p : Nat) : State :=
  (s.host.exec.filter (fun e => e.phase == .forwarded && e.done == p)).foldl (fun t e => failCmd t e.cmd.id stNotReady) s

/-- A member leaves the cascade (R581). -/
def loseMember (s : State) (p : Nat) : State :=
  if !isMaster s || p == s.cas.pos || s.cas.lost.contains p || !(foundPositions s).contains p then s
  else
    let s1 := updCas s (fun c => { c with
      lost := c.lost ++ [p], joining := c.joining.filter (· ≠ p), ready := c.ready &&& ~~~(BitVec.ofNat 8 (2 ^ p)) })
    faultEvent (raise (failForwarded s1 p) evCas 2)

/-- The members that a change of the links has left unreachable are lost. -/
def loseUnreached (was s : State) : State :=
  let far := (reached was).filter (fun p => !(reached s).contains p)
  far.foldl loseMember s

/-- A late or restarted member admitted (R568). -/
def joinMember (s : State) (p : Nat) : State :=
  if s.cas.joining.contains p then
    raise (updCas s (fun c => { c with
      joining := c.joining.filter (· ≠ p), lost := c.lost.filter (· ≠ p), count := (foundPositions s).length })) evCas 3
  else s

/-- MEMBER_LOST (R577, R581): a member of which the master has heard nothing for 20 ms. -/
def execMemberLost (pos : Nat) (s : State) : Out :=
  .next (if decide (tabAt 0 s.cas.heard pos + 20 * msTicks ≤ now s) then loseMember s pos else s)

/-! ### The end of cascade start (R567) -/

/-- The cause of a role conflict: 1 two masters, 2 no master, 3 chain fault; 0 for none. -/
def conflictCause (s : State) : Nat :=
  let masters := (s.cas.roles.filter (fun e => e.2 == 1)).length
  if 2 ≤ masters then 1 else if masters = 0 then 2 else if s.cas.chainFault || s.cas.dupPos then 3 else 0

/-- The role-conflict state: the start is abandoned, the Tabfer links stop, a host link that is up goes down, and the device
reports it. -/
def enterConflict (s : State) (cause : Nat) : State :=
  let s1 := (List.range 4).foldl dropLink s
  let s2 := { s1 with
    power := { s1.power with stage := none, earlyMedia := false, ready := false }
    cas := { s1.cas with roleCode := 3, conflict := BitVec.ofNat 3 cause, links := [] } }
  queueFrame (raise (settleClocks s s2) evCas 0) 0 [4]

/-- The cascade as its start leaves it: alone when no other device was found. -/
def settleCascade (s : State) : State :=
  let n := (foundPositions s).length
  let cause := conflictCause s
  if cause ≠ 0 then enterConflict (updCas s (fun c => { c with count := n, settled := true })) cause
  else
    let role : BitVec 2 := if n = 1 then 0 else if s.power.casRole then 1 else 2
    let readyNow := tabKeys (fun k => decide (7 ≤ k)) s.cas.stages
    ownReady (updCas s (fun c => { c with
      roleCode := role, count := n, settled := true, tcbQueue := if n = 1 then [] else c.tcbQueue
      ready := if n = 1 then 0 else readyNow.foldl (fun m p => m ||| BitVec.ofNat 8 (2 ^ p)) c.ready }))

/-- CASCADE_START_END (R565, R567): 100 ms after cascade start began, positions and roles are settled. MATCH_IN is read for the last time; afterwards the match
chain has the lines. -/
def execCascadeStartEnd (matchIn : BitVec 4) (s : State) : Out :=
  .next <|
    if !s.cas.opened || s.cas.settled || !elapsed s s.cas.startAt (100 * msTicks) then s
    else
      let p := positionOf s matchIn
      let q := s.cas.pos
      let own (c : Cas) : Cas :=
        if p = q then c
        else { c with
          pos := p, roles := tabPut (tabDel c.roles q) p (if s.power.casRole then 1 else 2)
          serials := tabPut (tabDel c.serials q) p s.power.serial }
      settleCascade (takeFree (updCas s own))

/-! ### The coordination bus (R574 to R577) -/

/-- The frame tried again, at most 3 times after the first (R575). -/
def retryFrame (q : List TcbFrame) (f : TcbFrame) : List TcbFrame :=
  if 3 ≤ f.tries then q.erase f else updFirst (fun x => x == f) (fun x => { x with tries := x.tries + 1 }) q

/-- TCB_FRAME_SEND (R574 to R576): the oldest frame of a kind that waits is sent; with a stronger sender on the bus it waits on,
and a winner of the same KIND and SRC is a chain fault. The SOF edge of SYNC is stamped, and SYNC_FOLLOW carries the stamp. -/
def execTcbFrameSend (kind : BitVec 4) (winner : Option (BitVec 4 × BitVec 3)) (acked : Bool) (s : State) : Out :=
  .next <|
    match s.cas.tcbQueue.find? (fun f => f.kind == kind) with
    | none => s
    | some f =>
      match winner with
      | some (k, src) =>
        if k = kind ∧ src.toNat = s.cas.pos then updCas s (fun c => { c with chainFault := true }) else s
      | none =>
        let s1 := if kind = 1 then { s with time := { s.time with syncStamp := now s } } else s
        if acked then
          let s2 := updCas s1 (fun c => { c with tcbQueue := c.tcbQueue.erase f })
          if kind = 1 then queueFrame s2 2 (leBytes (now s) 8) else s2
        else updCas s1 (fun c => { c with tcbQueue := retryFrame c.tcbQueue f })

/-- ALARM (R577, R581, R584): the master loses a member in thermal shutdown or device reset; a device reset of the master resets
every member. -/
def execAlarm (src : Nat) (code : Byte) (s : State) : Out :=
  let s1 := raise (noteHeard s src) evCas 4
  .next <|
    if isMaster s && (code == 1 || code == 3) then loseMember s1 src
    else if isMember s && code == 3 && masterPos s == some src then resetDevice s1 2
    else s1

/-- ROLE (R567, R568): a claim in cascade start; a late claim of the master role is only reported. -/
def execRole (src : Nat) (claim : Byte) (s : State) : Out :=
  let s1 := noteHeard s src
  .next <|
    if !s.cas.settled then updCas s1 (fun c => { c with roles := tabPut c.roles src claim })
    else if claim = 1 ∧ (s.cas.roleCode = 1 ∨ s.cas.roleCode = 2) then raise s1 evCas 0
    else s1

/-- The links that may lead to a device that announces itself late are trained (R568, R573). -/
def trainToward (at_ : Nat) (c : Cas) (src : Nat) : Cas :=
  { c with links := c.links.map (fun e =>
      (e.1, if e.2.st = 0 || (e.2.peerPos = src && e.2.st = 4) then { e.2 with st := 1, trainAt := at_ } else e.2)) }

/-- ANNOUNCE (R567, R568): a serial number in cascade start, where a second device at a position is a fault; later, a member that
joins the master. -/
def execAnnounce (src : Nat) (serial : Qword) (s : State) : Out :=
  let s1 := noteHeard s src
  let twice := src == s.cas.pos || (match tabGet s.cas.serials src with | some n => n != serial | none => false)
  .next <|
    if !s.cas.settled then
      updCas s1 (fun c => { c with dupPos := c.dupPos || twice, serials := if src = c.pos then c.serials else tabPut c.serials src serial })
    else if isMaster s then
      updCas s1 (fun c => trainToward (now s) { c with
        serials := tabPut c.serials src serial, stages := tabDel c.stages src, ready := c.ready &&& ~~~(BitVec.ofNat 8 (2 ^ src))
        joining := c.joining.filter (· ≠ src) ++ [src] } src)
    else updCas s1 (fun c => { c with serials := tabPut c.serials src serial })

/-- LINK (R572, R577): a link of another device has come up or gone down. -/
def execLink (src : Nat) (data : BitVec 16) (s : State) : Out :=
  let n := data.toNat
  let s1 := updCas (noteHeard s src) (fun c => { c with
    topo := tabPut c.topo (src * 4 + natFld n 0 3 % 4) (natFld n 4 3, n.testBit 8) })
  .next (loseUnreached s s1)

/-- READY (R577): the start stage that a device has reached; with stage 7 it is ready. -/
def execReady (src stage : Nat) (s : State) : Out :=
  let s1 := updCas (noteHeard s src) (fun c => { c with stages := tabPut c.stages src stage })
  let bit := BitVec.ofNat 8 (2 ^ src)
  .next <|
    if s.cas.roleCode = 1 ∨ s.cas.roleCode = 2 then
      if 7 ≤ stage then
        let s2 := joinMember s1 src
        if s2.cas.lost.contains src then s2 else updCas s2 (fun c => { c with ready := c.ready ||| bit })
      else updCas s1 (fun c => { c with ready := c.ready &&& ~~~bit })
    else s1

/-! ### Time (R578) -/

/-- CAS_CFG.SYNC_MS within its bounds, in ticks. -/
def syncTicks (s : State) : Nat := within 1 1000 (regFld s 0x2000008 0 16) * msTicks

/-- SYNC_SEND: the master's SYNC is due. -/
def execSyncSend (s : State) : Out :=
  .next <|
    if isMaster s && decide (s.time.syncAt + syncTicks s ≤ now s) then
      queueFrame { s with time := { s.time with syncAt := now s } } 1 []
    else s

/-- Its sender is the master: a device in its cascade start learns of a cascade that runs (R568). -/
def knowMaster (s : State) (src : Nat) : State :=
  if s.cas.opened && !s.cas.settled then updCas s (fun c => { c with roles := tabPut c.roles src 1 }) else s

/-- SYNC: a member stamps its SOF edge with the local time copy. -/
def execSync (src : Nat) (s : State) : Out :=
  let s1 := knowMaster (noteHeard s src) src
  .next (if isMaster s then s1 else { s1 with time := { s1.time with syncStamp := islandTime s isCascade } })

/-- SYNC_FOLLOW: a member corrects its counter toward the master's value; CAS_TIME_OFFSET keeps the difference. -/
def execSyncFollow (src : Nat) (masterTime : Qword) (s : State) : Out :=
  let s1 := knowMaster (noteHeard s src) src
  let off : Int := (s.time.syncStamp : Int) - (masterTime.toNat : Int)
  .next <|
    if isMember s then
      let s2 := alignTime s1 off
      { s2 with time := { s2.time with syncOffset := off, syncAt := now s2, syncLost := false } }
    else s1

/-- SYNC_LOST: a member without SYNC_FOLLOW for 10 periods. -/
def execSyncLost (s : State) : Out :=
  let since := Nat.max s.time.syncAt s.power.startAt
  .next <|
    if isMember s && decide (since + 10 * syncTicks s ≤ now s) then
      raise { s with time := { s.time with syncLost := true } } evCas 5
    else s

/-! ### Tabfer links (R569 to R573) -/

/-- A link, and the state with one changed. -/
def linkAt (s : State) (l : Nat) : Link := tabAt {} s.cas.links l
def updLink (s : State) (l : Nat) (f : Link → Link) : State := updCas s (fun c => { c with links := tabUpd {} c.links l f })

/-- The LINK frame of a link (R577). -/
def linkFrame (s : State) (l : Nat) (up : Bool) : State :=
  queueFrame s 5 (leBytes (l + (linkAt s l).peerPos % 8 * 16 + bitNat up * 256) 2)

/-- TABFER_LINK_TRAINED (R570): a link that joins the device to itself stays unused. -/
def execTabferLinkTrained (l : Nat) (serial : Qword) (pos peerLink : Nat) (rev : Bool) (polarity : BitVec 8) (s : State) : Out :=
  .next <|
    if (linkAt s l).st ≠ 1 then s
    else if serial = s.power.serial then updLink s l (fun _ => {})
    else
      let s1 := updLink s l (fun x => { x with
        st := 2, peerPos := pos, peerLink := peerLink, peerSerial := serial, rev := rev, polarity := polarity, inRow := 0 })
      joinMember (linkFrame (noteHeard s1 pos) l true) pos

/-- TABFER_TRAIN_TIMEOUT (R570): a link that has not trained within 40 ms stays unused. -/
def execTabferTrainTimeout (l : Nat) (s : State) : Out :=
  .next (if (linkAt s l).st = 1 ∧ elapsed s (linkAt s l).trainAt (40 * msTicks) then updLink s l (fun _ => {}) else s)

/-- TABFER_LOSS_OF_LOCK (R572): the link retrains, and its traffic is held. -/
def execTabferLossOfLock (l : Nat) (s : State) : Out := .next (if (linkAt s l).st = 2 then updLink s l (fun x => { x with st := 3 }) else s)

/-- Flits in a link's retry buffer, which holds at most 64 (R572). -/
def pushRetry (s : State) (l : Nat) (f : Flit) : State := updLink s l (fun x => { x with retry := x.retry ++ [f] })

/-- The flits of a link that went down sent again on the new routes. -/
def rerouteFlits (s : State) (fs : List Flit) : State :=
  fs.foldl (fun t f =>
    match routeTo t f.dst with
    | some l => pushRetry t l f
    | none => t) s

/-- TABFER_RETRAIN_END (R572): the link is up again, or down, with LINK_DOWN, a LINK frame, its flits on other routes, and a fault
open (R46). -/
def execTabferRetrainEnd (l : Nat) (ok : Bool) (s : State) : Out :=
  .next <|
    if (linkAt s l).st ≠ 3 then s
    else if ok then updLink s l (fun x => { x with st := 2, inRow := 0 })
    else
      let fs := (linkAt s l).retry
      let s1 := updLink s l (fun x => { x with st := 4, inRow := 0, retry := [] })
      wantFaultEvent (rerouteFlits (loseUnreached s (linkFrame (raise s1 evCas 1) l false)) fs)

/-- Held flits that have become due are delivered in order (R572). -/
def deliverHeld (c : Cas) (src : Nat) : Nat → Cas
  | 0 => c
  | n + 1 =>
    let next := tabAt 0 c.recvSeq src
    match c.heldFlits.find? (fun f => f.src == src && f.seq == next) with
    | some f => deliverHeld { c with
        heldFlits := c.heldFlits.erase f, delivered := c.delivered + 1, recvSeq := tabPut c.recvSeq src (next + 1) } src n
    | none => c

/-- A good flit for this device: a number already received is discarded, one after a gap is held, the next is delivered with
those that it frees (R572). -/
def takeFlit (c : Cas) (f : Flit) : Cas :=
  let next := tabAt 0 c.recvSeq f.src
  if f.seq < next ∨ c.heldFlits.contains f then c
  else if next < f.seq then { c with heldFlits := c.heldFlits ++ [f] }
  else
    deliverHeld { c with delivered := c.delivered + 1, recvSeq := tabPut c.recvSeq f.src (next + 1) } f.src (c.heldFlits.length)

/-- An acknowledgement frees the flits of the retry buffer up to the one it names. -/
def ackRetry (l : List Flit) (n : Nat) : List Flit :=
  if l.any (fun f => f.seq == n) then (l.dropWhile (fun f => f.seq != n)).drop 1 else l

/-- FLIT_RECEIVED (R571 to R573): a flit whose CRC fails is replayed, and after 16 replays in a row the link retrains; a good one
is acknowledged, and taken or passed on. -/
def execFlitReceived (l : Nat) (f : Flit) (s : State) : Out :=
  let x := linkAt s l
  .next <|
    if x.st ≠ 2 then s
    else if !f.crcOk then
      let again := x.inRow + 1
      updLink s l (fun y => { y with
        replays := Nat.min 255 (y.replays + 1), inRow := if 16 ≤ again then 0 else again, st := if 16 ≤ again then 3 else y.st })
    else
      let s1 := noteHeard (updLink s l (fun y => { y with
        inRow := 0, retry := match f.ack with | some n => ackRetry y.retry n | none => y.retry })) f.src
      if f.dst = s.cas.pos then updCas s1 (fun c => takeFlit c f)
      else
        match routeTo s1 f.dst with
        | some out => if (linkAt s1 out).retry.length < 64 then pushRetry s1 out f else s1
        | none => s1

/-! ### Remote register accesses (R585) -/

/-- CAS_RMT_CTL written: a reserved OP, or a write on a member, ends with RESULT 3h; no ready member at POS with 1h. A write while
an access is in progress starts none. -/
def startRemote (s : State) (op pos : Nat) : State :=
  let r (n : Nat) : State := updCas s (fun c => { c with rmtResult := BitVec.ofNat 4 n })
  if s.cas.remote.isSome then s
  else if op = 0 ∨ 3 < op ∨ isMember s then r 3
  else if !isMaster s || pos = s.cas.pos || !s.cas.ready.getLsbD pos then r 1
  else updCas s (fun c => { c with remote := some { op := op, pos := pos, at_ := now s } })

/-- RMT_READ: OP 01b. -/
def execRmtRead (_p : Path) (pos : Nat) (s : State) : Out := .next (startRemote s 1 pos)

/-- RMT_WRITE: OP 10b. -/
def execRmtWrite (_p : Path) (pos : Nat) (s : State) : Out := .next (startRemote s 2 pos)

/-- RMT_GUARDED_WRITE: OP 11b; the member makes the whole RWG commit. -/
def execRmtGuardedWrite (_p : Path) (pos : Nat) (s : State) : Out := .next (startRemote s 3 pos)

/-- The end of a remote access with its RESULT and, for a read, the data. -/
def endRemote (s : State) (result : Nat) (data : Dword) : State :=
  match s.cas.remote with
  | none => s
  | some x =>
    let s1 := updCas s (fun c => { c with remote := none, rmtResult := BitVec.ofNat 4 result })
    if x.op = 1 then setReg s1 0x2000048 data else s1

/-- RMT_ANSWER: the member has answered. -/
def execRmtAnswer (data : Dword) (s : State) : Out := .next (endRemote s 0 data)

/-- RMT_TIMEOUT: 50 µs without an answer. -/
def execRmtTimeout (s : State) : Out :=
  .next <|
    match s.cas.remote with
    | none => s
    | some x => if x.at_ + 50 * usTicks ≤ now s then endRemote s 2 0xFFFFFFFF else s

end Sys2Proof.Machine
end

