-- ==== Sys2Proof/Machine/Codecs.lean ====
section
/-! DEFINITION. Preemption of codec units (R371, R372). -/

namespace Sys2Proof.Machine

/-- Whether a pool is one of the codec island's. -/
def isCodecPool (p : Pool) : Bool := p == .comp || p == .dec || p == .henc

/-- CDC_PREEMPT_CFG.SLICE_US as it applies. -/
def codecSlice (s : State) : Nat := let n := regFld s 0x160000C 0 16; if n = 0 then 0 else Nat.max 50 n

/-- Whether a piece must give up its unit at its next save point: it has held it for SLICE_US while a piece of another stage
waits, or the slot in progress does not serve its tenant. -/
def codecDue (s : State) (x : CodecUse) : Bool :=
  let waits := s.codec.uses.any (fun y => y.pool == x.pool && y.unit.isNone && (y.job != x.job || y.stage != x.stage))
  (codecSlice s ≠ 0 && waits && decide (x.since + codecSlice s * usTicks ≤ now s)) || !servesFor s x.tenant (codecLeast x.pool)

/-- CODEC_PREEMPT (R372): the state of the piece on a unit is saved and the unit released. -/
def execCodecPreempt (pool : Pool) (unit : Nat) (s : State) : Out :=
  .next <|
    match s.codec.uses.find? (fun x => x.pool == pool && x.unit == some unit) with
    | none => s
    | some x =>
      if !isCodecPool pool || !codecDue s x then s
      else
        let uses := s.codec.uses.erase x ++ [{ x with unit := none, saved := true }]
        fillCodec { s with codec := { uses := uses, saves := Nat.min 65535 (s.codec.saves + 1) } } pool

/-- CODEC_RESUME (R372): the oldest preempted piece resumes on a free unit of its pool. -/
def execCodecResume (pool : Pool) (unit : Nat) (s : State) : Out :=
  .next (if isCodecPool pool && (freeCodec s pool).contains unit then takeCodec s pool true unit else s)

end Sys2Proof.Machine
end

