-- ==== Sys2Proof/Machine/Firmware.lean ====
section
/-! DEFINITION. Firmware Image Download and Commit, Virtualization Management (R41, R54, R242, R248). -/

namespace Sys2Proof.Machine

/-- The largest image, 32 MiB. -/
def imageMax : Nat := 33554432

/-- FIRMWARE_IMAGE_DOWNLOAD: a piece of the image, in units of 4 KiB. -/
def execFirmwareImageDownload (c : NvCmd) (s : State) : Out :=
  let len := (c.c10.toNat + 1) * 4
  let off := c.c11.toNat * 4
  let checks (t : State) : Option Status :=
    firstBad
      [ openChecks c ([(c.nsid, 0xFFFFFFFF), (c.c12, 0xFFFFFFFF), (c.c13, 0xFFFFFFFF), (c.c14, 0xFFFFFFFF),
          (c.c15, 0xFFFFFFFF)] ++ c23 c),
        badIf (!isPhysical t c.id.fn ∨ len % 4096 ≠ 0 ∨ off % 4096 ≠ 0 ∨ imageMax < off + len) stInvalidField,
        badIf (2097152 < len) stInvalidField, badIf (!c.memOk) stDataTransfer ]
  .next <| cmdRun s c 0x11 false checks (fun t =>
    let img := overlayAt (padTo (Nat.max t.host.fwImage.length (off + len)) t.host.fwImage) off (padTo len c.data)
    complete { t with host := { t.host with fwImage := img } } c.id stSuccess)

/-- FIRMWARE_COMMIT: actions 000b and 001b put the image into a slot, 001b and 010b name the slot for the next start. An image whose
signature does not verify is refused (R54). The version that an image carries is free (log 3). -/
def execFirmwareCommit (c : NvCmd) (signed : Bool) (s : State) : Out :=
  let slot := fld c.c10 0 3
  let act := fld c.c10 3 3
  let checks (t : State) : Option Status :=
    firstBad
      [ openChecks c ([(c.nsid, 0xFFFFFFFF), (c.c10, 0xFFFFFFC0), (c.c11, 0xFFFFFFFF), (c.c12, 0xFFFFFFFF), (c.c13, 0xFFFFFFFF),
          (c.c14, 0xFFFFFFFF), (c.c15, 0xFFFFFFFF)] ++ c23 c),
        badIf (!isPhysical t c.id.fn ∨ 2 < act) stInvalidField, badIf (slot = 0 ∨ 2 < slot) stInvalidSlot,
        badIf (act ≤ 1 ∧ (!signed ∨ t.host.fwImage.isEmpty)) stInvalidImage,
        badIf (act = 2 ∧ (tabGet t.host.fwSlots slot).isNone) stInvalidImage ]
  .next <| cmdRun s c 0x10 false checks (fun t =>
    let t1 := if act ≤ 1 then
        { takeFree t with host := { t.host with
            fwSlots := tabPut t.host.fwSlots slot ((freeNow t).toNat % 2 ^ 32), fwImage := [] } }
      else t
    let t2 := if act = 0 then t1 else { t1 with host := { t1.host with fwNext := some slot } }
    complete t2 c.id stSuccess)

/-! ### VIRTUALIZATION_MANAGEMENT (R242) -/

/-- What an assignment may give a secondary controller of a kind of resource: 1,024 queue pairs within the port's pool, 64
interrupt vectors. -/
def mayAssign (s : State) (g rt n : Nat) : Bool :=
  if rt = 1 then decide (n ≤ 64)
  else decide (n ≤ 1024) && decide (flexAssigned s (fnPort s g) - (ctrlAt s g).flexQ + n ≤ flexPool s)

/-- VIRTUALIZATION_MANAGEMENT: actions 1h (for the primary controller, which has no flexible resources), 7h offline, 8h assign,
9h online. -/
def execVirtualizationManagement (c : NvCmd) (s : State) : Out :=
  let f := c.id.fn
  let act := fld c.c10 0 4
  let rt := fld c.c10 8 3
  let g := fld c.c10 16 16 - 1
  let n := fld c.c11 0 16
  let secondary (t : State) : Bool := decide (0 < fld c.c10 16 16) && fnPort t g == fnPort t f && !isPhysical t g
  let checks (t : State) : Option Status :=
    firstBad
      [ adminChecks t c ([(c.nsid, 0xFFFFFFFF), (c.c10, 0xF8F0), (c.c11, 0xFFFF0000), (c.c12, 0xFFFFFFFF), (c.c13, 0xFFFFFFFF),
          (c.c14, 0xFFFFFFFF), (c.c15, 0xFFFFFFFF)] ++ c23 c),
        badIf (!isPhysical t f ∨ !(act = 1 ∨ act = 7 ∨ act = 8 ∨ act = 9)) stInvalidField,
        badIf (if act = 1 then fld c.c10 16 16 ≠ f + 1 else !secondary t) stCtrlId,
        badIf ((act = 1 ∨ act = 8) ∧ 1 < rt) stResId, badIf (act = 1 ∧ n ≠ 0) stResCount,
        badIf (act = 8 ∧ (ctrlAt t g).online) stSecState, badIf (act = 8 ∧ !mayAssign t g rt n) stResCount,
        badIf (act = 9 ∧ ((ctrlAt t g).flexQ = 0 ∨ (ctrlAt t g).flexI = 0)) stSecState ]
  .next <| cmdRun s c 0x1C false checks (fun t =>
    if act = 1 then complete t c.id stSuccess
    else if act = 7 then
      complete (updCtrl (resetFns t (fun x => x == g)) g (fun k => { k with flexQ := 0, flexI := 0, online := false })) c.id stSuccess
    else if act = 8 then
      completeWith (updCtrl t g (fun k => if rt = 1 then { k with flexI := n } else { k with flexQ := n })) c.id stSuccess
        (dwordOf n) 0 []
    else complete (updCtrl t g (fun k => { k with online := true })) c.id stSuccess)

end Sys2Proof.Machine
end

