-- ==== Sys2Proof/Machine/Fpu.lean ====
section
/-! DEFINITION. The floating-point instructions (R441, R455). -/

namespace Sys2Proof.Machine

/-- A NaN result: the manual does not state which NaN, so its sign and payload are free (log 33). -/
def freeNan (s : State) : Dword := 0x7FC00000 ||| ((freeNow s).extractLsb' 0 32 &&& 0x803FFFFF)

/-- Whether a word's value is a NaN. -/
def nanW (w : W36) : Bool := f32.dec (wVal w).toNat == .nan

/-- The quality of a result from its operands: raised to at least 7h by an operand that is a NaN (R441). -/
def fpQ (ws : List W36) : Nat :=
  let q := ws.foldl (fun a w => Nat.max a (wQ w)) 0
  if ws.any nanW then Nat.max q 7 else q

/-- Whether the reserved bits of fn are zero (R455). -/
def fpLegal (f : Rg) : Bool := !f.fn.getLsbD 10 && !f.fn.getLsbD 8 && f.fn.extractLsb' 5 3 == 0

/-- The effect of writing a floating-point result, with Z, N and QG where F is set. -/
def fpDone (s : State) (f : Rg) (w : W36) : Eff :=
  let x := descAt s f.t
  let s1 := wr s f.t f.rd w
  .done (if f.fn.getLsbD 9 then wrFl s1 f.t (resultFlags x.fl x.qm (wVal w) (wQ w) none none) else s1)

/-- A result of operands `ws`: the pattern, or for none a NaN, which raises the quality to at least Bh where no operand is
a NaN (R441). `zeroDiv` says that it divides by zero. -/
def fpResult (s : State) (f : Rg) (ws : List W36) (r : Option Nat) (zeroDiv : Bool) : Eff :=
  let q := fpQ ws
  match r with
  | some v => fpDone s f (mkW (if zeroDiv then raiseQ q else q) (dwordOf v))
  | none => fpDone (takeFree s) f (mkW (if ws.any nanW && !zeroDiv then q else raiseQ q) (freeNan s))

/-- A two-operand operation. -/
def fpTwo (s : State) (f : Rg) (op : Nat → Nat → Option Nat) (div : Bool) : Out :=
  runRg s f (fpLegal f) (fun s =>
    let a := rd s f.t f.ra
    let b := rd s f.t f.rb
    fpResult s f [a, b] (op (wVal a).toNat (wVal b).toNat) (div && (wVal b).toNat % 2 ^ 31 == 0))

/-- FADD. -/
def execImFadd (f : Rg) (s : State) : Out := fpTwo s f f32.add false

/-- FSUB. -/
def execImFsub (f : Rg) (s : State) : Out := fpTwo s f f32.sub false

/-- FMUL. -/
def execImFmul (f : Rg) (s : State) : Out := fpTwo s f f32.mul false

/-- FDIV: a division by zero raises the quality (R441). -/
def execImFdiv (f : Rg) (s : State) : Out := fpTwo s f f32.div true

/-- FMIN and FMAX: `less` is the outcome in which ra is selected; a NaN loses to a number, and of −0 and +0 the manual does
not say which is given, so that value is free (log 33). -/
def fpPick (s : State) (f : Rg) (less : FpOrd) : Out :=
  runRg s f (fpLegal f) (fun s =>
    let a := rd s f.t f.ra
    let b := rd s f.t f.rb
    let q := fpQ [a, b]
    if nanW a && nanW b then fpDone (takeFree s) f (mkW q (freeNan s))
    else if nanW a then fpDone s f (mkW (Nat.max 7 (wQ b)) (wVal b))
    else if nanW b then fpDone s f (mkW (Nat.max 7 (wQ a)) (wVal a))
    else
      let o := f32.cmp (wVal a).toNat (wVal b).toNat
      if o = .eq then
        if wVal a = wVal b then fpDone s f (mkW q (wVal a))
        else fpDone (takeFree s) f (mkW q (if (freeNow s).getLsbD 0 then wVal a else wVal b))
      else if o = less then fpDone s f a else fpDone s f b)

/-- FMIN. -/
def execImFmin (f : Rg) (s : State) : Out := fpPick s f .lt

/-- FMAX. -/
def execImFmax (f : Rg) (s : State) : Out := fpPick s f .gt

/-- FCMP: flags only, whatever F holds; rd must be 0. -/
def execImFcmp (f : Rg) (s : State) : Out :=
  runRg s f (fpLegal f && f.rd == 0) (fun s =>
    let x := descAt s f.t
    let a := gReg x f.ra
    let b := gReg x f.rb
    let qg := accepts x.qm (fpQ [a, b])
    let fl :=
      match f32.cmp (wVal a).toNat (wVal b).toNat with
      | .lt => setFl x.fl false true false false qg
      | .eq => setFl x.fl true false true false qg
      | .gt => setFl x.fl false false true false qg
      | .unordered => setFl x.fl false false true true qg
    .done (wrFl s f.t fl))

/-- A conversion of ra from an integer; rb must be 0. -/
def fpFromInt (s : State) (f : Rg) (val : Dword → Int) : Out :=
  runRg s f (fpLegal f && f.rb == 0) (fun s =>
    let a := rd s f.t f.ra
    fpDone s f (mkW (wQ a) (dwordOf (f32.ofInt (val (wVal a))))))

/-- FCVTIS. -/
def execImFcvtis (f : Rg) (s : State) : Out := fpFromInt s f (fun v => v.toInt)

/-- FCVTIU. -/
def execImFcvtiu (f : Rg) (s : State) : Out := fpFromInt s f (fun v => (v.toNat : Int))

/-- The i32 of a pattern: truncated toward zero, saturated, 0 for a NaN; and whether R441 raises its quality. -/
def cvtToInt (v : Dword) : Dword × Bool :=
  match f32.dec v.toNat with
  | .nan => (0, true)
  | .inf neg => (if neg then 0x80000000 else 0x7FFFFFFF, true)
  | .fin _ _ _ =>
    let x := (f32.trunc v.toNat).getD 0
    if x < -2147483648 then (0x80000000, true)
    else if 2147483647 < x then (0x7FFFFFFF, true)
    else (dwordOfInt x, false)

/-- FCVTSI. -/
def execImFcvtsi (f : Rg) (s : State) : Out :=
  runRg s f (fpLegal f && f.rb == 0) (fun s =>
    let a := rd s f.t f.ra
    let r := cvtToInt (wVal a)
    fpDone s f (mkW (if r.2 then raiseQ (wQ a) else wQ a) r.1))

/-- An operation on the sign bit of ra; rb must be 0. -/
def fpSign (s : State) (f : Rg) (op : Dword → Dword) : Out :=
  runRg s f (fpLegal f && f.rb == 0) (fun s =>
    let a := rd s f.t f.ra
    fpDone s f (mkW (fpQ [a]) (op (wVal a))))

/-- FABS. -/
def execImFabs (f : Rg) (s : State) : Out := fpSign s f (fun v => v &&& 0x7FFFFFFF)

/-- FNEG. -/
def execImFneg (f : Rg) (s : State) : Out := fpSign s f (fun v => v ^^^ 0x80000000)

/-- FSQRT. -/
def execImFsqrt (f : Rg) (s : State) : Out :=
  runRg s f (fpLegal f && f.rb == 0) (fun s =>
    let a := rd s f.t f.ra
    fpResult s f [a] (f32.sqrt (wVal a).toNat) false)

end Sys2Proof.Machine
end

