-- ==== Sys2Proof/Machine/Ftl.lean ====
section
/-! DEFINITION. The commands of translation and media management (R160 to R199). -/

namespace Sys2Proof.Machine

/-! ### Map pages (R162, R163, R232) -/

/-- The overlay entries of a leaf page written into it; the page is dirty from the oldest record that both root images do not
contain and that names a unit of it (R232). -/
def mergeOverlay (s : State) (page : Nat) : State :=
  let mine := s.ftl.overlay.filter (fun e => leafOf e.1 == page)
  if mine.isEmpty then s
  else
    let names (r : JRec) : Bool := decide (cpBoth s < r.seq) && r.entries.any (fun e => changedPage r.type e == some page)
    let oldest := ((s.etch.live.find? names).map (·.seq)).getD s.etch.seq
    let s1 := mine.foldl (fun t e => { t with ftl := { t.ftl with map := tabSet 0 t.ftl.map e.1 e.2 } }) s
    markDirty { s1 with ftl := { s1.ftl with overlay := s1.ftl.overlay.filter (fun e => leafOf e.1 ≠ page) } } page oldest

/-- Full residency (R163): the whole map is resident, or the cache is full; FTL_EVENT.MAP_FULL is set when it is reached. -/
def settleResidency (s : State) : State :=
  let full := s.ftl.mapLoc.all (fun e => s.ftl.resident.contains e.1) || cachePages s ≤ s.ftl.resident.length
  if full && !s.ftl.mapFull && s.power.ready then raise { s with ftl := { s.ftl with mapFull := true } } evFtl 6 else s

/-- MAP_PAGE_LOADED (R162): the page joins the cache with its overlay entries, and commands that waited for it go on. In a full cache it
replaces the least recently used clean page; while all are dirty, one is written back and the page stays wanted. -/
def execMapPageLoaded (nsid level index : Nat) (s : State) : Out :=
  let page := pageKey nsid level index
  if (tabGet s.ftl.mapLoc page).isNone then .next s
  else
    let s0 := { s with ftl := { s.ftl with resident := s.ftl.resident.filter (· ≠ page) } }
    if !cacheRoom s0 then .next (freeCache s)
    else
      let s1 := if s0.ftl.resident.length < cachePages s then s0 else dropClean s0
      let s2 := { s1 with ftl := { s1.ftl with
          resident := s1.ftl.resident ++ [page], wanted := s1.ftl.wanted.filter (· ≠ page) } }
      .next (resumeCmds (settleResidency (if level = 0 then mergeOverlay s2 page else s2)))

/-- The next page of background loading: every directory page, then leaf pages by first access of their namespaces and
ascending unit (R163). The rule orders by first access and names no place for namespaces never accessed since the start: their leaf
pages come last, by NSID (DESIGN CHOICE, log 134). -/
def prefetchNext (s : State) : Option Nat :=
  let missing := (s.ftl.mapLoc.map (·.1)).filter (fun p => !s.ftl.resident.contains p && !s.ftl.wanted.contains p)
  match missing.find? (fun p => !isLeafPage p) with
  | some d => some d
  | none =>
    let rest := s.ftl.accessed ++ (s.ftl.namespaces.map (·.1)).filter (fun n => !s.ftl.accessed.contains n)
    rest.findSome? (fun n => missing.find? (fun p => p / 2 ^ 48 == n))

/-- MAP_PREFETCH (R163): after ready, while PREFETCH is not 0 and full residency has not been reached, the next page is asked
for. -/
def execMapPrefetch (s : State) : Out :=
  let s1 := settleResidency s
  if !s.power.ready || regFld s 0xC00014 8 8 = 0 || s1.ftl.mapFull || !servesTenant s 0 then .next s1
  else
    match prefetchNext s1 with
    | some p => .next (wantPages s1 [p])
    | none => .next s1

/-! ### The meadow, the Gleaner, the Fallow sweep -/

/-- MEADOW_RECOMPUTE (R172): once a second. -/
def execMeadowRecompute (s : State) : Out :=
  if !isDue s s.ftl.meadowAt secTicks then .next s
  else
    .next { s with ftl := { s.ftl with
        meadowTarget := meadowTargetNow s, meadowShare := meadowShareNow s, meadowAt := now s } }

/-- Whether the Gleaner may run: records are possible, it has not stopped (R613), and tag 0 is served on some channel set (R521,
R524). -/
def gleanerRuns (s : State) : Bool := canProgram s && anyServed s

/-- The victim of the first of some families that has one. -/
def shortVictim (s : State) (fams : List (BitVec 2)) : Option Swath := fams.findSome? (reclaimVictim s)

/-- The requests that are served: nothing mapped is left in the swath of the block that they name (R174). -/
def workDone (s : State) (w : Work) : Bool :=
  match swathOf s w.die w.block with
  | some v => (mappedIn s v).isEmpty
  | none => true

/-- The Gleaner's requests brought up to date. -/
def settleWork (s : State) : State :=
  noteShort { s with ftl := { s.ftl with work := s.ftl.work.filter (fun w => !workDone s w) } }

/-- The victim of the oldest request of a priority that has something left to copy. -/
def namedVictim (s : State) (prio : Nat) : Option Swath :=
  (s.ftl.work.filter (fun w => w.prio == prio)).findSome? (fun w =>
    (swathOf s w.die w.block).bind (fun v => if (stillIn s v).isEmpty || !setServed s v.chset then none else some v))

/-- The victim of the highest of the priorities 2 to 6 that has work (R174, R175). -/
def nextVictim (s : State) : Option Swath :=
  [namedVictim s 2, shortVictim s s.ftl.shortLow, namedVictim s 4,
    if s.ftl.meadowTarget < meadowShareNow s then foldVictim s else none, shortVictim s s.ftl.shortHigh].findSome? id

/-- GLEANER_DISPATCH (R174): the highest priority that has work, its oldest request, and its victim relocated. A request stands until
nothing mapped is left where it points. Rebuild and the moving of anchors are confined to no set (R521). -/
def execGleanerDispatch (s : State) : Out :=
  if !gleanerRuns s then .next s
  else
    let all := servesTenant s 0
    let s := settleWork (if all then takeAnchors (if (rebuildWork s).isNone then settleRebuild s else s) else s)
    match if all then rebuildWork s else none with
    | some (r, w, ms) =>
      let res := relocate s w ms false
      .next (if res.2 then settleRebuild res.1 else failRebuild res.1 r)
    | none =>
      match nextVictim s with
      | some v => .next (relocate s v (mappedIn s v) false).1
      | none => .next s

/-- The spread of ERASE_COUNT of a die over its non-retired blocks of families 0 to 2 (R178). -/
def dieSpread (s : State) (die : Nat) : Nat :=
  let es := ((dataBlocks s).filter (fun e => keyDie e.1 == die)).map (·.2.erases)
  match es with
  | [] => 0
  | x :: xs => xs.foldl max x - xs.foldl min x

/-- The dies that hold blocks. -/
def blockDies (s : State) : List Nat := setOfNats (s.ftl.blocks.map (fun e => keyDie e.1))

/-- The swath that holds a die's least-erased closed block, where it is served in the slot in progress. -/
def youngest (s : State) (die : Nat) : Option Swath :=
  match s.ftl.blocks.filter (fun e => keyDie e.1 == die && e.2.st == blkClosed && e.2.family ≠ 3) with
  | [] => none
  | e :: es =>
    let b := es.foldl (fun a x => if x.2.erases < a.2.erases then x else a) e
    (swathOf s die (keyBlock b.1)).filter (fun w => setServed s w.chset)

/-- FALLOW_SWEEP (R178): at most one Fallow relocation each PERIOD_MIN minutes, when no other work of the Gleaner is due
(R174). -/
def execFallowSweep (s : State) : Out :=
  let spread := regFld s 0xC00010 0 16
  let period := max 1 (regFld s 0xC00010 16 8) * 60 * secTicks
  if spread = 0 || !gleanerRuns s || (s.ftl.fallowAt ≠ 0 && decide (now s < s.ftl.fallowAt + period))
      || (rebuildWork s).isSome || (nextVictim s).isSome then .next s
  else
    match (blockDies s).find? (fun d => decide (spread < dieSpread s d) && (youngest s d).isSome) with
    | none => .next s
    | some d =>
      match youngest s d with
      | none => .next s
      | some w =>
        let r := relocate s w (mappedIn s w) true
        .next { r.1 with ftl := { r.1.ftl with fallowAt := now s } }

/-- DESTAGE_START (R209). -/
def execDestageStart (s : State) : Out := .next (destage s)

/-! ### Programs and erases -/

/-- A swath with a stripe verified. -/
def stripeDone (s : State) (w : Swath) (stripe : Nat) : State :=
  let w1 := { w with done := if w.done.contains stripe then w.done else w.done ++ [stripe] }
  let s1 := { s with ftl := { s.ftl with swaths := updFirst (fun x => x.id == w.id) (fun _ => settleSafe s w1) s.ftl.swaths } }
  if swathPages s w ≤ w1.done.length then closeSwath s1 w.id else s1

/-- PAGE_PROGRAM_DONE (R168): the stripe is verified, or the members that failed make their blocks failing (R180). Only a stripe
whose program has been issued can end, and none does while one of its dies holds its programs (R89, R108). -/
def execPageProgramDone (swath stripe : Nat) (failed : List Nat) (s : State) : Out :=
  match s.ftl.swaths.find? (fun w => w.id == swath) with
  | none => .next s
  | some w =>
    if w.next ≤ stripe || w.done.contains stripe || !swathWritable s w then .next s
    else if failed.isEmpty then .next (issueSafe (stripeDone s w stripe))
    else
      let bad := failed.filterMap (fun i => w.members[i]?)
      let s1 := bad.foldl (fun t m => failBlock t m.1 m.2 false) s
      let s2 := raiseIf (!bad.isEmpty) s1 evFtl 2
      .next (dropCopies (closeSwath s2 swath) swath)

/-- Whether a block may begin its erase (R194): closed, nothing mapped in it, no read of it under way, no copy from or to it,
no erase record waiting, and no mirror in it that the device keeps (R215, R218). A block whose swath still holds something mapped waits,
because the stripes there need its pages for reconstruction (DEDUCED, log 135). -/
def mayErase (s : State) (die block : Nat) : Bool :=
  let k := blockKey die block
  let b := blockAt s k
  let at_ (e : Qword) : Bool := eKind e == 1 && eDie e == die && eBlock e == block
  b.st == blkClosed && b.valid == 0 && tabAt 0 s.ftl.readHolds k == 0
    && ((swathOf s die block).map (fun w => (mappedIn s w).isEmpty)).getD true
    && !(mirrorWords s).any (fun x => x / 32768 == k)
    && !s.ftl.copies.any (fun c => at_ c.new || at_ c.expect)
    && !s.etch.built.any (fun r => (r.type == 7 && r.entries.any (fun e => e.key == jBlockKey die block))
      || r.entries.any (fun e => at_ e.new))

/-- ERASE_BEGIN (R194): the erase-begin record is queued with ERASE_COUNT one higher; when it commits, the block is in state
erasing and the erase starts. -/
def execEraseBegin (die block : Nat) (s : State) : Out :=
  if mayErase s die block && canProgram s && dieWritable s die then
    let b := blockAt s (blockKey die block)
    .next (blockRec s die block 4 { b with erases := b.erases + 1, st := blkErasing })
  else .next s

/-- The family of a freed block (R172): meadow while the share is below M, heath while above. The rule does not speak of a share
that equals M: the block then keeps the family it has (DESIGN CHOICE, log 133). -/
def freedFamily (s : State) (die : Nat) (b : BlockRec) : BitVec 2 :=
  if b.family = 3 then 3
  else if meadowShareNow s < s.ftl.meadowTarget then 0
  else if s.ftl.meadowTarget < meadowShareNow s then heathFamily s die
  else b.family

/-- A block leaves its swath; a swath without members is gone. -/
def leaveSwath (s : State) (die block : Nat) : State :=
  { s with ftl := { s.ftl with
      swaths := (s.ftl.swaths.map (fun w => { w with members := w.members.filter (· ≠ (die, block)) })).filter
        (fun w => !w.members.isEmpty) } }

/-- BLOCK_ERASE_DONE (R179): the block is free, with its family by R172 and its override cleared (R135), or it is retired. -/
def execBlockEraseDone (die block : Nat) (ok : Bool) (s : State) : Out :=
  let k := blockKey die block
  if (blockAt s k).st ≠ blkErasing || !dieWritable s die then .next s
  else
    let h := s.ftl.health
    let s1 := leaveSwath { s with ftl := { s.ftl with
        flash := s.ftl.flash.filter (fun e => e.1 / 32768 ≠ k), health := { h with erases := h.erases + 1 } } } die block
    if ok then
      .next (noteShort <| settleSpare (setBlock s1 die block 6 (fun b => { b with
        st := blkFree, family := freedFamily s1 die b, reads := 0, override := none, valid := 0 })))
    else
      let s2 := { s1 with ftl := { s1.ftl with health := { s1.ftl.health with retiredErase := h.retiredErase + 1 } } }
      .next (retireBlock (raise s2 evFtl 2) die block)

/-- HEALTH_COUNTERS_COMMIT (R199): every 10 minutes the counters and the WARN field of page 0xC0 go to the settings store. -/
def execHealthCountersCommit (s : State) : Out :=
  if !canSave s || !s.power.started || !isDue s s.ftl.healthAt (600 * secTicks) then .next s
  else
    .next (wantSettings { s with ftl := { s.ftl with
        health := { s.ftl.health with warn := warnByte s }, healthAt := now s } } [])

end Sys2Proof.Machine
end

