-- ==== Sys2Proof/Machine/Jobs.lean ====
section
/-! DEFINITION. Job Submit, Query and Stream Append (R294 to R300, R312 to R315). -/

namespace Sys2Proof.Machine

/-! ### The job descriptor (R295 to R297) -/

/-- A job descriptor as its bytes give it, for a channel of `n` stages; `sb` and `kb` are the SOURCE and SINK bytes of a job of
a chain with such source and sink. -/
def descOf (d : List Byte) (n : Nat) : JobDesc :=
  { flags := dwordOf (leAt d 4 4), iv := BitVec.ofNat 64 (leAt d 8 8), src0 := BitVec.ofNat 64 (leAt d 16 8)
    src8 := dwordOf (leAt d 24 4), snk0 := BitVec.ofNat 64 (leAt d 32 8), snk8 := dwordOf (leAt d 40 4)
    inLen := (List.range n).map (fun i => leAt d (48 + 8 * i) 4), outLen := (List.range n).map (fun i => leAt d (52 + 8 * i) 4) }

/-- Whether the bytes [a, b) of a descriptor are zero. -/
def zeroSpanOf (d : List Byte) (a b : Nat) : Bool := (sliceOf d a (b - a)).all (· == 0)

/-- The reserved fields of a descriptor (check 5): an OFFSET in a pool that is no multiple of 64 counts as one. -/
def descReservedOk (d : List Byte) (n src snk : Nat) : Bool :=
  decide (leAt d 4 4 < 2 ^ (2 * n)) && zeroSpanOf d (48 + 8 * n) 128
    && (if src = srcNamespace then zeroSpanOf d 28 32 else if src = srcHost then true else zeroSpanOf d 16 32)
    && (if snk = snkHost then true
        else if snk = snkNamespace then zeroSpanOf d 44 48
        else if snk = snkPool then zeroSpanOf d 44 48 && leAt d 32 8 % 64 == 0
        else zeroSpanOf d 32 48)

/-! ### Admission (R298, R299) -/

/-- What a job asks for: its channel, the descriptor, the SGLs of a host source and sink, whether it appends, and its data. -/
structure JobAsk where
  slot   : Nat
  desc   : List Byte
  src    : DataPtr
  snk    : DataPtr
  append : Bool
  data   : List Byte

/-- The channel at the end of a slot's chain. -/
def lastChannel (s : State) (slot : Nat) : Option Channel := channelAt s (lastOfChain s 3 slot)

/-- The namespaces with the LBA ranges that a job names: its source, and the sink of its chain; an append's range is empty until
it is assigned. -/
def askRanges (s : State) (a : JobAsk) : List (Nat × Nat × Nat) :=
  (match channelAt s a.slot with
   | some c => if c.src = srcNamespace then [(c.srcParam, leAt a.desc 16 8, leAt a.desc 24 4 + 1)] else []
   | none => [])
  ++ (match lastChannel s a.slot with
      | some c => if c.snk = snkNamespace then [(c.snkParam, leAt a.desc 32 8, if a.append then 0 else leAt a.desc 40 4 + 1)] else []
      | none => [])

/-- Check 6 for one range: R280, then Access Denied (R254), then the range. -/
def rangeCheck (s : State) (fn tenant : Nat) (append : Bool) (r : Nat × Nat × Nat) : Option Status :=
  match nsUsable s r.1 tenant with
  | none => some stInvalidNs
  | some n =>
    if n.cipher = 2 ∧ n.owner ≠ tenant then some (if attachedTo n fn then stAccessDenied else stInvalidNs)
    else if !append && n.nsze < r.2.1 + r.2.2 then some stLbaRange
    else none

/-- The total of an SGL. -/
def ptrTotal : DataPtr → Nat
  | .prp => 0
  | .sgl _ _ n => n

/-- Check 8 for a host buffer: an SGL of R296 under R246. -/
def hostPtrCheck (p : DataPtr) (toDevice : Bool) : Option Status :=
  match p with
  | .prp => some stSglType
  | .sgl _ _ n => sglCheck p toDevice n

/-- The LBA data size of a namespace. -/
def nsLba (s : State) (nsid : Nat) : Nat := ((tabGet s.ftl.namespaces nsid).map (·.lbaSize)).getD 4096

/-- S of R299. -/
def sourceLen (s : State) (a : JobAsk) : Nat :=
  match channelAt s a.slot with
  | some c =>
    if c.src = srcNamespace then (leAt a.desc 24 4 + 1) * nsLba s c.srcParam
    else if c.src = srcHost then ptrTotal a.src
    else a.data.length
  | none => 0

/-- C of R299: the capacity of the sink of the chain, none where it has none. -/
def sinkCap (s : State) (a : JobAsk) : Option Nat :=
  match lastChannel s a.slot with
  | none => none
  | some c =>
    if c.snk = snkHost then some (ptrTotal a.snk)
    else if c.snk = snkNamespace then (if a.append then none else some ((leAt a.desc 40 4 + 1) * nsLba s c.snkParam))
    else if c.snk = snkPool then (if a.append then some (c.snkParam * 1048576) else some (leAt a.desc 40 4))
    else none

/-- Whether OFFSET and LENGTH lie in a result pool. -/
def poolFits (s : State) (a : JobAsk) : Bool :=
  match lastChannel s a.slot with
  | some c => c.snk != snkPool || a.append || decide (leAt a.desc 32 8 + leAt a.desc 40 4 ≤ c.snkParam * 1048576)
  | none => true

/-- Check 9 (R299). The lengths declared are the first channel's, so C bounds them only where the chain is one channel. -/
def lengthsOk (s : State) (a : JobAsk) : Bool :=
  let n := ((channelAt s a.slot).map (·.stages.length)).getD 0
  let flags := dwordOf (leAt a.desc 4 4)
  let il (i : Nat) : Nat := leAt a.desc (48 + 8 * i) 4
  let ol (i : Nat) : Nat := leAt a.desc (52 + 8 * i) 4
  let im (i : Nat) : Bool := bitOf flags (2 * i)
  let om (i : Nat) : Bool := bitOf flags (2 * i + 1)
  let len := sourceLen s a
  let alone := lastOfChain s 3 a.slot == a.slot
  let cap := if alone then sinkCap s a else none
  decide (len ≤ 0xFFFFF000) && poolFits s a
    && (n == 0 || il 0 == len || (im 0 && decide (len ≤ il 0)))
    && (List.range (n - 1)).all (fun i => om i || (if im (i + 1) then decide (ol i ≤ il (i + 1)) else ol i == il (i + 1)))
    && (match cap with
        | none => true
        | some k => if n = 0 then decide (len ≤ k) else om (n - 1) || decide (ol (n - 1) ≤ k))

/-- DRAM that a stage needs at its run (R510): the stage buffer of a GCM decryption, a merge table, a program's output buffer and
digest context areas. -/
def stageBytes (s : State) (out : Nat × Bool) (inline : List Byte) (d : StageDef) : List Nat :=
  let im := if d.kind = 3 ∧ d.param = 0 then inline else ((tabGet s.chn.programs d.param).map (·.image)).getD []
  if d.kind = 1 then (if d.param.testBit 12 then [1048576] else [])
  else if d.kind = 3 then [mergeBytes im]
  else if d.kind = 5 then
    (if out.2 && out.1 == 0xFFFFFFFF then imgOutMax im else out.1) :: List.replicate (imgThreads im) 384
  else []

/-- DRAM that a job needs in all the channels of its chain. -/
def jobBytes (s : State) (a : JobAsk) (inline : List Byte) : Nat :=
  let flags := dwordOf (leAt a.desc 4 4)
  ((chainFrom s 4 a.slot).zipIdx).foldl (fun acc e =>
    let stages := ((channelAt s e.1).map (·.stages)).getD []
    stages.zipIdx.foldl (fun m d =>
      let out := if e.2 = 0 && !a.append then (leAt a.desc (52 + 8 * d.2) 4, bitOf flags (2 * d.2 + 1)) else (0xFFFFFFFF, true)
      m + regionBytes (stageBytes s out inline d.1)) acc) 0

/-- Jobs of a tenant that have not completed. -/
def jobsUsed (s : State) (t : Nat) : Nat := (s.chn.jobs.filter (fun e => e.2.tenant == t)).length

/-- The checks that R298 does not number and that a sink namespace makes all the same: sanitize, reservations, read-only mode, no
Etch die left (R183, R249, R613). -/
def sinkChecks (s : State) (fn : Nat) (a : JobAsk) : Option Status :=
  let rs := askRanges s a
  let snk := match lastChannel s a.slot with | some c => if c.snk = snkNamespace then some c.snkParam else none | none => none
  firstBad
    [ badIf (!rs.isEmpty && s.host.sanitizing.isSome) stSanitizing,
      badIf (rs.any (fun r => reservationBlocks s fn r.1 (snk == some r.1))) stReservation,
      badIf (snk.isSome && s.ftl.mode == 1) stWriteProtected, badIf (snk.isSome && etchGone s) stNotReady ]

/-- Checks 5 to 10 of R298. -/
def jobChecks (s : State) (c : NvCmd) (a : JobAsk) (inline : List Byte) : Option Status :=
  let tenant := fnTenant s c.id.fn
  match channelAt s a.slot, lastChannel s a.slot with
  | some ch, some last =>
    let rs := askRanges s a
    let order := ((findCmd s c.id).map (·.order)).getD s.host.order
    firstBad
      [ badIf (!a.append && !descReservedOk a.desc ch.stages.length ch.src last.snk) stInvalidField,
        firstBad (rs.map (rangeCheck s c.id.fn tenant a.append)),
        badIf (rs.any (fun r => deliveryDue s c.id.fn r.1 order)) stDeferred,
        (if ch.src = srcHost then hostPtrCheck a.src true else none),
        (if last.snk = snkHost then hostPtrCheck a.snk false else none),
        badIf (!a.append && !lengthsOk s a) stLengthMismatch,
        badIf ((tenantAt s tenant).jobs ≤ jobsUsed s tenant ∨ !dramFits s tenant (jobBytes s a inline)) stQuota,
        sinkChecks s c.id.fn a ]
  | _, _ => some stInvalidHandle

/-- The namespaces of a chain of channels: the source of its first and the sink of its last. -/
def chainNamespaces (s : State) (slot : Nat) : List Nat :=
  let first := match channelAt s slot with
    | some c => if c.src = srcNamespace then [c.srcParam] else []
    | none => []
  match channelAt s (lastOfChain s 3 slot) with
  | some c => if c.snk = snkNamespace then first ++ [c.snkParam] else first
  | none => first

/-- The other device of the cascade that runs a job, if one does (R580): the home of the source or else of the sink. -/
def jobAway (s : State) (slot : Nat) : Option Nat :=
  ((chainNamespaces s slot).filterMap (fun k => (tabGet s.ftl.namespaces k).bind (fun n => if homeAway s n then some n.home else none))).head?

/-- A job that has passed admission enters its channel, or waits for a place (R300). -/
def enterJob (s : State) (c : NvCmd) (a : JobAsk) (inline : List Byte) : State :=
  match channelAt s a.slot, jobAway s a.slot with
  | none, _ => s
  | some _, some home => if s.cas.ready.getLsbD home then forwardCmd s c.id home else failCmd s c.id stNotReady
  | some ch, none =>
    let j := s.chn.nextJob
    let enters := ch.waitJobs.isEmpty && decide (ch.jobs.length < ch.qdepth)
    let desc := if a.append then {} else descOf a.desc ch.stages.length
    let data := if ch.src = srcNamespace then [] else padTo (sourceLen s a) a.data
    let b : Job :=
      { cmd := c.id, slot := a.slot, head := a.slot, tenant := ch.tenant, desc := desc, entered := enters, input := data
        cap := sinkCap s a, item := ch.items, inline := inline, append := a.append, sinkLba := desc.snk0.toNat }
    let s1 := { s with chn := { s.chn with nextJob := j + 1, jobs := tabPut s.chn.jobs j b } }
    let s2 := updChannel s1 a.slot (fun x =>
      if enters then { x with jobs := x.jobs ++ [j], items := (x.items + 1) % 2 ^ 32 } else { x with waitJobs := x.waitJobs ++ [j] })
    updCmd s2 c.id (fun e => { e with phase := .waitEnter, job := some j })

/-- A job's command ends at its first failing check, or the job enters. Deferred Write Error uses up its delivery (R262). -/
def admitJob (s : State) (c : NvCmd) (a : JobAsk) (inline : List Byte) : State :=
  match jobChecks s c a inline with
  | none => enterJob s c a inline
  | some st =>
    let due := (askRanges s a).find? (fun r => deliveryDue s c.id.fn r.1 (((findCmd s c.id).map (·.order)).getD s.host.order))
    if st = stDeferred then deliver s c.id ((due.map (·.1)).getD 0)
    else failCmd (if st = stQuota then quotaEvent s else s) c.id st

/-- The channel that a job's descriptor names, of a source kind that takes Job Submit (checks 3 and 4). -/
def submitSlot (s : State) (c : NvCmd) : Except Status Nat :=
  match resolve s (fnTenant s c.id.fn) (dwordOf (leAt c.data 0 4)) with
  | none => .error stInvalidHandle
  | some slot =>
    match channelAt s slot with
    | some ch => if ch.src ≤ 1 then .ok slot else .error stInvalidField
    | none => .error stInvalidHandle

/-- Check 2 of R298: a descriptor of exactly 128 bytes (R294). -/
def descTransfer (c : NvCmd) : Option Status :=
  match c.ptr with
  | .prp => badIf (c.data.length ≠ 128) stInvalidField
  | .sgl _ _ _ => sglCheck c.ptr true 128

/-- JOB_SUBMIT (R298). -/
def execJobSubmit (c : NvCmd) (src snk : DataPtr) (srcData : List Byte) (s : State) : Out :=
  let checks (t : State) : Option Status :=
    firstBad
      [ badIf t.power.settingsRecovery stNotReady,
        badIf (!reservedOk ([(c.nsid, 0xFFFFFFFF), (c.c10, 0xFFFFFFFF), (c.c11, 0xFFFFFFFF), (c.c12, 0xFFFFFFFF),
          (c.c13, 0xFFFFFFFF), (c.c14, 0xFFFFFFFF), (c.c15, 0xFFFFFFFF)] ++ c23 c)) stInvalidField,
        descTransfer c, badIf (!c.memOk) stDataTransfer,
        (match submitSlot t c with | .error st => some st | .ok _ => none) ]
  .next <| resumeCmds <| cmdRun s c 0x81 true checks (fun t =>
    match submitSlot t c with
    | .ok slot => admitJob t c { slot := slot, desc := c.data, src := src, snk := snk, append := false, data := srcData } []
    | .error st => failCmd t c.id st)

/-! ### Query (R315) -/

/-- The channel that a query block asks for, and its dwords CDW10 to CDW15. -/
def queryDword (c : NvCmd) (i : Nat) : Dword := dwordOf (leAt c.data (8 + 4 * i) 4)
def queryParams (c : NvCmd) : List Dword := [queryDword c 2, queryDword c 3, queryDword c 4, queryDword c 5]
def querySpec (s : State) (c : NvCmd) : Channel :=
  { specOf (fnTenant s c.id.fn) c.id.fn (dwordOf (leAt c.data 0 4)) (dwordOf (leAt c.data 4 4)) (queryDword c 0) (queryDword c 1)
      (queryParams c) with qdepth := 1 }

/-- PROG_LEN and the inline program of a query block. -/
def queryProgLen (c : NvCmd) : Nat := leAt c.data 160 4
def queryInline (c : NvCmd) : List Byte := sliceOf c.data 164 (queryProgLen c)

/-- The checks of a Query before its channel is created. -/
def queryChecks (c : NvCmd) (s : State) : Option Status :=
  let n := c.c10.toNat
  let bare := (querySpec s c).stages.any (fun d => d.kind == 3 && d.param == 0)
  firstBad
    [ badIf s.power.settingsRecovery stNotReady,
      badIf (!reservedOk ([(c.nsid, 0xFFFFFFFF), (c.c11, 0xFFFFFFFF), (c.c12, 0xFFFFFFFF), (c.c13, 0xFFFFFFFF),
        (c.c14, 0xFFFFFFFF), (c.c15, 0xFFFFFFFF)] ++ c23 c)) stInvalidField,
      badIf (n < 164 ∨ 4096 < n) stInvalidField, sglCheck c.ptr true n, badIf (!c.memOk) stDataTransfer,
      badIf (n ≠ 164 + queryProgLen c ∨ queryProgLen c % 4 ≠ 0) stInvalidField, badIf (leAt c.data 32 4 ≠ 0) stInvalidField,
      badIf (!listChecks true (querySpec s c) (queryDword c 0) (queryDword c 1) (queryParams c)) stInvalidField,
      badIf (bare ∧ queryProgLen c = 0) stInvalidField ]

/-- QUERY (R315): a temporary channel is created and one job runs on it. A Query whose job is not admitted leaves no channel. -/
def execQuery (c : NvCmd) (src snk : DataPtr) (srcData : List Byte) (s : State) : Out :=
  .next <| resumeCmds <| cmdRun s c 0x89 true (queryChecks c) (fun t =>
    let inline := queryInline c
    if queryProgLen c ≠ 0 && !laneOk inline then failCmd (raise t evFln 4) c.id stInvalidField
    else
      let r := createChannel t (querySpec t c) true inline
      match r.slot with
      | none => failCmd r.s c.id r.st
      | some slot =>
        let a : JobAsk := { slot := slot, desc := sliceOf c.data 32 128, src := src, snk := snk, append := false, data := srcData }
        match jobChecks r.s c a inline with
        | none =>
          let away := (jobAway r.s slot).isSome
          if away then freeChannel (enterJob r.s c a inline) slot else enterJob r.s c a inline
        | some _ => freeChannel (admitJob r.s c a inline) slot)

/-! ### Stream Append (R312 to R314) -/

/-- The bytes of an append. -/
def appendLen (c : NvCmd) : Nat := c.c10.toNat
def appendBytes (c : NvCmd) : List Byte := padTo (appendLen c) c.data

/-- The reserved dwords of a Stream Append. -/
def reservedAppend (c : NvCmd) : List (Dword × Nat) :=
  [(c.c11, 0xFFFFFFFF), (c.c13, 0xFFFFFFFF), (c.c14, 0xFFFFFFFF), (c.c15, 0xFFFFFFFF)] ++ c23 c

/-- The checks of a Stream Append through a channel before those of its job. -/
def appendChecks (c : NvCmd) (s : State) : Option Status :=
  let found := resolve s (fnTenant s c.id.fn) c.c12
  firstBad
    [ badIf s.power.settingsRecovery stNotReady, badIf (!reservedOk ((c.nsid, 0xFFFFFFFF) :: reservedAppend c)) stInvalidField,
      badIf (appendLen c = 0 ∨ 2097152 < appendLen c) stInvalidField, sglCheck c.ptr true (appendLen c),
      badIf (!c.memOk) stDataTransfer, badIf found.isNone stInvalidHandle,
      badIf (((found.bind (channelAt s)).map (·.src)) ≠ some srcStream) stInvalidField ]

/-- STREAM_APPEND (R312, R313): a direct append waits for its region; one through a channel is a job. -/
def execStreamAppend (c : NvCmd) (s : State) : Out :=
  .next <|
    if c.c12 ≠ 0 then
      resumeCmds <| cmdRun s c 0x85 true (appendChecks c) (fun t =>
        match resolve t (fnTenant t c.id.fn) c.c12 with
        | some slot => admitJob t c { slot := slot, desc := [], src := .prp, snk := .prp, append := true, data := appendBytes c } []
        | none => failCmd t c.id stInvalidHandle)
    else
      let bad : Option Status :=
        match ioChecks s c (reservedAppend c) [] (some (true, appendLen c)) true with
        | some st => some st
        | none => badIf (appendLen c = 0 ∨ appendLen c % lbaSizeOf s c ≠ 0) stInvalidField
      let s1 := ioBegin s c 0x85 0 (nsSize s c.nsid.toNat) bad
      updCmd s1 c.id (fun e => if e.phase = .fetched then { e with phase := .waitOrder } else e)

/-- The append point of a namespace (R312): the first LBA after its highest mapped unit, and after the regions assigned to
appends that have not executed. -/
def appendPoint (s : State) (nsid : Nat) (n : Namespace) : Nat :=
  let ends := (s.ftl.map.filter (fun e => keyNsid e.1 == nsid && (s.ftl.overlay.all (fun o => o.1 ≠ e.1)) && eKind e.2 != 0))
      ++ (s.ftl.overlay.filter (fun e => keyNsid e.1 == nsid && eKind e.2 != 0))
  let mapped := ends.foldl (fun a e => max a ((keyUnit e.1 + 1) * lbasPerUnit n)) 0
  let mine := s.host.exec.filter (fun e => e.opcode == 0x85 && e.assigned)
  mine.foldl (fun a e =>
    (openRanges s e).foldl (fun m r => if r.1 = nsid then max m (ceilDiv (r.2.1 + r.2.2) (lbasPerUnit n) * lbasPerUnit n) else m) a) mapped

/-- The region of an append of `count` LBAs: assigned, or Capacity Exceeded past the namespace's end. -/
def assignRegion (s : State) (e : ExecCmd) (nsid count : Nat) (n : Namespace) : State :=
  let a := appendPoint s nsid n
  let id := e.cmd.id
  match e.job with
  | none =>
    if n.nsze < a + count then failCmd s id stCapacity
    else ioTry (updCmd s id (fun x => { x with assigned := true, slba := a, nlb := count })) id
  | some j =>
    match jobAt s j with
    | none => s
    | some b =>
      if n.nsze < a + count then failJob s j b stCapacity 0 []
      else
        let s1 := updJob s j (fun y => { y with sinkLba := a, desc := { y.desc with snk8 := dwordOf count } })
        settleChannel (updCmd s1 id (fun x => { x with assigned := true })) b.slot

/-- A direct append past step 2 of R203: every earlier command of its queue on the namespace has executed, and admission lets it
pass. -/
def assignDirect (s : State) (e : ExecCmd) : State :=
  let id := e.cmd.id
  match tabGet s.ftl.namespaces e.nsid with
  | none => failCmd s id stInvalidNs
  | some n =>
    let count := appendLen e.cmd / n.lbaSize
    let need := ceilDiv count (lbasPerUnit n) * unitCws n
    if heldByOrder s e || s.power.fence then s
    else if homeAway s n then forwardCmd s id n.home
    else
      match admission s e.tenant e.nsid n (Nat.min need (ceilDiv 1048576 4096)) need true with
      | .wait => s
      | .fail st => failCmd (if st = stQuota then quotaEvent s else s) id st
      | .pass => assignRegion s e e.nsid count n

/-- A job's append whose output has reached its sink. -/
def assignJob (s : State) (e : ExecCmd) (j : Nat) : State :=
  match jobAt s j with
  | none => s
  | some b =>
    match channelAt s b.slot with
    | none => s
    | some c =>
      if !b.append || !b.sinking || c.snk ≠ snkNamespace || c.jobs.head? ≠ some j || heldByOrder s e then s
      else
        match nsUsable s c.snkParam b.tenant with
        | none => failJob s j b stInvalidNs 0 []
        | some n => assignRegion s e c.snkParam (ceilDiv b.output.length n.lbaSize) n

/-- APPEND_REGION_ASSIGN (R312). -/
def execAppendRegionAssign (id : CmdId) (s : State) : Out :=
  .next <| resumeCmds <|
    match findCmd s id with
    | none => s
    | some e =>
      if e.opcode ≠ 0x85 || e.assigned then s
      else
        match e.job with
        | some j => assignJob s e j
        | none => if e.phase = .waitOrder ∨ e.phase = .held then assignDirect s e else s

end Sys2Proof.Machine
end

