-- ==== Sys2Proof/Machine/LoadStore.lean ====
section
/-! DEFINITION. Loads and stores of both spaces (R444 to R447, R458 to R460). -/

namespace Sys2Proof.Machine

/-- LDW and LDWX: a word loaded verbatim. -/
def loadW (s : State) (t : Nat) (dst : BitVec 5) (a : Dword) (ue : Bool) : Eff :=
  match wRead s t a ue with
  | .word w => .done (wr s t dst w)
  | .stop s1 code => .exc s1 code (some (rawW a))

/-- STW and STWX: a word stored verbatim. -/
def storeW (s : State) (t : Nat) (a : Dword) (w : W36) : Eff :=
  match wWrite s t a w with
  | .ok s1 => .done s1
  | .stop s1 code => .exc s1 code (some (rawW a))

/-- The address of LDW and STW, ra + sext(imm16), and of LDWX and STWX, ra + rb (R458). -/
def addrIm (s : State) (f : Im) : Dword := rv s f.t f.ra + f.imm.signExtend 32
def addrRg (s : State) (f : Rg) : Dword := rv s f.t f.ra + rv s f.t f.rb

/-- LDW. -/
def execImLdw (f : Im) (ue : Bool) (s : State) : Out := runIm s f true (fun s => loadW s f.t f.rd (addrIm s f) ue)

/-- STW. -/
def execImStw (f : Im) (s : State) : Out := runIm s f true (fun s => storeW s f.t (addrIm s f) (rd s f.t f.rd))

/-- LDWX. -/
def execImLdwx (f : Rg) (ue : Bool) (s : State) : Out :=
  runRg s f (f.fn == 0) (fun s => loadW s f.t f.rd (addrRg s f) ue)

/-- STWX. -/
def execImStwx (f : Rg) (s : State) : Out :=
  runRg s f (f.fn == 0) (fun s => storeW s f.t (addrRg s f) (rd s f.t f.rd))

/-- CASW: the word at ra compared with rb; rd is written when they are equal, and receives the old word (R459). -/
def execImCasw (f : Rg) (ue : Bool) (s : State) : Out :=
  runRg s f (f.fn == 0) (fun s =>
    let a := rv s f.t f.ra
    match wRead s f.t a ue with
    | .stop s1 code => .exc s1 code (some (rawW a))
    | .word old =>
      let same := old == rd s f.t f.rb
      match wWrite s f.t a (rd s f.t f.rd) with
      | .stop s1 code => .exc s1 code (some (rawW a))
      | .ok s1 => .done (wrFl (wr (if same then s1 else s) f.t f.rd old) f.t (setZ (descAt s f.t).fl same)))

/-! ### B-space (R460) -/

/-- The thread, condition, rd and window of a B-space form; whether its reserved fields are legal; its offset. -/
def bsT : Bs → Nat
  | .imm f => f.t
  | .reg f => f.t
def bsCond : Bs → BitVec 4
  | .imm f => f.cond
  | .reg f => f.cond
def bsRd : Bs → BitVec 5
  | .imm f => f.rd
  | .reg f => f.rd
def bsWin : Bs → Nat
  | .imm f => (f.imm.extractLsb' 12 4).toNat
  | .reg f => (f.fn.extractLsb' 7 4).toNat
def bsLegal : Bs → Bool
  | .imm f => f.imm.extractLsb' 12 4 ≠ 15
  | .reg f => f.fn.extractLsb' 7 4 ≠ 15 && f.fn.extractLsb' 4 3 == 0
def bsOff (s : State) : Bs → Nat
  | .imm f => (rv s f.t f.ra + (f.imm.extractLsb' 0 12).setWidth 32).toNat
  | .reg f => (rv s f.t f.ra + rv s f.t f.rb).toNat

/-- A B-space load of `n` bytes; `mk` gives the word from the bytes and whether one lies past the end of the input. -/
def loadB (s : State) (f : Bs) (n : Nat) (ue : Bool) (mk : List Byte → Bool → W36) : Out :=
  imRun s (bsT f) (bsCond f) (bsLegal f) false (fun s =>
    match bRead s (bsT f) (bsWin f) (bsOff s f) n ue with
    | .bytes bs past => .done (wr s (bsT f) (bsRd f) (mk bs past))
    | .stop s1 code => .exc s1 code (some (rawB (bsWin f) (bsOff s f))))

/-- A B-space store of the bytes that `mk` gives from rd. -/
def storeB (s : State) (f : Bs) (mk : W36 → List Byte) : Out :=
  imRun s (bsT f) (bsCond f) (bsLegal f) false (fun s =>
    match bWrite s (bsT f) (bsWin f) (bsOff s f) (mk (rd s (bsT f) (bsRd f))) with
    | .ok s1 => .done s1
    | .stop s1 code => .exc s1 code (some (rawB (bsWin f) (bsOff s f))))

/-- The quality of a loaded number: 0h, or Dh past the end of the input (R446). -/
def endQ (past : Bool) : Nat := if past then 13 else 0

/-- A loaded number of `n` bytes, zero-extended or sign-extended. -/
def numWord (signed : Bool) (n : Nat) (bs : List Byte) (past : Bool) : W36 :=
  mkW (endQ past) (if signed then BitVec.ofInt 32 (signedOf (8 * n) (leNat bs)) else dwordOf (leNat bs))

/-- LB. -/
def execImLb (f : Bs) (ue : Bool) (s : State) : Out := loadB s f 1 ue (numWord false 1)

/-- LBS. -/
def execImLbs (f : Bs) (ue : Bool) (s : State) : Out := loadB s f 1 ue (numWord true 1)

/-- LH. -/
def execImLh (f : Bs) (ue : Bool) (s : State) : Out := loadB s f 2 ue (numWord false 2)

/-- LHS. -/
def execImLhs (f : Bs) (ue : Bool) (s : State) : Out := loadB s f 2 ue (numWord true 2)

/-- L4. -/
def execImL4 (f : Bs) (ue : Bool) (s : State) : Out := loadB s f 4 ue (numWord false 4)

/-- A loaded sample (R318, R460). -/
def sampleWord (bs : List Byte) (past : Bool) : W36 := if past then mkW 13 (wVal (sampleOf bs)) else sampleOf bs

/-- LQ. -/
def execImLq (f : Bs) (ue : Bool) (s : State) : Out := loadB s f 5 ue sampleWord

/-- SB. -/
def execImSb (f : Bs) (s : State) : Out := storeB s f (fun w => leBytes (wVal w).toNat 1)

/-- SH. -/
def execImSh (f : Bs) (s : State) : Out := storeB s f (fun w => leBytes (wVal w).toNat 2)

/-- S4. -/
def execImS4 (f : Bs) (s : State) : Out := storeB s f (fun w => leBytes (wVal w).toNat 4)

/-- SQ. -/
def execImSq (f : Bs) (s : State) : Out := storeB s f sampleBytes

end Sys2Proof.Machine
end

