-- ==== Sys2Proof/Machine/Ports.lean ====
section
/-! DEFINITION. The search and digest ports (R466 to R468). -/

namespace Sys2Proof.Machine

/-- The window of a port instruction, fn[10:7]. -/
def portWin (f : Rg) : Nat := (f.fn.extractLsb' 7 4).toNat

/-- A word and Z written, as SRCH and SUPD do. -/
def portDone (s : State) (f : Rg) (w : W36) (z : Bool) : Eff :=
  .done (wrFl (wr s f.t f.rd w) f.t (setZ (descAt s f.t).fl z))

/-- A search port failure (R385, R466): the stage of a user thread fails with 8Dh; a supervisor thread receives
FFFF_FFFFh with quality Bh, and the manual states no Z, so it is free (log 42). -/
def portBad (s : State) (f : Rg) : Eff :=
  match (descAt s f.t).job with
  | some j => .hold (endIm s j (some stEngineFault) [])
  | none => portDone (takeFree s) f (mkW 11 0xFFFFFFFF) ((freeNow s).getLsbD 0)

/-- The search banks do not serve the thread's tag in the slot in progress (R388): the instruction waits. -/
def waitSearch (s : State) (f : Rg) : Eff := .hold (waitFor s f.t 3)

/-- SRCH: a key of 18 × w bytes in a window at offset ra, in plate rb[5:0] (R466). -/
def execImSrch (f : Rg) (faults : SearchFaults) (ue : Bool) (s : State) : Out :=
  runRg s f (portWin f ≠ 15 && f.fn.extractLsb' 0 5 == 0) (fun s =>
    let w := (f.fn.extractLsb' 5 2).toNat + 1
    let off := (rv s f.t f.ra).toNat
    match bRead s f.t (portWin f) off (18 * w) ue with
    | .stop s1 code => .exc s1 code (some (rawB (portWin f) off))
    | .bytes key _ =>
      let r := camLookup s (descAt s f.t).tenant (fld (rv s f.t f.rb) 0 6) key faults
      if !servesTenant s (descAt s f.t).tenant then waitSearch s f
      else if r.bad then portBad r.s f
      else
        match r.index with
        | some h => portDone r.s f (word0 (dwordOf h)) false
        | none => portDone r.s f (word0 0xFFFFFFFF) true)

/-- The staging fields of a 48-byte block (R467). -/
def blockStaged (bs : List Byte) : Staged :=
  { value := BitVec.ofNat 144 (leAt bs 0 18), care := BitVec.ofNat 144 (leAt bs 18 18), prio := leAt bs 36 2,
    width := leAt bs 38 1 % 4, pos := leAt bs 38 1 / 4 % 4, indexB := 0 }

/-- The block that OP 4h writes: VALUE, CARE, PRIO, WIDTH and POS, VALID (R467). -/
def entryBlock (e : CamEntry) : List Byte :=
  leBytes e.value.toNat 18 ++ leBytes e.care.toNat 18 ++ leBytes e.prio.toNat 2
    ++ [BitVec.ofNat 8 (e.width.toNat + 4 * e.pos.toNat), BitVec.ofNat 8 (bitNat e.valid)]

/-- SUPD: one update step of R391 with its staging in a window; rd takes RESULT, and Z is 1 when it is 0h (R467). The
step waits for no bank here: it applies within the instruction. -/
def execImSupd (f : Rg) (ue : Bool) (s : State) : Out :=
  runRg s f (portWin f ≠ 15 && f.fn.extractLsb' 3 4 == 0) (fun s =>
    let op := (f.fn.extractLsb' 0 3).toNat
    let off := (rv s f.t f.ra).toNat
    let tag := (descAt s f.t).tenant
    let run := fun (g : Staged) => camStep s (fun t => t == tag) false op (rv s f.t f.rb).toNat g
    let answer := fun (t : State) (r : Nat) => portDone t f (word0 (dwordOf r)) (r == 0)
    if !servesTenant s tag then waitSearch s f
    else if op = 2 then
      match bRead s f.t (portWin f) off 48 ue with
      | .stop s1 code => .exc s1 code (some (rawB (portWin f) off))
      | .bytes bs _ => let r := run (blockStaged bs); answer r.s r.result
    else
      let r := run (blockStaged [])
      if op = 4 && r.result == 0 then
        match bWrite r.s f.t (portWin f) off (entryBlock r.entry) with
        | .stop s1 code => .exc s1 code (some (rawB (portWin f) off))
        | .ok s1 => answer s1 r.result
      else answer r.s r.result)

/-! ### DG (R468) -/

/-- A DG instruction: fn[10:9] zero. -/
def dgRun (s : State) (f : Rg) (legal : Bool) (body : State → Eff) : Out :=
  runRg s f (f.fn.extractLsb' 9 2 == 0 && legal) body

/-- The thread's message. -/
def threadMsg (s : State) (f : Rg) : Option Msg := msgOf s (.thread f.t)

/-- START; reserved codes of ALG and DEST are illegal. -/
def execImDgStart (f : Rg) (s : State) : Out :=
  let alg := f.fn.extractLsb' 3 2
  let dest := f.fn.extractLsb' 5 2
  dgRun s f (f.rd == 0 && f.ra == 0 && f.rb == 0 && f.fn.extractLsb' 7 2 == 0 && alg ≠ 3 && decide (dest.toNat < 2))
    (fun s => .done (openMsg s (.thread f.t) alg dest (descAt s f.t).tenant []))

/-- UPDATE: the bytes of ra's value, all four or the first TAIL; it waits while the message waits for a unit. -/
def execImDgUpdate (f : Rg) (s : State) : Out :=
  dgRun s f (f.rd == 0 && f.rb == 0 && f.fn.extractLsb' 3 4 == 0) (fun s =>
    let tail := (f.fn.extractLsb' 7 2).toNat
    match threadMsg s f with
    | none => .exc s exPort none
    | some m =>
      if m.waiting then .hold (waitFor s f.t 1)
      else .done (feedMsg s (.thread f.t) (leBytes (rv s f.t f.ra).toNat (if tail = 0 then 4 else tail))))

/-- FINISH: it returns at once. -/
def execImDgFinish (f : Rg) (s : State) : Out :=
  dgRun s f (f.rd == 0 && f.ra == 0 && f.rb == 0 && f.fn.extractLsb' 3 6 == 0) (fun s =>
    match threadMsg s f with
    | none => .exc s exPort none
    | some _ => .done (finishMsg s (.thread f.t) 0))

/-- ABANDON. -/
def execImDgAbandon (f : Rg) (s : State) : Out :=
  dgRun s f (f.rd == 0 && f.ra == 0 && f.rb == 0 && f.fn.extractLsb' 3 6 == 0) (fun s =>
    .done (closeMsg s (.thread f.t)))

/-- RESULT: result bytes 4k to 4k + 3; before DONE it raises Result Early in a user thread, and returns 0 and sets EARLY in
a supervisor thread. -/
def execImDgResult (f : Rg) (s : State) : Out :=
  dgRun s f (f.rb == 0 && f.fn.extractLsb' 3 6 == 0) (fun s =>
    match threadMsg s f with
    | none => .exc s exPort none
    | some m =>
      if m.done then .done (wr s f.t f.rd (word0 (resultDword s (.thread f.t) (fld (rv s f.t f.ra) 0 4))))
      else if supMode s f.t then .done (wr (readEarly s (.thread f.t)) f.t f.rd 0)
      else .exc s exEarly none)

/-- EXPECT: rb's value becomes expected bytes 4k to 4k + 3. -/
def execImDgExpect (f : Rg) (s : State) : Out :=
  dgRun s f (f.rd == 0 && f.fn.extractLsb' 3 6 == 0) (fun s =>
    let k := fld (rv s f.t f.ra) 0 4
    let o := DgsOwner.thread f.t
    .done (setExpect s o (overlayAt (expectOf s o) (4 * k) (leBytes (rv s f.t f.rb).toNat 4))))

/-- STATUS: the status bits, and the verdict of the thread's latest Proof message. -/
def execImDgStatus (f : Rg) (s : State) : Out :=
  dgRun s f (f.ra == 0 && f.rb == 0 && f.fn.extractLsb' 3 6 == 0) (fun s =>
    let o := DgsOwner.thread f.t
    .done (wr s f.t f.rd (word0 (dwordOf (dgsStatus s o + verdictOf s o * 65536)))))

end Sys2Proof.Machine
end

