-- ==== Sys2Proof/Machine/Rwb.lean ====
section
/-! DEFINITION. Writes to RWB registers that wait for their block's boundary (R77 to R80), and the boundary itself. -/

namespace Sys2Proof.Machine

/-- A value written to a register, with the bits that its class does not write left as they are (R72). -/
def mergeVal (d : RegDesc) (act v : Dword) : Dword := (v &&& dwordOf d.mask) ||| (act &&& ~~~(dwordOf d.mask))

/-- The write that waits for a register: the last one (R78). -/
def pendOf (s : State) (off : Nat) : Option RwbPend := s.bus.rwb.find? (fun w => w.off == off)

/-- The end of the window in progress of a group (R548, R551): 0 while the group stands still, and the boundary after the one
that a late latch waits for. -/
def windowEnd (s : State) (g : Nat) : Nat :=
  let w := groupAt s g
  if w.period = 0 then 0 else if now s < w.boundary then w.boundary else boundaryAbove w.period (now s)

/-- The arbiter, the media channel, the statistics group whose block holds an offset. -/
def arbOf (off : Nat) : Nat := off / 0x100 % 0x1000 - 1
def medChanOf (off : Nat) : Nat := (off - 0x800000) / 0x1000
def stwGroupOf (off : Nat) : Nat := (off - 0x100000) / 0x8000 - 1

/-- What tells the boundary in progress of the block that holds an offset (R80). -/
def boundaryMark (s : State) (off : Nat) : Nat :=
  if 0x108000 ≤ off ∧ off < 0x200000 then windowEnd s (stwGroupOf off)
  else if 0x300100 ≤ off ∧ off < 0x400000 then (tabAt {} s.drc.arbs (arbOf off)).frames
  else if 0x800000 ≤ off ∧ off < 0x900000 then (tabAt {} s.media.chans (medChanOf off)).ops
  else 0

/-- Whether a write that waits has met a boundary (R78, R80): the window that it came in has ended, its arbiter has begun a
grant since, its channel an operation or its bus stands idle. The boundaries of the other blocks are the command's own. -/
def metBoundary (s : State) (w : RwbPend) : Bool :=
  if 0x108000 ≤ w.off ∧ w.off < 0x200000 then decide (w.mark ≤ now s)
  else if 0x300100 ≤ w.off ∧ w.off < 0x400000 then decide (w.mark < (tabAt {} s.drc.arbs (arbOf w.off)).frames)
  else if 0x800000 ≤ w.off ∧ w.off < 0x900000 then
    let c := tabAt {} s.media.chans (medChanOf w.off)
    c.holder.isNone || decide (w.mark < c.ops)
  else true

/-- A write that waits for its boundary. -/
def holdRwb (s : State) (p : Path) (off : Nat) (v : Dword) : State :=
  let w : RwbPend := { off := off, val := v, path := p, mark := boundaryMark s off }
  { s with bus := { s.bus with rwb := s.bus.rwb.filter (fun x => x.off != off) ++ [w] } }

/-- The value of a register once what waits for it has applied. -/
def nextVal (s : State) (off : Nat) : Dword :=
  match pendOf s off, regDesc off with
  | some w, some d => mergeVal d (regAt s off) w.val
  | _, _ => regAt s off

/-- The writes of a span of offsets that wait. -/
def pendsIn (s : State) (lo hi : Nat) : List RwbPend := s.bus.rwb.filter (fun w => decide (lo ≤ w.off) && decide (w.off < hi))

/-- The writes of a span of offsets no longer wait. -/
def dropPends (s : State) (lo hi : Nat) : State :=
  { s with bus := { s.bus with rwb := s.bus.rwb.filter (fun w => !(decide (lo ≤ w.off) && decide (w.off < hi))) } }

/-- APPLY_COUNT of the block at a base (R69, R77). -/
def applyCountOf (s : State) (block : Nat) : BitVec 8 := tabAt 0 s.bus.applyCount block

/-- A boundary that applies pending writes counts (R77). -/
def countApply (s : State) (block : Nat) : State :=
  { s with bus := { s.bus with applyCount := tabUpd 0 s.bus.applyCount block (· + 1) } }

/-- Whether a register whose value the settings store keeps (R70, R217) is among those written. -/
def anyRestored (ws : List RwbPend) : Bool := ws.any (fun w => isKept w.off)

/-- Changed register snapshots are saved (R70, R217) once the device has started. -/
def saveRegs (s : State) (ws : List RwbPend) : State :=
  if s.power.started && anyRestored ws then wantSettings s [] else s

/-- The writes that take the values that wait for them. -/
def applyPlain (s : State) (ws : List RwbPend) : State := ws.foldl (fun t w => setReg t w.off (nextVal s w.off)) s

/-- Writes that a boundary of a block has applied: they wait no more, it counts, and the snapshots that changed are saved. -/
def endBoundary (s : State) (ws : List RwbPend) (block : Nat) : State :=
  let s1 := { s with bus := { s.bus with rwb := s.bus.rwb.filter (fun w => !ws.contains w) } }
  saveRegs (countApply s1 block) ws

end Sys2Proof.Machine
end

