-- ==== Sys2Proof/Machine/RegRead.lean ====
section
/-! DEFINITION. What every register reads as (R62, R64, R69, R71, R77, R82 and the register tables of the chapters). A
register's number in its row of a table is the offset from the base of its block. -/

namespace Sys2Proof.Machine

/-- A share in percent. -/
def percentOf (part whole : Nat) : Nat := if whole = 0 then 0 else part * 100 / whole

/-- The half of a quantity of 64 bits that an offset names. -/
def halfOf (q : Nat) (hi : Bool) : Dword := dwordOf (if hi then q / 2 ^ 32 else q)

/-- A signed quantity of 64 bits. -/
def signed64 (i : Int) : Nat := bitsOf 64 i

/-! ### GLB, HIF -/

/-- The RO registers of GLB; GLB_GUARD_ADDR, GLB_XERR_ADDR and GLB_ACCESS_ADDR are stored. -/
def readGlb (s : State) (o : Nat) : Dword :=
  match o with
  | 0x00 => 0x81280001
  | 0x08 => 0x4245574B
  | 0x10 => halfOf s.power.serial.toNat false
  | 0x14 => halfOf s.power.serial.toNat true
  | 0x18 => s.power.fwVersion
  | 0x1C => dwordOf (s.power.lifecycle.toNat + place (bitNat (dbgOpen s)) 8 1)
  | 0x20 => dwordOf (bitNat s.power.casRole + place s.power.linkMode.toNat 1 2 + place (bitNat s.power.bootImage) 4 1)
  | 0x30 => halfOf (islandTime s isHost) false
  | 0x34 => halfOf (islandTime s isHost) true
  | 0x48 => dwordOf (s.power.cause.toNat + place (bitNat s.power.unclean) 8 1)
  | _ => regAt s o

/-- HIF_LINK_STATUS of a port. -/
def linkStatus (s : State) (p : Nat) : Dword :=
  let q : Port := tabAt {} s.host.ports p
  dwordOf (q.speed.toNat + place q.width.toNat 4 5 + place q.pm.toNat 9 2 + place (bitNat (decide (p < portCount s))) 11 1)

/-- The RO registers of HIF. -/
def readHif (s : State) (o : Nat) : Dword :=
  match o with
  | 0x0C =>
    dwordOf (place (Nat.min 65535 (ioExec s)) 0 16
      + place (Nat.min 65535 (s.host.exec.filter (fun e => e.isIo && e.phase == .held)).length) 16 16)
  | 0x10 => linkStatus s 0
  | 0x14 => linkStatus s 1
  | 0x18 => linkStatus s 2
  | 0x1C => linkStatus s 3
  | 0x24 =>
    dwordOf (bitNat s.time.ptmValid + place (bitNat s.time.stepped) 1 1 + place (bitNat (decide (s.time.slew < 0))) 2 1)
  | 0x28 => halfOf (signed64 s.time.ptmOffset) false
  | 0x2C => halfOf (signed64 s.time.ptmOffset) true
  | 0x30 => dwordOf (place s.power.pstate 0 3 + place (bitNat s.power.changing) 3 1 + place s.power.ptarget 4 3)
  | _ => 0

/-! ### Media, page code, translation, Etch -/

/-- MED_DIE_STATE of eight dies from die `k0`. -/
def dieStates (c : Chan) (k0 : Nat) : Dword :=
  dwordOf ((List.range 8).foldl (fun a k => a + place (tabAt {} c.dies (k0 + k)).st.toNat (4 * k) 4) 0)

/-- The RO registers of a media channel; the latest eye sample and pin test are stored. -/
def readMed (s : State) (ch o : Nat) : Dword :=
  let c := chanAt s ch
  let act := (c.dies.filter (fun d => d.2.st == dieActive)).length
  match o with
  | 0x00 => dwordOf (c.st.toNat + place c.rate.toNat 4 3 + place c.limit.toNat 8 2 + place act 16 5)
  | 0x28 => dieStates c 0
  | 0x2C => dieStates c 8
  | _ => regAt s (medBase ch + o)

/-- The progress of the DRAM pass, and of the flash pass: the share of the lines, and of the pages, before the position (DEDUCED,
log 131). -/
def dramPct (s : State) : Nat := percentOf s.pcs.dramPos (dramLines s)
def flashPct (s : State) : Nat :=
  let before_ (b : (Nat × Nat) × Nat) : Nat := ((List.range b.2).filter (fun p => decide (patrolKey b.1 p < s.pcs.patrol))).length
  percentOf ((patrolBlocks s).foldl (fun a b => a + before_ b) 0) (patrolPages s)

/-- PCS_DRAM_MARK of a channel: Fh where no device is marked. -/
def markValue (s : State) (c : Nat) : Dword :=
  dwordOf ((List.range 4).foldl (fun a k => a + place (tabAt 15 s.pcs.marks (4 * c + k)) (4 * k) 4) 0)

/-- Spare lines used on four DRAM channels. -/
def remapUsed (s : State) (c0 : Nat) : Dword :=
  dwordOf ((List.range 4).foldl (fun a k => a + place (sparesUsed s (c0 + k)) (8 * k) 6) 0)

/-- The RO registers of PCS and its groups; PCS_SELFTEST_RESULT is stored. -/
def readPcs (s : State) (o : Nat) : Dword :=
  if 0x10000 ≤ o then
    let g := o / 0x10000 - 1
    dwordOf (activeUnits s .ldpc g + place (bitNat (engineAt s .ldpc g).spareUsed) 5 1)
  else if 0x80 ≤ o then markValue s ((o - 0x80) / 4)
  else if o = 0x48 then
    dwordOf (place (dramPct s) 0 8 + place (flashPct s) 8 8 + place (bitNat s.pcs.dramLag) 16 1 + place (bitNat s.pcs.flashLag) 17 1)
  else if o = 0x70 then remapUsed s 0
  else if o = 0x74 then remapUsed s 4
  else if o = 0x78 then
    let full := (s.pcs.remapSram.filter (fun e => e.1 % 16 == 15)).length
    dwordOf (place s.pcs.remapSram.length 0 16 + place full 16 8)
  else regAt s (0xA00000 + o)

/-- The largest erase-count spread with its die, the lowest-numbered one of equals (R178). -/
def wearWorst (s : State) : Nat × Nat :=
  (blockDies s).foldl (fun (b : Nat × Nat) d => if b.1 < dieSpread s d then (dieSpread s d, d) else b) (0, 0)

/-- The share of the leaf pages of the map that are resident. -/
def residentPct (s : State) : Nat :=
  let leaf (p : Nat) : Bool := p / 2 ^ 47 % 2 == 0
  percentOf (s.ftl.resident.filter leaf).length (s.ftl.mapLoc.filter (fun e => leaf e.1)).length

/-- FTL_REBUILD_STATUS. -/
def rebuildStatus (s : State) : Dword :=
  match s.ftl.rebuild with
  | none => 0
  | some r =>
    dwordOf (place (percentOf r.cleared r.total) 0 8 + place (bitNat r.active) 8 1 + place (bitNat r.die.isNone) 9 1
      + place r.chan 16 7 + place (r.die.getD 0) 24 4)

/-- The RO registers of FTL. -/
def readFtl (s : State) (o : Nat) : Dword :=
  match o with
  | 0x00 => dwordOf (s.ftl.mode.toNat + place (bitNat ((s.ftl.rebuild.map (·.active)).getD false)) 2 1 + place s.ftl.meadowShare 16 16)
  | 0x18 => dwordOf (place (residentPct s) 0 8 + place (bitNat s.ftl.mapFull) 8 1)
  | 0x20 => dwordOf (place (Nat.min 65535 (wearWorst s).1) 0 16 + place (wearWorst s).2 16 11)
  | 0x24 =>
    dwordOf (place s.ftl.spareLeft 0 14 + place (bitNat (decide (s.ftl.spareLeft < 1000))) 16 1
      + place (bitNat (s.ftl.mode == 1)) 17 1)
  | 0x28 => rebuildStatus s
  | _ => 0

/-- The RO registers of ETB; the durations of the start stages are stored. -/
def readEtb (s : State) (o : Nat) : Dword :=
  let e := s.etch
  match o with
  | 0x00 =>
    dwordOf (bitNat s.power.fence + place (bitNat e.admitHold) 1 1 + place (bitNat e.jrnlHold) 2 1
      + place (bitNat e.rootActive) 3 1 + place (bitNat e.setActive) 4 1 + place (bitNat e.lost0) 5 1
      + place (bitNat e.lost1) 6 1 + place (occupancyPct s) 8 8 + place (percentOf (liveBytes s) (liveMax s)) 16 8)
  | 0x14 => dwordOf (s.power.fenceRails.toNat + place (Nat.min 65535 s.power.fenceCount) 16 16)
  | 0x18 => halfOf (e.seq) false
  | 0x1C => halfOf (e.seq) true
  | 0x20 => halfOf e.setSeq false
  | 0x24 => halfOf e.setSeq true
  | _ => regAt s (0xE00000 + o)

/-! ### Channels, lanes, codecs, search -/

/-- CHN_STATUS. -/
def readChn (s : State) : Dword :=
  dwordOf (place s.chn.slots.length 0 15
    + place (Nat.min 65535 (s.chn.jobs.filter (fun e => e.2.entered)).length) 16 16)

/-- FLN_LANE_STATUS. -/
def laneStatus (s : State) (l : Nat) : Dword :=
  let x := laneAt s l
  let e := engineAt s .lane 0
  let st : Nat :=
    if e.retired.contains l then 4
    else if x.piece.isSome then 2
    else if l = 8 ∧ !e.spareUsed then 3
    else if (activeLanes s).contains l then 1
    else 0
  match x.piece with
  | some p => dwordOf (st + place p.tenant 4 11 + place x.prog 16 16)
  | none => dwordOf st

/-- The RO registers of FLN and its lanes. -/
def readFln (s : State) (o : Nat) : Dword :=
  if 0x10000 ≤ o then
    let l := o / 0x10000 - 1
    if o % 0x10000 = 0 then laneStatus s l
    else dwordOf (place (laneAt s l).residents.length 0 4 + place (laneAt s l).loads 16 16)
  else if o = 0 then
    let used := (engineAt s .lane 0).spareUsed
    dwordOf (place (activeLanes s).length 0 4 + place (if used then 15 else 8) 4 4 + place (bitNat used) 8 1
      + place (s.chn.programs.filter (fun e => e.2.kind == 1)).length 16 13)
  else
    let keys := s.lanes.jobs.foldl (fun a e => a + e.2.table.length) 0
    let jobs := (s.lanes.jobs.filter (fun e => !e.2.table.isEmpty)).length
    dwordOf (place (Nat.min 2097151 keys) 0 21 + place (Nat.min 255 jobs) 24 8)

/-- The RO registers of CDC: active units, and contexts parked between jobs with the saves since start. -/
def readCdc (s : State) (o : Nat) : Dword :=
  if o = 0 then
    let used (p : Pool) : Nat := bitNat (engineAt s p 0).spareUsed
    dwordOf (place (activeUnits s .comp 0) 0 6 + place (used .comp) 6 1 + place (activeUnits s .dec 0) 8 7
      + place (used .dec) 15 1 + place (activeUnits s .henc 0) 16 4 + place (used .henc) 20 1)
  else
    let parked := s.chn.slots.foldl (fun a e => a + e.2.ctx.length) 0
    dwordOf (place (Nat.min 65535 parked) 0 16 + place s.codec.saves 16 16)

/-- The RO registers of CAM; CAM_LOST_INDEX and CAM_FALSE_HITS are stored. -/
def readCam (s : State) (o : Nat) : Dword :=
  if o = 0 then
    let pos := if s.cas.roleCode = 0 then 0 else s.cas.pos
    dwordOf (s.cam.banksOk.toNat + place s.cam.epoch.toNat 8 8 + place pos 16 3 + place (platesEn s) 20 7)
  else regAt s (0x1800000 + o)

/-! ### Cipher, digest, keys -/

/-- CRY_SLOT_INFO of a key slot. -/
def slotInfo (k : KeySlot) : Dword :=
  if k.st = 0 then 0 else dwordOf (k.st.toNat + place k.kind.toNat 2 2 + place k.origin.toNat 4 2 + place k.owner 6 11)

/-- The RO registers of a digest port: status, result, verdict (R426 to R431). -/
def readDgs (s : State) (own : DgsOwner) (o : Nat) : Dword :=
  if o = 0x108 then dwordOf (dgsStatus s own)
  else if o = 0x1C0 then dwordOf (verdictOf s own)
  else resultDword s own ((o - 0x140) / 4)

/-- CRY_GRP_STATUS of a cipher group. -/
def cipherGroup (s : State) (g : Nat) : Dword :=
  let b : Burin := tabAt {} s.cry.burin g
  dwordOf (place (activeUnits s .burin g) 0 4 + place (bitNat (engineAt s .burin g).spareUsed) 4 1
    + place (bitNat (!b.stalled.isEmpty)) 5 1 + place (Nat.min 512 b.queue.length) 16 10)

/-- The RO registers of CRY. -/
def readCry (s : State) (p : Path) (o : Nat) : Dword :=
  if o = 0 then
    let loaded := (s.cry.slots.filter (fun e => e.2.st != 0)).length
    dwordOf (place (activeUnits s .dgs 0) 0 6 + place (bitNat (engineAt s .dgs 0).spareUsed) 6 1
      + place (bitNat s.cry.drbgOk) 8 1 + place loaded 16 13)
  else if o < 0x10000 then readDgs s (.path p) o
  else if o < 0x90000 then cipherGroup s (o / 0x10000 - 1)
  else if o < 0x94000 then slotInfo (tabAt {} s.cry.slots ((o - 0x90000) / 4))
  else if o % 0x1000 = 0x10C then
    let u := o / 0x1000 % 16
    dwordOf (bitNat (msgOf s (.unit u)).isSome + place (fld (regAt s (0x1A00000 + o)) 8 1) 8 1)
  else readDgs s (.unit (o / 0x1000 % 16)) (o % 0x1000)

/-! ### Scheduler, tenants, DRAM, arbiters -/

/-- Flows enabled by firmware or held by a channel. -/
def flowsUsed (s : State) : Nat :=
  (s.bus.active.filter (fun e => decide (0x1C10000 ≤ e.1) && decide (e.1 < 0x1C20000) && e.1 % 16 == 0 && bitOf e.2 31)).length
    + (s.sch.flows.filter (fun e => e.2.chan.isSome)).length

/-- SCH_ISL_STATUS of a Sward island. -/
def islandStatus (s : State) (i : Nat) : Dword :=
  let cs := List.range' (i * 8) 8
  let ready := (s.sch.queues.filter (fun e => e.1 / 64 == i)).foldl (fun a e => a + e.2.length) 0
  dwordOf (place (cs.filter (fun c => !(coreAt s c).failed)).length 0 4
    + place (cs.filter (fun c => (coreAt s c).run.isSome)).length 4 4 + place (bitNat (!swardRuns s i)) 8 1 + place ready 16 15)

/-- The RO registers of SCH; the result of a descriptor step is stored. -/
def readSch (s : State) (p : Path) (o : Nat) : Dword :=
  if o = 0 then
    dwordOf (place (s.sch.descs.filter (fun e => e.2.st != dsFree)).length 0 15 + place (flowsUsed s) 16 13)
  else if o < 0x40 then islandStatus s ((o - 0x10) / 4)
  else if o = 0x44 then regAt s (0x1C00044 + pathNo p * 2 ^ 26)
  else
    let f := flowAt s ((o - 0x10000) / 16)
    dwordOf (if o % 16 = 8 then f.next else f.rel)

/-- Word `w` of an entry of the region table. -/
def regionWord (s : State) (n w : Nat) : Dword :=
  match tabGet s.tenants.regions n with
  | none => 0
  | some r =>
    if w = 0 then dwordOf r.base
    else if w = 1 then dwordOf r.last
    else
      dwordOf (place r.tenant 0 11 + place (bitNat r.read) 12 1 + place (bitNat r.write) 13 1 + place (bitNat r.exec) 14 1
        + place r.space 16 4 + place (bitNat r.named) 20 1 + 2 ^ 31)

/-- The RO registers of TNT. -/
def readTnt (s : State) (o : Nat) : Dword :=
  if o = 0 then dwordOf (regFld s 0x1E00008 0 1 + place s.tenants.regions.length 8 14)
  else if o = 0x18 then dwordOf (place s.tenants.slot 0 6 + place s.tenants.frames 8 24)
  else regionWord s ((o - 0x10000) / 16) (o % 16 / 4)

/-- DRC_STATUS. -/
def drcStatus (s : State) : Dword :=
  let used := dramInUse s
  let c := (used.head?.map (dchanAt s)).getD {}
  dwordOf (used.foldl (fun a k => a + 2 ^ k) 0 + place c.density.toNat 8 2 + place (bitNat c.ranks2) 10 1
    + place (bitNat c.rdimm) 11 1 + place c.rate.toNat 12 2 + place (dramBytes s / 2 ^ 30) 16 10)

/-- The RO registers of DRC and its channels; DRC_CH_RH_STATUS is stored. -/
def readDrc (s : State) (o : Nat) : Dword :=
  if o = 0 then drcStatus s
  else if o % 0x10000 = 0 then
    let k := o / 0x10000 - 1
    let c := dchanAt s k
    dwordOf (c.st.toNat + place (bitNat c.twox) 3 1 + place (postponedOf c) 4 3
      + place (Nat.min 1024 (arbAt s k).waiting.length) 16 11)
  else regAt s (0x400000 + o)

/-- Whether an arbiter has an emergency requester (R541). -/
def hasEmergency (a : Nat) : Bool := a < 8 || 16 ≤ a

/-- The RO registers of the arbiters; ARB_STATUS and the REVOKES fields are stored. -/
def readArb (s : State) (o : Nat) : Dword :=
  if o = 0 then regAt s 0x300000
  else
    let a := o / 0x100 - 1
    if o % 0x100 = 0 then dwordOf (arbRequesters a + place (bitNat (hasEmergency a)) 5 1)
    else
      dwordOf (place (arbAt s a).lastHold 0 5 + place (bitNat (!(arbAt s a).grants.isEmpty)) 5 1
        + place (regFld s (revokeKey a) 16 16) 16 16)

/-! ### Statistics, thermal, cascade -/

/-- The RO registers of a statistics group (R550). -/
def readStw (s : State) (g p : Nat) : Dword :=
  let w := groupAt s g
  if p = 0 then dwordOf (bitNat w.latest + place (bitNat w.valid) 1 1)
  else
    let b := if p < 0x2000 then w.bank0 else w.bank1
    let q := p % 0x1000
    if q < 8 then halfOf b.start (q == 4)
    else if q < 0x10 then halfOf b.stop (q == 0xC)
    else if q = 0x10 then
      dwordOf (place b.index 0 24 + place (bitNat b.short) 24 1 + place (bitNat b.stepped) 25 1 + place (bitNat b.gap) 26 1)
    else halfOf (tabAt 0 b.ctrs ((q - 0x100) / 8)) (q % 8 == 4)

/-- THM_SENSOR_OK from sensor `k0`. -/
def sensorsOk (s : State) (k0 : Nat) : Dword :=
  dwordOf ((List.range 32).foldl (fun a k => a + place (bitNat (!(sensorAt s (k0 + k)).broken)) k 1) 0)

/-- The RO registers of THM. -/
def readThm (s : State) (o : Nat) : Dword :=
  let t := s.therm
  if o = 0 then
    let st : Nat := if t.throttle then 2 else if t.warning then 1 else 0
    dwordOf (bitsOf 8 t.tjMax + place (bitsOf 8 t.tjMedian) 8 8 + place st 16 2 + place (pauseLevel s) 18 3
      + place t.hotSensor 24 6)
  else if o = 0x10 then sensorsOk s 0
  else if o = 0x14 then sensorsOk s 32
  else
    let x := sensorAt s ((o - 0x100) / 4)
    dwordOf (bitsOf 8 x.temp + place (bitNat x.suspect) 8 1 + place (bitNat x.broken) 9 1)

/-- CAS_LINK_STATUS of a link. -/
def tabferStatus (s : State) (l : Nat) : Dword :=
  let x := linkAt s l
  dwordOf (x.st.toNat + place x.peerPos 4 3 + place x.peerLink 8 2 + place (bitNat x.rev) 10 1
    + place x.polarity.toNat 16 8 + place (Nat.min 255 x.replays) 24 8)

/-- The RO registers of CAS. -/
def readCas (s : State) (o : Nat) : Dword :=
  if o = 0 then
    let c := s.cas
    dwordOf (c.roleCode.toNat + place c.pos 4 3 + place c.count 8 4 + place c.conflict.toNat 12 3
      + place c.ready.toNat 16 8)
  else if o < 0x20 then tabferStatus s ((o - 0x10) / 4)
  else if o = 0x20 then halfOf (signed64 s.time.syncOffset) false
  else if o = 0x24 then halfOf (signed64 s.time.syncOffset) true
  else dwordOf (bitNat s.cas.remote.isSome + place s.cas.rmtResult.toNat 4 4)

/-! ### Every register -/

/-- XXX_CFG_STATUS of the block at a base (R69). -/
def cfgStatus (s : State) (block : Nat) : Dword :=
  let waits := s.bus.rwb.any (fun w => ((regDesc w.off).map (·.block)) == some block)
  dwordOf (bitNat waits + place (applyCountOf s block).toNat 8 8)

/-- An RO register. -/
def readRo (s : State) (p : Path) (d : RegDesc) (off : Nat) : Dword :=
  if d.block ≠ 0 ∧ off = d.block + 4 then cfgStatus s d.block
  else if off < 0x100000 then readGlb s off
  else if off < 0x200000 then readStw s ((off - 0x100000) / 0x8000 - 1) (off % 0x8000)
  else if off < 0x300000 then readThm s (off - 0x200000)
  else if off < 0x400000 then readArb s (off - 0x300000)
  else if off < 0x800000 then readDrc s (off - 0x400000)
  else if off < 0xA00000 then readMed s ((off - 0x800000) / 0x1000) (off % 0x1000)
  else if off < 0xC00000 then readPcs s (off - 0xA00000)
  else if off < 0xE00000 then readFtl s (off - 0xC00000)
  else if off < 0x1000000 then readEtb s (off - 0xE00000)
  else if off < 0x1200000 then readHif s (off - 0x1000000)
  else if off < 0x1400000 then readChn s
  else if off < 0x1600000 then readFln s (off - 0x1400000)
  else if off < 0x1800000 then readCdc s (off - 0x1600000)
  else if off < 0x1A00000 then (if d.perPath then regAt s (regKey d p off) else readCam s (off - 0x1800000))
  else if off < 0x1C00000 then readCry s p (off - 0x1A00000)
  else if off < 0x1E00000 then readSch s p (off - 0x1C00000)
  else if off < 0x2000000 then readTnt s (off - 0x1E00000)
  else if off < 0x2200000 then readCas s (off - 0x2000000)
  else 0

/-- SCH_FLOW_A.CHANNEL of a flow register: an RO field beside the fields under RWB (R499). -/
def flowChannelBit (s : State) (off : Nat) : Dword :=
  if 0x1C10000 ≤ off ∧ off < 0x1C20000 ∧ off % 16 = 0 then
    dwordOf (place (bitNat (flowAt s ((off - 0x1C10000) / 16)).chan.isSome) 30 1)
  else 0

/-- What a register holds for a read on a path: the active value of a register under RWB (R77), 0 of one under WO (R71), the
complement at X + 4 of one under RWG (R82). -/
def readReg (s : State) (p : Path) (d : RegDesc) (off : Nat) : Dword :=
  match d.cls with
  | .ro => readRo s p d off
  | .rsq => rsqValue (rsqAt s off)
  | .wo => 0
  | .guardPlus => ~~~(regAt s (off - 4))
  | .rwb => regAt s (regKey d p off) ||| flowChannelBit s off
  | .rw | .rwg => regAt s (regKey d p off)

/-! ### ALERT_N (R76) -/

/-- The event registers whose set and enabled bits assert ALERT_N: their enables stand 4 above, those of GLB drive no output. -/
def alertEvents : List Nat :=
  (List.range 128).map evMed ++ [evPcs, evFtl, evEtb, evHif, evChn, evFln, evCdc, evCam, evCry, evSch, evTnt, evDrc, evArb, evStw,
    evThm, evCas]

/-- Whether an event of a block is set and enabled. -/
def eventEnabled (s : State) (ev : Nat) : Bool := (rsqAt s ev).bits.any (fun b => bitOf (regAt s (ev + 4)) b.1)

/-- Whether ALERT_N is asserted: by an enabled event (R76), with no boot image (R229), in a thermal shutdown (R560). -/
def alertAsserted (s : State) : Bool := s.power.noImage || s.power.shutdown || alertEvents.any (eventEnabled s)

end Sys2Proof.Machine
end

