-- ==== Sys2Proof/Machine/Windows.lean ====
section
/-! DEFINITION. The latch of a statistics window (R549 to R551), whose boundary applies the registers of its group (R80). -/

namespace Sys2Proof.Machine

/-- The writes that wait for a group's registers and have met a boundary applied (R77, R80): they are in force from that boundary
on, so a latch that comes later finds them applied. -/
def applyGroup (s : State) (g : Nat) : State :=
  let ws := (pendsIn s (stwBase g) (stwBase g + 0x8000)).filter (metBoundary s)
  if ws.isEmpty then s else retimeGroup (endBoundary (applyPlain s ws) ws (stwBase g)) g

/-- The largest count. -/
def countMax : Nat := 2 ^ 64 - 1

/-- The bank that a window is written to. -/
def latchedBank (w : Group) : Bank :=
  { start := w.openAt, stop := w.boundary, index := w.openAt / periodTicks w.period, short := w.short, stepped := w.stepped
    gap := w.gap, ctrs := w.counts.map (fun e => (e.1, Nat.min e.2 countMax)) }

/-- WINDOW_LATCH (R549): once every contributing island has reported or stands still, the bank that is not LATEST takes the
window, and then LATEST flips. The next window opens, under the registers that its boundary has applied. -/
def execWindowLatch (g : Nat) (s : State) : Out :=
  let w := groupAt s g
  let waits := w.sources.any (fun i => clockRuns s i && !w.reported.contains i)
  if 16 ≤ g || w.period = 0 || now s < w.boundary || !clockRuns s isFabric || waits then .next s
  else
    let b := latchedBank w
    let s0 := applyGroup s g
    let p := stwPeriod s0 g
    let s1 := updGroup s0 g (fun w => { w with
      latest := !w.latest, valid := true, bank0 := if w.latest then b else w.bank0, bank1 := if w.latest then w.bank1 else b })
    let s2 := raiseIf (w.counts.any (fun e => decide (countMax < e.2))) s1 evStw 1
    .next (openWindow s2 g p (w.nextOpen.getD w.boundary) (decide (p ≠ w.period)) w.nextOpen.isSome)

end Sys2Proof.Machine
end

