-- ==== Sys2Proof/Machine/Regs.lean ====
section
/-! DEFINITION. The register interface (R59 to R85): the register bus root, writes under each access class, guard sequences,
boundaries, reads, accesses that cross to another island. -/

namespace Sys2Proof.Machine

/-! ### Writes at their register (R71, R72, R74, R77) -/

/-- R72: a KEEP field given a value other than 0, which is what it reads. -/
def keepFlag (s : State) (p : Path) (d : RegDesc) (off : Nat) (v : Dword) : State :=
  if v.toNat &&& keepMask d ≠ 0 then accessError s p off 2 else s

/-- A register whose value the settings store keeps has changed, once the device has started (R70, R217). -/
def saveIfKept (s : State) (off : Nat) : State := if s.power.started && isKept off then wantSettings s [] else s

/-- SCH_EVENT_EN enables an event that is set: the interrupt of R495 is raised. -/
def enableSch (s : State) (old new : Dword) : State :=
  let on (b : Nat) : Bool := new.toNat.testBit b && !old.toNat.testBit b
  if (rsqAt s evSch).bits.any (fun e => on e.1) then { s with sch := { s.sch with sched11 := true } } else s

/-- A write to an RW register. -/
def writeRw (s : State) (p : Path) (d : RegDesc) (off : Nat) (v : Dword) : State :=
  let key := regKey d p off
  let old := regAt s key
  let new := mergeVal d old v
  let s1 := saveIfKept (setReg s key new) off
  if off = 0x1C00034 then enableSch s1 old new else s1

/-- A write to a digest port (R426 to R430) at offset `o` of its layout. -/
def writeDgs (s : State) (own : DgsOwner) (p : Path) (o : Nat) (v : Dword) : State :=
  if o = 0x100 then
    if fld v 0 3 = 1 then portStart s own (BitVec.ofNat 2 (fld v 4 2)) (BitVec.ofNat 2 (fld v 6 2)) (pathTenant p)
    else if fld v 0 3 = 2 then portFinish s own (BitVec.ofNat 2 (fld v 8 2))
    else if fld v 0 3 = 3 then closeMsg s own
    else s
  else if o = 0x104 then feedMsg s own (leBytes v.toNat 4)
  else setExpect s own (overlayAt (expectOf s own) (o - 0x180) (leBytes v.toNat 4))

/-- SCH_DESC_CTL (R502): a reserved OP is rejected with RESULT 3h. -/
def writeDescCtl (s : State) (p : Path) (v : Dword) : State :=
  let d := fld v 4 14
  match fld v 0 4 with
  | 1 => descReadStep s p d
  | 2 => descCreateStep s p d
  | 3 => descKillStep s p d
  | 4 => descPrioStep s p d
  | _ => descResult s p 3

/-- A write to a WO register. -/
def writeWo (s : State) (p : Path) (off : Nat) (v : Dword) : State :=
  if off = 0x1800020 then camIssue s p (fld v 0 4) (fld v 4 17)
  else if off = 0x1C00040 then writeDescCtl s p v
  else if off = 0x2000040 then startRemote s (fld v 0 2) (fld v 4 3)
  else if 0x1B00000 ≤ off then writeDgs s (.unit (off / 0x1000 % 16)) p (off % 0x1000) v
  else writeDgs s (.path p) p (off % 0x10000) v

/-- A write that has reached its register takes effect under the register's class. The guard logic deals with RWG registers. -/
def writeReg (s : State) (p : Path) (d : RegDesc) (off : Nat) (v : Dword) : State :=
  match d.cls with
  | .ro => keepFlag s p d off v
  | .rw => writeRw (keepFlag s p d off v) p d off v
  | .wo => writeWo (keepFlag s p d off v) p off v
  | .rsq => { s with bus := { s.bus with rsq := tabUpd {} s.bus.rsq off (fun r => rsqClear r (BitVec.ofNat 8 (fld v 24 8))) } }
  | .rwb => holdRwb (keepFlag s p d off v) p off v
  | .rwg | .guardPlus => s

/-! ### Guard sequences (R81 to R83) -/

/-- The time at which accesses of a path arrive: that of the host island for the host path and the remote path, of the fabric
island for firmware and the keeper. -/
def busTime (s : State) (p : Path) : Nat :=
  match p with
  | .host | .remote => islandTime s isHost
  | .fw | .keeper => islandTime s isFabric

/-- The pending first write of a path, and the state with it gone. -/
def guardOf (s : State) (p : Path) : Option GuardPend := tabGet s.bus.guards (pathNo p)
def dropGuard (s : State) (p : Path) : State :=
  { s with bus := { s.bus with guards := tabDel s.bus.guards (pathNo p) } }

/-- A failed sequence of register X: its bit and GLB_GUARD_ADDR; nothing is pending on the path any more. -/
def guardFail (s : State) (p : Path) (x bit : Nat) : State :=
  setReg (raise (dropGuard s p) evGuard bit) 0x54 (addrValue p x)

/-- Whether a sequence is late at a time: more than 1 µs has passed (R81). -/
def guardLate (g : GuardPend) (t : Nat) : Bool := g.at_ + usTicks < t

/-- A sequence that is late at a time has failed with TIMEOUT. -/
def expireGuard (s : State) (p : Path) (t : Nat) : State :=
  match guardOf s p with
  | some g => if guardLate g t then guardFail s p g.off 1 else s
  | none => s

/-- Another guard write fails a pending sequence with INTERVENING. -/
def breakGuard (s : State) (p : Path) : State :=
  match guardOf s p with
  | some g => guardFail s p g.off 2
  | none => s

/-- Whether a value of an RWG register is reserved: GLB_RESET_CTL.KIND 3h to Fh. -/
def badValue (v : Dword) : Bool := 3 ≤ fld v 0 4

/-- The exact complement has come in time: the value becomes active, unless it is reserved. -/
def commitGuard (s : State) (p : Path) (g : GuardPend) : State :=
  if badValue g.val then guardFail s p g.off 4
  else
    match regDesc g.off with
    | some d => setReg (keepFlag (dropGuard s p) p d g.off g.val) g.off (mergeVal d (regAt s g.off) g.val)
    | none => s

/-- A write to X + 4 of the RWG register at X. One at another register than the pending one fails both in one cycle (R83). -/
def complementWrite (s : State) (p : Path) (x : Nat) (v : Dword) : State :=
  match guardOf s p with
  | none => guardFail s p x 3
  | some g =>
    if g.off ≠ x then setReg (raiseBits (dropGuard s p) evGuard [2, 3]) 0x54 (addrValue p x)
    else if v ≠ ~~~g.val then guardFail s p x 0
    else commitGuard s p g

/-- A first write to the RWG register at X, which arrived at `t`. -/
def firstWrite (s : State) (p : Path) (x : Nat) (v : Dword) (t : Nat) : State :=
  let s1 := breakGuard s p
  { s1 with bus := { s1.bus with guards := tabPut s1.bus.guards (pathNo p) { off := x, val := v, at_ := t } } }

/-- Whether a write to an offset is a guard write (R81): GLB holds every RWG register. -/
def isGuardWrite (off : Nat) : Bool := off < 0x100000

/-- What a write does to the guard sequence of its path. -/
def guardWrite (s : State) (p : Path) (off : Nat) (v : Dword) (t : Nat) : State :=
  if !isGuardWrite off then s
  else
    let s1 := expireGuard s p t
    match (regDesc off).map RegDesc.cls with
    | some RegClass.rwg => firstWrite s1 p off v t
    | some RegClass.guardPlus => complementWrite s1 p (off - 4) v
    | _ => breakGuard s1 p

/-! ### The register bus root (R60 to R63, R66 to R68) -/

/-- The GLB_ACCESS_STATUS bit of an access to an offset without a register that the path may reach. -/
def accessFault (s : State) (p : Path) (off : Nat) : Option Nat :=
  if 0x1B00000 ≤ off ∧ off < 0x1C00000 ∧ p ≠ .keeper then some 3
  else if 0x2200000 ≤ off ∧ off < 0x2400000 ∧ !dbgOpen s then some 4
  else if (regDesc off).isNone then some 0
  else none

/-- A dword write executed: its part in a guard sequence, then its effect under the register's class. -/
def runWrite (s : State) (p : Path) (off : Nat) (v : Dword) (t : Nat) : State :=
  let s1 := guardWrite s p off v t
  match accessFault s1 p off with
  | some b => accessError s1 p off b
  | none =>
    match regDesc off with
    | some d => writeReg s1 p d off v
    | none => s1

/-- A discarded access: a read of it returns 0, a write in GLB is still a guard write (R61, R81). -/
def runDiscard (s : State) (w : Arrived) : State :=
  let p := w.access.path
  let s1 :=
    if w.access.wr.isNone then answerRead s p 0
    else if isGuardWrite w.access.off then breakGuard (expireGuard s p w.at_) p
    else s
  accessError s1 p w.access.off 1

/-! ### Reads (R61 to R68, R428) -/

/-- Whether the island of a register runs. -/
def regRuns (s : State) (d : RegDesc) : Bool := clockRuns s d.island

/-- The answer of a read, of which `hi` is the higher half of a qword. -/
def answerHalf (s : State) (p : Path) (hi : Bool) (v : Dword) : State := if hi then answerHigh s p v else answerRead s p v

/-- A register read answered on a path. A read of the _LO half of a pair copies the high half into the path's shadow, which a read
of the _HI half answers (R64); a result register read before DONE sets EARLY (R428). -/
def readOk (s : State) (p : Path) (d : RegDesc) (off : Nat) (hi : Bool) : State :=
  if isHiHalf off then answerHalf s p hi (tabAt 0 s.bus.shadow (pathNo p))
  else
    let s1 := answerHalf s p hi (readReg s p d off)
    if isLoHalf off then
      match regDesc (off + 4) with
      | some h => { s1 with bus := { s1.bus with shadow := tabPut s1.bus.shadow (pathNo p) (readReg s p h (off + 4)) } }
      | none => s1
    else
      let o := off % 0x1000
      if d.block = 0x1A00000 ∧ 0x140 ≤ o ∧ o < 0x180 ∧ (off < 0x1A01000 ∨ 0x1B00000 ≤ off) then
        let own : DgsOwner := if 0x1B00000 ≤ off then .unit (off / 0x1000 % 16) else .path p
        if isDone s1 own then s1 else readEarly s1 own
      else s1

/-- A dword read executed: it is answered, or it reaches no register, returns 0 and says why. -/
def runRead (s : State) (p : Path) (off : Nat) (hi : Bool) : State :=
  match accessFault s p off with
  | some b => accessError (answerHalf s p hi 0) p off b
  | none =>
    match regDesc off with
    | some d => readOk s p d off hi
    | none => s

/-! ### The queue of a path (R12, R60 to R63) -/

/-- The limit of R12 in ticks. -/
def crossLimit : Nat := 2000

/-- The accesses of a path at the root, oldest first; the first is the one in progress. -/
def waitingOn (s : State) (p : Path) : List Arrived := tabAt [] s.bus.waiting (pathNo p)
def setWaiting (s : State) (p : Path) (l : List Arrived) : State :=
  { s with bus := { s.bus with waiting := tabSet [] s.bus.waiting (pathNo p) l } }

/-- The writes of a path that the root has timed out and not withdrawn (R85), oldest first. -/
def lateOn (s : State) (p : Path) : List Arrived := tabAt [] s.bus.late (pathNo p)
def setLate (s : State) (p : Path) (l : List Arrived) : State :=
  { s with bus := { s.bus with late := tabSet [] s.bus.late (pathNo p) l } }

/-- What an access does once the root executes it, or the island of its register has it. -/
def runAccess (s : State) (w : Arrived) : State :=
  if w.bad then runDiscard s w
  else
    match w.access.wr with
    | some v => runWrite s w.access.path w.access.off v w.at_
    | none => runRead s w.access.path w.access.off w.hi

/-- Whether an access crosses to another island. -/
def crosses (s : State) (w : Arrived) : Bool :=
  !w.bad && (accessFault s w.access.path w.access.off).isNone && ((regDesc w.access.off).map (·.x)).getD false

/-- Whether the clock of the island that an access goes to is stopped. -/
def stopped (s : State) (off : Nat) : Bool := !(((regDesc off).map (regRuns s)).getD false)

/-- Whether the limit of R12 has passed since the root started an access. -/
def overdue (s : State) (w : Arrived) : Bool :=
  match w.start with
  | some t => decide (t + crossLimit ≤ islandTime s isHost)
  | none => false

/-- The root starts an access toward another island. -/
def started (s : State) (w : Arrived) : Arrived :=
  if w.start.isSome then w else { w with start := some (islandTime s isHost), stalled := stopped s w.access.off }

/-- The root executes the accesses of a path one at a time (R63), up to one that crosses, which it starts. A write in progress
beyond the limit of R12 is timed out: it may still be accepted, and those behind it go on (R85). -/
def drainPath (p : Path) : Nat → State → State
  | 0, s => s
  | n + 1, s =>
    match waitingOn s p with
    | [] => s
    | w :: rest =>
      if !crosses s w then drainPath p n (runAccess (setWaiting s p rest) w)
      else if w.access.wr.isSome && overdue s w then
        drainPath p n (setLate (setWaiting s p rest) p (lateOn s p ++ [w]))
      else setWaiting s p (started s w :: rest)

/-- The path goes on. -/
def drain (s : State) (p : Path) : State := drainPath p (waitingOn s p).length s

/-- Accesses that arrive at the root behind those of their path. -/
def joinPath (s : State) (p : Path) (l : List Arrived) : State := drain (setWaiting s p (waitingOn s p ++ l)) p

/-- One dword of an arriving access, with the tag of its path. -/
def dwordAccess (s : State) (p : Path) (off : Nat) (wr : Option Dword) : Arrived :=
  { access := { path := p, off := off, wr := wr }, at_ := busTime s p, tag := pathTenant p }

/-- Whether an access is discarded (R61): one that is no aligned dword or qword (R60), and a write with partial byte enables. It
then sets PARTIAL_WRITE alone, in a window that takes no access as well (DESIGN CHOICE, log 141). -/
def discarded (a : RegAccess) : Bool :=
  match a.size with
  | .dword => a.off % 4 ≠ 0 || (a.wr.isSome && a.be.toNat % 16 ≠ 15)
  | .qword => a.off % 8 ≠ 0 || (a.wr.isSome && a.be ≠ 0xFF)
  | .other => true

/-- The dword accesses that an arriving access is executed as (R60): of a qword, the lower first, with nothing in between. -/
def dwordsOf (s : State) (a : RegAccess) : List Arrived :=
  let half (k : Nat) : Option Dword := a.wr.map (fun q => q.extractLsb' (32 * k) 32)
  if discarded a then [{ dwordAccess s a.path a.off (half 0) with bad := true }]
  else
    match a.size with
    | .qword => [dwordAccess s a.path a.off (half 0), { dwordAccess s a.path (a.off + 4) (half 1) with hi := true }]
    | _ => [dwordAccess s a.path a.off (half 0)]

/-- REGISTER_WRITE (R60 to R63, R71): an access arrives at the root: a write, or a read that has no row of its own. -/
def execRegisterWrite (a : RegAccess) (s : State) : Out :=
  .next (if clockRuns s isHost then joinPath s a.path (dwordsOf s a) else s)

/-! ### Accesses that reach another island (R12, R15, R84, R85) -/

/-- The access in progress on a path has reached its register, and those behind it go on. -/
def finishHead (s : State) (p : Path) : State :=
  match waitingOn s p with
  | w :: rest => drain (runAccess (setWaiting s p rest) w) p
  | [] => s

/-- An access that arrives and reaches its register within one row: with the path free and the island running the crossing takes
no row of its own, and a row of the access in progress is its arrival there. -/
def reachNow (s : State) (p : Path) (l : List Arrived) : State :=
  match l with
  | [] => s
  | a :: rest =>
    match waitingOn s p with
    | [] => if (a :: rest).all (fun x => !stopped s x.access.off) then (a :: rest).foldl runAccess s else joinPath s p l
    | w :: _ =>
      if w.access = a.access ∧ w.start.isSome ∧ !stopped s w.access.off ∧ rest = [] then finishHead s p else joinPath s p l

/-- A write to a register of one class reaches it. -/
def reachWrite (s : State) (c : RegClass) (p : Path) (off : Nat) (v : Dword) : State :=
  match regDesc off with
  | some d => if d.cls ≠ c || !clockRuns s isHost then s else reachNow s p [dwordAccess s p off (some v)]
  | none => s

/-- RSQ_CLEAR_WRITE (R74). -/
def execRsqClearWrite (p : Path) (off : Nat) (v : Dword) (s : State) : Out := .next (reachWrite s .rsq p off v)

/-- RWB_WRITE (R77): the write waits for the boundary of its block. -/
def execRwbWrite (p : Path) (off : Nat) (v : Dword) (s : State) : Out := .next (reachWrite s .rwb p off v)

/-- RWG_FIRST_WRITE (R81): a write to X. -/
def execRwgFirstWrite (p : Path) (off : Nat) (v : Dword) (s : State) : Out := .next (reachWrite s .rwg p off v)

/-- RWG_COMPLEMENT_WRITE (R81): a write to X + 4. -/
def execRwgComplementWrite (p : Path) (off : Nat) (v : Dword) (s : State) : Out := .next (reachWrite s .guardPlus p off v)

/-- PAIR_LO_READ (R64): a dword or a qword read at a _LO register. -/
def execPairLoRead (p : Path) (r : PairRead) (s : State) : Out :=
  .next (
    if clockRuns s isHost && isLoHalf r.off then
      reachNow s p (dwordsOf s { path := p, off := r.off, size := r.size, be := 0xFF, wr := none })
    else s)

/-- RWG_GUARD_TIMEOUT (R83): 1 µs has passed on a path, and no guard write that arrived in time waits at the root. -/
def execRwgGuardTimeout (p : Path) (s : State) : Out :=
  .next <|
    match guardOf s p with
    | none => s
    | some g =>
      let inTime := (waitingOn s p).any (fun w => w.access.wr.isSome && isGuardWrite w.access.off && !guardLate g w.at_)
      if inTime then s else expireGuard s p (busTime s p)

/-- The late write of a path that has the same register island as an access, if any: it reaches the island first (R13). -/
def lateAhead (s : State) (a : BusAccess) : Option Arrived :=
  (lateOn s a.path).find? (fun w => (regDesc w.access.off).map (·.island) == (regDesc a.off).map (·.island))

/-- XREG_ACCESS_COMPLETE (R13, R15, R84, R85): the island of a register answers the read in progress on a path, or accepts the
write, while its clock runs. A write that the root has timed out and not withdrawn still takes effect; the answer of a read that
the root has given up is discarded. -/
def execXregAccessComplete (a : BusAccess) (s : State) : Out :=
  .next <|
    if !clockRuns s isHost || stopped s a.off then s
    else
      match lateAhead s a with
      | some w => if w.access = a then runAccess (setLate s a.path ((lateOn s a.path).erase w)) w else s
      | none =>
        match waitingOn s a.path with
        | w :: _ =>
          if w.access = a ∧ w.start.isSome ∧ (w.access.wr.isSome ∨ !overdue s w) then finishHead s a.path else s
        | [] => s

/-- An access to a register of another island that the root has given up: GLB_XERR and GLB_XERR_ADDR. -/
def crossError (s : State) (p : Path) (off bit : Nat) : State := setReg (raise s evXerr bit) 0x5C (addrValue p off)

/-- Whether the root gives up the access in progress: the limit has passed, and the clock of its island stood still (R15). -/
def givenUp (s : State) (w : Arrived) : Bool := overdue s w && (w.stalled || stopped s w.access.off)

/-- XREG_READ_TIMEOUT (R84): the read in progress on a path ends with all ones. -/
def execXregReadTimeout (p : Path) (off : Nat) (s : State) : Out :=
  .next <|
    match waitingOn s p with
    | w :: rest =>
      if w.access.off = off ∧ w.access.wr.isNone ∧ givenUp s w then
        drain (crossError (answerHalf (setWaiting s p rest) p w.hi 0xFFFFFFFF) p off 0) p
      else s
    | [] => s

/-- XREG_WRITE_DROPPED (R85): a write that its island has not accepted within the limit is withdrawn. -/
def execXregWriteDropped (p : Path) (off : Nat) (s : State) : Out :=
  .next <|
    match (lateOn s p).find? (fun w => w.access.off == off), waitingOn s p with
    | some w, _ => crossError (setLate s p ((lateOn s p).erase w)) p off 1
    | none, w :: rest =>
      if w.access.off = off ∧ w.access.wr.isSome ∧ givenUp s w then drain (crossError (setWaiting s p rest) p off 1) p else s
    | none, [] => s

/-! ### Boundaries (R77 to R80) -/

/-- Ranks of a media channel that wait (R119): a rank given twice applies neither register. -/
def applyDieRanks (s : State) (ch : Nat) (ws : List RwbPend) : State :=
  let base := medBase ch
  let isRank (w : RwbPend) : Bool := w.off == base + 0x30 || w.off == base + 0x34
  let v (k : Nat) : Nat := fld (nextVal s (base + 0x30 + k / 8 * 4)) (k % 8 * 4) 4
  if !ws.any isRank then s
  else if repeats ((List.range 16).map v) then raise s (evMed ch) 7
  else applyPlain s (ws.filter isRank)

/-- The block of a media channel. -/
def applyMedia (s : State) (ch : Nat) (ws : List RwbPend) : State :=
  let base := medBase ch
  let s1 := applyDieRanks s ch ws
  let s2 := (ws.filter (fun w => w.off != base + 0x30 && w.off != base + 0x34)).foldl
    (fun t w => setReg t w.off (nextVal s w.off)) s1
  if ws.any (fun w => w.off == base + 8) then changeRate s2 ch else s2

/-- The ranks of an arbiter (R542): a rank given twice applies none. -/
def applyArbRanks (s : State) (a : Nat) (ws : List RwbPend) : State :=
  if repeats (ranksFrom (nextVal s) a) then setReg (raise s evArb 0) 0x300000 (dwordOf a) else applyPlain s ws

/-- The plates and CAM_CFG (R380). -/
def applySearch (s : State) (ws : List RwbPend) : State :=
  let plain := ws.filter (fun w => decide (w.off < 0x1801000))
  let plates := setOfNats ((ws.filter (fun w => decide (0x1801000 ≤ w.off))).map (fun w => (w.off - 0x1801000) / 8))
  let x := plates.foldl (fun t n =>
    let mine (w : RwbPend) : Bool := w.off == plateOffA n || w.off == plateOffB n
    applyPlate t n (nextVal s (plateOffA n)) (nextVal s (plateOffB n)) (ws.any (fun w => mine w && w.path == .host)))
    (applyPlain s plain, [])
  raiseAll x.1 evCam x.2

/-- SCH_CFG2 (R478): FW_DESC applies only while every descriptor that it would reassign is free. -/
def applyDescs (s : State) (v : Dword) : State :=
  let old := fwDescs s
  let new := 64 * within 1 255 (fld v 24 8)
  let busy := s.sch.descs.any (fun e =>
    decide (Nat.min old new ≤ e.1) && decide (e.1 < Nat.max old new) && e.2.st != dsFree)
  setReg s 0x1C0000C (if busy then putFld v 24 8 (regFld s 0x1C0000C 24 8) else v)

/-- Registers of a firmware flow (R496, R503): enabling sets NEXT and REL to 0, and clearing EN wakes the threads in FTAKE. Beside
the state stands whether a flow was rejected at the boundary. -/
def applyFlow (x : State × Bool) (f : Nat) (a b : Dword) : State × Bool :=
  let s := x.1
  let offA := 0x1C10000 + 16 * f
  let oldA := regAt s offA
  let en := bitOf oldA 31
  let changed := fld oldA 0 31 ≠ fld a 0 31 || regAt s (offA + 4) ≠ b
  if decide (fwFlows s ≤ f) || (en && changed) || b.toNat / 2 ^ 20 ≠ 1 then (s, true)
  else
    let s1 := setReg (setReg s offA a) (offA + 4) b
    let s2 := if !en && bitOf a 31 then setFlow s1 f {} else if en && !bitOf a 31 then wakeTakers s1 f true else s1
    (s2, x.2)

/-- The block of the scheduler. -/
def applySched (s : State) (ws : List RwbPend) : State :=
  let cfg := ws.filter (fun w => decide (w.off < 0x1C10000) && w.off != 0x1C0000C)
  let flows := setOfNats ((ws.filter (fun w => decide (0x1C10000 ≤ w.off))).map (fun w => (w.off - 0x1C10000) / 16))
  let s1 := applyPlain s cfg
  let s2 := if ws.any (fun w => w.off == 0x1C0000C) then applyDescs s1 (nextVal s 0x1C0000C) else s1
  let x := flows.foldl (fun t f => applyFlow t f (nextVal s (0x1C10000 + 16 * f)) (nextVal s (0x1C10004 + 16 * f))) (s2, false)
  if x.2 then schEvent x.1 6 else x.1

/-- What waits for a boundary takes effect, by the window of the block. -/
def applyBlock (s : State) (block : Nat) (ws : List RwbPend) : State :=
  if 0x100000 ≤ block ∧ block < 0x200000 then retimeGroup (applyPlain s ws) ((block - 0x100000) / 0x8000 - 1)
  else if 0x300000 ≤ block ∧ block < 0x400000 then applyArbRanks s (block / 0x100 % 0x100 - 1) ws
  else if 0x800000 ≤ block ∧ block < 0x900000 then applyMedia s ((block - 0x800000) / 0x1000) ws
  else if block = 0xE00000 then resumeJobs (resumeCmds (settleAdmission (settleJournal (applyPlain s ws))))
  else if block = 0xC00000 then settleSpare (applyPlain s ws)
  else if block = 0x1800000 then applySearch s ws
  else if block = 0x1C00000 then applySched s ws
  else applyPlain s ws

/-- The writes that wait for a boundary of a block, or of the arbiter whose base is given, and have met it (R78, R80). Those of TNT
wait for the engine frame. -/
def boundaryPends (s : State) (block : Nat) : List RwbPend :=
  let l :=
    if 0x300000 ≤ block ∧ block < 0x400000 then (if block < 0x300100 then [] else pendsIn s block (block + 0x100))
    else if block = 0x1E00000 then []
    else s.bus.rwb.filter (fun w => ((regDesc w.off).map (·.block)) == some block)
  l.filter (metBoundary s)

/-- A boundary of a block: what waits for it and has met it applies together. A block whose island's clock is stopped has no
boundary (R79). -/
def meetBoundary (s : State) (block : Nat) : State :=
  let ws := boundaryPends s block
  let runs := ws.all (fun w => ((regDesc w.off).map (regRuns s)).getD false)
  let common := if 0x300000 ≤ block ∧ block < 0x400000 then 0x300000 else block
  if ws.isEmpty || !runs then s else endBoundary (applyBlock s block ws) ws common

/-- Every channel takes what is in force in DRC: none of its values stands ahead of it. -/
def settleEarly (s : State) : State :=
  { s with drc := { s.drc with chans := s.drc.chans.map (fun e => (e.1, { e.2 with early := [] })) } }

/-- What waits in DRC, as a channel takes it. -/
def drcNext (s : State) : List (Nat × Dword) :=
  (pendsIn s 0x400000 0x410000).foldl (fun l w => tabPut l w.off (nextVal s w.off)) []

/-- A refresh interval of a DRAM channel begins: the channel takes what waits in DRC (R80). Once every channel in use has it, the
registers have applied. -/
def drcBoundary (s : State) (ch : Nat) : State :=
  if (drcNext s).isEmpty || !clockRuns s (isDram ch) then s
  else
    let s1 := updDchan s ch (fun c => { c with early := drcNext s })
    if (dramInUse s1).all (fun c => (dchanAt s1 c).early == drcNext s) then settleEarly (meetBoundary s1 0x400000) else s1

/-- RWB_BOUNDARY_APPLY (R77, R80): everything that waits for a boundary of a block applies together, which counts. In DRC each
channel has boundaries of its own, known by the base of its block; at the base of DRC itself they coincide. -/
def execRwbBoundaryApply (block : Nat) (s : State) : Out :=
  .next (
    if 0x410000 ≤ block ∧ block < 0x490000 then drcBoundary s ((block - 0x410000) / 0x10000)
    else if block = 0x400000 then settleEarly (meetBoundary s block)
    else meetBoundary s block)

end Sys2Proof.Machine
end

