-- ==== Sys2Proof/Machine/Smbus.lean ====
section
/-! DEFINITION. The NVMe-MI basic management command over SMBus (R271 to R273). The bytes of an answer stand in
`host.smbus`; a member of a cascade does not answer (R564). -/

namespace Sys2Proof.Machine

/-- CTemp: the median of the healthy sensors as NVMe-MI codes it (log 13). -/
def ctemp (s : State) : Nat :=
  let t := s.therm.tjMedian
  if t < -60 then 0xC4 else if 127 < t then 0x7F else bitsOf 8 t

/-- Status Flags: Drive Not Ready in bit 6 and Drive Functional in bit 5; the other bits the manual leaves open. -/
def statusFlags (s : State) : Nat :=
  let functional := !s.power.settingsRecovery && !s.power.noImage && s.cas.roleCode ≠ 3
  let notReady := !s.power.ready
  (freeNow s).toNat % 32 + 32 * bitNat functional + 64 * bitNat notReady + 128 * ((freeNow s).toNat / 32 % 2)

/-- SMART Warnings: the critical warning bits, each inverted; without an image every warning is asserted (R273). -/
def smartByte (s : State) : Nat := if s.power.noImage then 0 else 255 - criticalOf s 0

/-- The bytes of an answer: length, data and PEC; the PEC is the CRC-8 of SMBus, which the model leaves free. -/
def smbusAnswer (s : State) (data : List Byte) : State :=
  { takeFrees s 2 with host := { s.host with smbus := leBytes data.length 1 ++ data } }

/-- Whether the device answers: not unpowered, not a member, not in a thermal shutdown. -/
def smbusAnswers (s : State) : Bool := s.power.pwrOk && s.power.casRole && !s.power.shutdown

/-- SMBUS_BASIC_STATUS (R272): command code 0. -/
def execSmbusBasicStatus (s : State) : Out :=
  if !smbusAnswers s then .next s
  else
    .next (smbusAnswer s
      ([statusFlags s, smartByte s, ctemp s, satBytes 1 (wearUsed s / 100)].map (BitVec.ofNat 8) ++ freeBytes { s with freeCount := s.freeCount + 1 } 2))

/-- SMBUS_VENDOR_SERIAL (R272): command code 8, the PCI vendor identifier and the 20-character serial number, which the manual does
not state (log 3). -/
def execSmbusVendorSerial (s : State) : Out :=
  if !smbusAnswers s then .next s else .next (takeFrees (smbusAnswer s (freeBytes s 22)) 22)

end Sys2Proof.Machine
end

