-- ==== Sys2Proof/Machine/Strict.lean ====
section
/-! DEFINITION. Strict Partition: the engine slots and frames (R494, R520 to R525). -/

namespace Sys2Proof.Machine

/-! ### The end of a run (R521, R522) -/

/-- The pieces that lanes run go back to the head of the piece queue, the lowest lane's first. -/
def requeueLanes (s : State) : State :=
  let held := s.lanes.lanes.filterMap (fun e => e.2.piece)
  { s with lanes := { s.lanes with
      queue := held ++ s.lanes.queue, lanes := s.lanes.lanes.map (fun e => (e.1, { e.2 with piece := none, prog := 0 })) } }

/-- The pieces on codec units are saved (R372). -/
def saveCodecs (s : State) : State :=
  let n := (s.codec.uses.filter (fun x => x.unit.isSome)).length
  { s with codec := {
      uses := s.codec.uses.map (fun x => { x with saved := x.saved || x.unit.isSome, unit := none })
      saves := Nat.min 65535 (s.codec.saves + n) } }

/-- The messages on general digest units are saved (R433). -/
def saveDigests (s : State) : State :=
  (s.cry.msgs.filter (fun e => e.2.unit.isSome && onGeneral e.1)).foldl (fun t e => saveMsg t e.1 e.2) s

/-- Every running user thread is preempted (R486, R494). -/
def preemptUsers (s : State) : State :=
  (List.range 64).foldl (fun t c =>
    match (coreAt t c).run with
    | some d => if (descAt t d).sup then t else preemptCore t c false
    | none => t) s

/-- Activation counts and holds restart in every DRAM channel (R537). -/
def restartWindows (s : State) : State :=
  (List.range 8).foldl endWindow s

/-- Every unit idle at the end of a run. -/
def endRun (s : State) : State := restartWindows (preemptUsers (saveDigests (saveCodecs (requeueLanes s))))

/-- The units take waiting work at the start of a run, and the host island moves the data of its tenant's commands. -/
def beginRun (s : State) : State :=
  let s1 := fillDgs (fillCodec (fillCodec (fillCodec s .comp) .dec) .henc)
  resumeJobs (resumeCmds ((List.range 8).foldl settleIsland s1))

/-! ### Slots (R521) -/

/-- The fabric island's copy of the time, whose multiples of 128,000 are the frame boundaries (R520). -/
def frameTime (s : State) : Nat := islandTime s isFabric

/-- Whether the slots after the one in progress, up to `k`, go to another tenant. -/
def passesOn (s : State) (k : Nat) : Bool :=
  let a := s.tenants.slot
  (List.range' (a + 1) (k - a)).any (fun j => slotTenant s j != slotTenant s a)

/-- The slot in progress moved on. -/
def setSlot (s : State) (k : Nat) : State := { s with tenants := { s.tenants with slot := k } }

/-- ENGINE_SLOT_BOUNDARY (R521): the fabric island's time has reached a later slot of the frame in progress. -/
def execEngineSlotBoundary (s : State) : Out :=
  let k := frameTime s % 128000 / 2000
  .next <|
    if !clockRuns s isFabric || frameTime s / 128000 ≠ s.tenants.frameNo || k ≤ s.tenants.slot then s
    else if strictOn s && passesOn s k then beginRun (setSlot (endRun s) k)
    else setSlot s k

/-! ### Frames (R520, R523, R525) -/

/-- TNT_SLOT registers take what waits for them; a tenant above 1,024 applies as 0. -/
def applySlots (s : State) : State :=
  (List.range 32).foldl (fun t k =>
    let off := 0x1E00100 + 4 * k
    match pendOf t off with
    | none => t
    | some _ =>
      let v := nextVal t off
      let f (lo : Nat) : Nat := if 1024 < fld v lo 11 then 0 else fld v lo 11
      setReg t off (dwordOf (f 0 + place (f 16) 16 11))) s

/-- TNT_STRICT_CFG takes what waits for it; EN 1 with no slot of tenant 1 is not applied (R520). Beside the state stand the
TNT_EVENT bits of the boundary so far. -/
def applyStrict (s : State) : State × List Nat :=
  match pendOf s 0x1E00008 with
  | none => (s, [])
  | some _ =>
    let v := nextVal s 0x1E00008
    if bitOf v 0 && !((List.range 64).any (fun k => slotTenant s k == 1)) then (s, [1])
    else (setReg s 0x1E00008 v, [])

/-- The registers of a channel set (R524): the four masks and the owner. -/
def chsetRegs (k : Nat) : List Nat := (List.range 5).map (fun q => 0x1E00400 + 0x20 * k + 4 * q)

/-- The channels and the owner that five register values give. -/
def chsetChans (vs : List Dword) : Nat := (vs.take 4).foldr (fun v a => v.toNat + 2 ^ 32 * a) 0
def chsetOwner (vs : List Dword) : Nat := fld ((vs[4]?).getD 0) 0 11

/-- Whether a write to set `k` that would give it the values `vs` is not applied (R525). -/
def chsetRejected (s : State) (k : Nat) (vs : List Dword) : Bool :=
  let m := chsetChans vs
  let o := chsetOwner vs
  let clashes (j : Nat) : Bool :=
    let ws := (chsetRegs j).map (regAt s)
    j != k && chsetOwner ws != 0 && chsetOwner ws != o && Nat.land (chsetChans ws) m != 0
  s.ftl.namespaces.any (fun e => e.2.chset == k) || (o != 0 && decide (popCount m 128 < 33))
    || (o != 0 && (List.range' 1 63).any clashes)

/-- A set takes what waits for it (R525). -/
def applyChset (x : State × List Nat) (k : Nat) : State × List Nat :=
  let s := x.1
  if (chsetRegs k).any (fun off => (pendOf s off).isSome) then
    let vs := (chsetRegs k).map (nextVal s)
    if chsetRejected s k vs then (s, x.2 ++ [2])
    else (((chsetRegs k).zip vs).foldl (fun t e => setReg t e.1 e.2) s, x.2)
  else x

/-- Everything that waits for the frame boundary applied together (R77, R523); what it rejects shares one number (R73). -/
def applyTenantRegs (s : State) : State :=
  let ws := pendsIn s 0x1E00000 0x2000000
  if ws.isEmpty then s
  else
    let x := (List.range' 1 63).foldl applyChset (applyStrict (applySlots s))
    let s1 := raiseAll x.1 evTnt x.2
    saveRegs (countApply (dropPends s1 0x1E00000 0x2000000) 0x1E00000) ws

/-- The frame in progress and the boundaries since start (TNT_FRAME_STATUS). -/
def countFrames (s : State) : State :=
  let n := frameTime s / 128000
  { s with tenants := { s.tenants with
      frameNo := n, frames := Nat.min 0xFFFFFF (s.tenants.frames + (n - s.tenants.frameNo)), slot := frameTime s % 128000 / 2000 } }

/-- ENGINE_FRAME_BOUNDARY (R520, R523): the fabric island's time has passed a multiple of 128,000; every run ends at it. -/
def execEngineFrameBoundary (s : State) : Out :=
  .next <|
    if !clockRuns s isFabric || frameTime s / 128000 ≤ s.tenants.frameNo then s
    else
      let s1 := countFrames (applyTenantRegs s)
      if strictOn s || strictOn s1 then beginRun (endRun s1) else s1

end Sys2Proof.Machine
end

