-- ==== Sys2Proof/Machine/StringOps.lean ====
section
/-! DEFINITION. The string and move instructions (R463 to R465). -/

namespace Sys2Proof.Machine

/-- What one element gives: it is done; the stop condition is met, with the flags; an exception; or it must wait. -/
inductive ElemRes where
  | ok (s : State)
  | stop (s : State) (fl : W36)
  | exc (s : State) (code : Nat) (addr : W36)
  | wait (s : State)

/-- How a run of elements ends. -/
inductive LoopEnd where
  | ended (s : State)
  | stopped (s : State) (fl : W36)
  | exc (s : State) (code : Nat) (addr : W36)
  | wait (s : State)

/-- At most `n` elements from element `k`. An element takes whether its access at BA, and at BB, is uncorrectable (R142). -/
def elemLoop (elem : Bool → Bool → State → ElemRes) (lost : Option (Nat × Bool)) : Nat → Nat → State → LoopEnd
  | 0, _, s => .ended s
  | n + 1, k, s =>
    match elem (lost == some (k, false)) (lost == some (k, true)) s with
    | .ok s1 => elemLoop elem lost n (k + 1) s1
    | .stop s1 fl => .stopped s1 fl
    | .exc s1 code a => .exc s1 code a
    | .wait s1 => .wait s1

/-- The space and the offset of BA or BB (R463). -/
def spaceOf (w : W36) : Nat := wQ w
def offOf (w : W36) : Nat := (wVal w).toNat

/-- An address of BA or BB moved on within its space. -/
def stepAddr (w : W36) (n : Nat) : W36 := mkW (wQ w) (wVal w + dwordOf n)

/-- BA and BB advanced by `a` and `b`, and BN decremented (R463). -/
def advance (s : State) (t a b : Nat) : State :=
  updDesc s t (fun x => { x with ba := stepAddr x.ba a, bb := stepAddr x.bb b, bn := x.bn - 1 })

/-- An element's source in B-space, `n` bytes at BA or BB. -/
def elemBytes (s : State) (t : Nat) (addr : W36) (n : Nat) (ue : Bool) : GotB :=
  if spaceOf addr = 15 then .stop s exB else bRead s t (spaceOf addr) (offOf addr) n ue

/-- An element's destination in B-space. -/
def elemPut (s : State) (t : Nat) (addr : W36) (bs : List Byte) : Put :=
  if spaceOf addr = 15 then .stop s exB else bWrite s t (spaceOf addr) (offOf addr) bs

/-- An element's source in W-space. -/
def elemWord (s : State) (t : Nat) (addr : W36) (ue : Bool) : Got :=
  if spaceOf addr ≠ 15 then .stop s exW else wRead s t (wVal addr) ue

/-- An element's destination in W-space. -/
def elemStore (s : State) (t : Nat) (addr w : W36) : Put :=
  if spaceOf addr ≠ 15 then .stop s exW else wWrite s t (wVal addr) w

/-- An element that has written its destination. -/
def putDone (p : Put) (t a b : Nat) (addr : W36) : ElemRes :=
  match p with
  | .ok s => .ok (advance s t a b)
  | .stop s code => .exc s code addr

/-- The flags of a string instruction that ends without its stop condition: `atEnd` sets them where BN is 0; where REP is
0 and BN is not, the manual states no Z for a scan or a compare, so Z is free (log 36). -/
structure StrFlags where
  scans : Bool
  endZ  : Bool

/-- A string instruction of thread `t` (R463 to R465): one element where REP is 0, else until BN is 0 or the stop
condition. `run` says after how many elements the core takes an interruption, and which element meets a memory error. -/
def strRun (s : State) (f : Rg) (run : StrRun) (legal : Bool) (fs : StrFlags) (elem : Bool → Bool → State → ElemRes) : Out :=
  runRg s f (f.fn.extractLsb' 4 6 == 0 && legal) (fun s =>
    let n := (descAt s f.t).bn.toNat
    let rep := f.fn.getLsbD 10
    if !rep && n == 0 then .done s
    else
      let cut := rep && run.upTo ≠ 0 && decide (run.upTo < n)
      let count := if !rep then 1 else if cut then run.upTo else n
      match elemLoop elem run.lost count 0 s with
      | .stopped s1 fl => .done (wrFl s1 f.t fl)
      | .exc s1 code a => .exc s1 code (some a)
      | .wait s1 => .hold s1
      | .ended s1 =>
        if cut then .hold s1
        else if !fs.scans then .done s1
        else if (descAt s1 f.t).bn = 0 then .done (wrFl s1 f.t (setZ (descAt s1 f.t).fl fs.endZ))
        else .done (wrFl (takeFree s1) f.t (setZ (descAt s1 f.t).fl ((freeNow s1).getLsbD 0))))

/-- No flags. -/
def noFlags : StrFlags := { scans := false, endZ := false }

/-- Whether rd, ra and rb are zero. -/
def noRegs (f : Rg) : Bool := f.rd == 0 && f.ra == 0 && f.rb == 0

/-- BMOV. -/
def execImBmov (f : Rg) (run : StrRun) (s : State) : Out :=
  strRun s f run (noRegs f) noFlags (fun ua _ s =>
    let x := descAt s f.t
    match elemBytes s f.t x.ba 1 ua with
    | .stop s1 code => .exc s1 code x.ba
    | .bytes bs _ => putDone (elemPut s f.t x.bb bs) f.t 1 1 x.bb)

/-- BFILL. -/
def execImBfill (f : Rg) (run : StrRun) (s : State) : Out :=
  strRun s f run (f.rd == 0 && f.rb == 0) noFlags (fun _ _ s =>
    let x := descAt s f.t
    putDone (elemPut s f.t x.bb (leBytes (wVal (gReg x f.ra)).toNat 1)) f.t 0 1 x.bb)

/-- BSCAN. -/
def execImBscan (f : Rg) (run : StrRun) (s : State) : Out :=
  strRun s f run (f.rd == 0 && f.rb == 0) { scans := true, endZ := false } (fun ua _ s =>
    let x := descAt s f.t
    match elemBytes s f.t x.ba 1 ua with
    | .stop s1 code => .exc s1 code x.ba
    | .bytes bs _ =>
      if bs = leBytes (wVal (gReg x f.ra)).toNat 1 then .stop s (setZ x.fl true) else .ok (advance s f.t 1 0))

/-- BCMP: at a difference the flags of the compare of the two bytes, zero-extended (log 37). -/
def execImBcmp (f : Rg) (run : StrRun) (s : State) : Out :=
  strRun s f run (noRegs f) { scans := true, endZ := true } (fun ua ub s =>
    let x := descAt s f.t
    match elemBytes s f.t x.ba 1 ua, elemBytes s f.t x.bb 1 ub with
    | .stop s1 code, _ => .exc s1 code x.ba
    | _, .stop s1 code => .exc s1 code x.bb
    | .bytes as _, .bytes bs _ =>
      if as = bs then .ok (advance s f.t 1 1)
      else
        let d := dwordOf (leNat as) - dwordOf (leNat bs)
        .stop s (resultFlags x.fl x.qm d 0 (some (decide (leNat bs ≤ leNat as))) (some false)))

/-- WMOV. -/
def execImWmov (f : Rg) (run : StrRun) (s : State) : Out :=
  strRun s f run (noRegs f) noFlags (fun ua _ s =>
    let x := descAt s f.t
    match elemWord s f.t x.ba ua with
    | .stop s1 code => .exc s1 code x.ba
    | .word w => putDone (elemStore s f.t x.bb w) f.t 1 1 x.bb)

/-- QUNPK: LQ then STW. -/
def execImQunpk (f : Rg) (run : StrRun) (s : State) : Out :=
  strRun s f run (noRegs f) noFlags (fun ua _ s =>
    let x := descAt s f.t
    match elemBytes s f.t x.ba 5 ua with
    | .stop s1 code => .exc s1 code x.ba
    | .bytes bs past => putDone (elemStore s f.t x.bb (sampleWord bs past)) f.t 5 1 x.bb)

/-- QPACK: LDW then SQ. -/
def execImQpack (f : Rg) (run : StrRun) (s : State) : Out :=
  strRun s f run (noRegs f) noFlags (fun ua _ s =>
    let x := descAt s f.t
    match elemWord s f.t x.ba ua with
    | .stop s1 code => .exc s1 code x.ba
    | .word w => putDone (elemPut s f.t x.bb (sampleBytes w)) f.t 1 5 x.bb)

/-- BCRC: CRC-32C in rd's value, reflected, with no inversion; quality 0h. -/
def execImBcrc (f : Rg) (run : StrRun) (s : State) : Out :=
  strRun s f run (f.ra == 0 && f.rb == 0) noFlags (fun ua _ s =>
    let x := descAt s f.t
    match elemBytes s f.t x.ba 1 ua with
    | .stop s1 code => .exc s1 code x.ba
    | .bytes bs _ =>
      .ok (advance (wr s f.t f.rd (word0 (dwordOf (crc32cRun (wVal (gReg x f.rd)).toNat bs)))) f.t 1 0))

/-- BDGST: the bytes feed the thread's open message (R468); it waits while the message waits for a unit. -/
def execImBdgst (f : Rg) (run : StrRun) (s : State) : Out :=
  strRun s f run (noRegs f) noFlags (fun ua _ s =>
    let x := descAt s f.t
    match msgOf s (.thread f.t) with
    | none => .exc s exPort x.ba
    | some m =>
      if m.waiting then .wait (waitFor s f.t 1)
      else
        match elemBytes s f.t x.ba 1 ua with
        | .stop s1 code => .exc s1 code x.ba
        | .bytes bs _ => .ok (advance (feedMsg s (.thread f.t) bs) f.t 1 0))

end Sys2Proof.Machine
end

