-- ==== Sys2Proof/Machine/P256.lean ====
section
/-! DEFINITION. The curve P-256 as Key Import uses it (R420, R423): decompression of a point and the ECDH shared
x-coordinate (log 16). -/

namespace Sys2Proof.Machine

/-- The field prime and the constant b of P-256. -/
def pPrime : Nat := 0xFFFFFFFF00000001000000000000000000000000FFFFFFFFFFFFFFFFFFFFFFFF
def pB : Nat := 0x5AC635D8AA3A93E7B3EBBD55769886BC651D06B0CC53B0F63BCE3C3E27D2604B

/-- Power modulo the field prime, over the `n` low bits of the exponent. -/
def pPow (b e : Nat) : Nat → Nat
  | 0 => 1
  | n + 1 =>
    let h := pPow b (e / 2) n
    if e % 2 = 1 then h * h % pPrime * b % pPrime else h * h % pPrime

/-- Inverse and square root in the field (the prime is 3 modulo 4). -/
def pInv (a : Nat) : Nat := pPow a (pPrime - 2) 256
def pSqrt (a : Nat) : Nat := pPow a ((pPrime + 1) / 4) 256

/-- Difference modulo the prime. -/
def pSub (a b : Nat) : Nat := (a + (pPrime - b % pPrime)) % pPrime

/-- Sum of two points; none is the point at infinity. -/
def pAdd (a b : Option (Nat × Nat)) : Option (Nat × Nat) :=
  match a, b with
  | none, q => q
  | p, none => p
  | some (x1, y1), some (x2, y2) =>
    if x1 = x2 && (y1 + y2) % pPrime = 0 then none
    else
      let l := if x1 = x2 then pSub (3 * x1 * x1) 3 * pInv (2 * y1) % pPrime else pSub y2 y1 * pInv (pSub x2 x1) % pPrime
      let x := pSub (l * l) (x1 + x2)
      some (x, pSub (l * pSub x1 x) y1)

/-- A multiple of a point, over the `n` low bits of the factor. -/
def pMul (k : Nat) (p : Option (Nat × Nat)) : Nat → Option (Nat × Nat)
  | 0 => none
  | n + 1 =>
    let h := pMul (k / 2) p n
    let d := pAdd h h
    if k % 2 = 1 then pAdd d p else d

/-- A 33-byte compressed point; none where it is no point of the curve. -/
def pDecompress (bs : List Byte) : Option (Nat × Nat) :=
  let t := ((bs[0]?).getD 0).toNat
  let x := beNat (bs.drop 1)
  if bs.length ≠ 33 || (t ≠ 2 && t ≠ 3) || pPrime ≤ x then none
  else
    let r := (x * x % pPrime * x + (pPrime - 3) * x + pB) % pPrime
    let y := pSqrt r
    if y * y % pPrime ≠ r then none
    else some (x, if y % 2 = t % 2 then y else (pPrime - y) % pPrime)

/-- The base point, and a compressed point. -/
def pBase : Option (Nat × Nat) :=
  some (0x6B17D1F2E12C4247F8BCE6E563A440F277037D812DEB33A0F4A13945D898C296,
    0x4FE342E2FE1A7F9B8EE7EB4A7C0F9E162BCE33576B315ECECBB6406837BF51F5)

def pCompress (p : Nat × Nat) : List Byte := BitVec.ofNat 8 (2 + p.2 % 2) :: beBytes p.1 32

end Sys2Proof.Machine
end

