-- ==== Sys2Proof/Machine/TenantOps.lean ====
section
/-! DEFINITION. Tenant Configure and Key Import (R420 to R423, R504 to R515). -/

namespace Sys2Proof.Machine

/-! ### The tenant record (R508) -/

/-- Key slots loaded or refused with a tenant as OWNER. -/
def keySlotsUsed (s : State) (t : Nat) : Nat := (s.cry.slots.filter (fun e => e.2.st != 0 && e.2.owner == t)).length

/-- Engine slots that the table in force gives a tenant. -/
def slotsHeld (s : State) (t : Nat) : Nat := ((List.range 64).filter (fun k => slotTenant s k == t)).length

/-- The functions bound to a tenant. -/
def tenantFns (s : State) (t : Nat) : List Nat := (List.range 1024).filter (fun f => fnTenant s f == t)

/-- Byte `i` of the FUNCTIONS field, from the functions bound. -/
def fnsByte (fs : List Nat) (i : Nat) : Byte :=
  BitVec.ofNat 8 (fs.foldl (fun a f => if f / 8 = i then a + 2 ^ (f % 8) else a) 0)

/-- The 256-byte record of a tenant. -/
def tenantRecord (s : State) (t : Nat) : List Byte :=
  let r := tenantAt s t
  let fs := tenantFns s t
  leBytes t 2 ++ leBytes (bitNat r.enabled) 1 ++ leBytes (within 16 63 r.prio) 1
    ++ leBytes r.channels 4 ++ leBytes (channelsUsed s t) 4 ++ leBytes r.programs 4 ++ leBytes (programsUsed s t) 4
    ++ leBytes r.keySlots 4 ++ leBytes (keySlotsUsed s t) 4 ++ leBytes r.dramMib 4
    ++ leBytes (ceilDiv (tenantDram s t) 1048576) 4 ++ leBytes r.jobs 4 ++ leBytes (jobsUsed s t) 4
    ++ leBytes r.etchPct 1 ++ zeros 3 ++ leBytes (tenantSlots s t) 4 ++ leBytes (slotsHeld s t) 2 ++ zeros 10
    ++ (List.range 128).map (fnsByte fs) ++ zeros 64

/-! ### The actions (R506, R507, R515) -/

/-- A tenant's record changed. -/
def updTenant (s : State) (t : Nat) (g : Tenant → Tenant) : State :=
  { s with tenants := { s.tenants with recs := tabUpd {} s.tenants.recs t g } }

/-- Every program of a tenant unloaded. -/
def dropPrograms (s : State) (t : Nat) : State :=
  ((s.chn.programs.filter (fun e => e.2.tenant == t)).map (·.1)).foldl dropProgram s

/-- A tenant left with no program, key slot, named region or enabled plate; its channels go with its functions (R507). -/
def emptyTenant (s : State) (t : Nat) : State :=
  let regions := (s.tenants.regions.filter (fun e => e.2.named && e.2.tenant == t)).map (·.1)
  let s1 := clearTagPlates (freeRegions (dropPrograms s t) regions) t
  forgetKeys { s1 with cry := { s1.cry with slots := s1.cry.slots.map (fun e => (e.1, if e.2.owner = t then {} else e.2)) } }

/-- The argument of REGION_CREATE and REGION_RELEASE: the index of a named region. -/
def regionArg (c : NvCmd) : Nat := fld c.c11 0 10

/-- Whether a job that has not ended has a window bound to a region. -/
def windowBound (s : State) (i : Nat) : Bool :=
  s.chn.jobs.any (fun e => e.2.windows.any (fun k => k.2.any (fun w => w.2.1 == i)))

/-- Reserved bits of an action's arguments. -/
def actionReserved (c : NvCmd) (action : Nat) : List (Dword × Nat) :=
  let all := 0xFFFFFFFF
  if action = 3 then [(c.c11, 0xFFFFFC00), (c.c12, all), (c.c13, all), (c.c14, all), (c.c15, all)]
  else if action = 4 then [(c.c11, 0xE0000000), (c.c13, 0xC000E000), (c.c14, 0xFFFF0000), (c.c15, all)]
  else if action = 5 then [(c.c11, 0xFFFFFC00), (c.c13, 0xFFFFFFFE), (c.c14, all), (c.c15, all)]
  else if action = 6 then [(c.c11, 0xFFFFFC00), (c.c12, all), (c.c13, all), (c.c14, all), (c.c15, all)]
  else [(c.c11, all), (c.c12, all), (c.c13, all), (c.c14, all), (c.c15, all)]

/-- Whether an action's arguments are within their ranges. -/
def actionArgsOk (s : State) (c : NvCmd) (action tenant : Nat) : Bool :=
  let f := fld c.c11 0 10
  if action = 2 then tenant != 1
  else if action = 3 then !isPhysical s f && fnPort s f == fnPort s c.id.fn
  else if action = 4 then
    decide (fld c.c11 0 16 ≤ 16384) && decide (fld c.c11 16 13 ≤ 4096) && decide (c.c12.toNat ≤ 524288)
      && decide (fld c.c13 0 13 ≤ 4096) && decide (fld c.c13 16 8 ≤ 100)
  else if action = 5 then decide (1 ≤ c.c12.toNat) && decide (c.c12.toNat ≤ 65536)
  else true

/-- Whether an action completes with Command Sequence Error. -/
def actionSequence (s : State) (c : NvCmd) (action tenant : Nat) : Bool :=
  let on_ := (tenantAt s tenant).enabled
  if action = 1 then on_
  else if action = 2 then !(tenantFns s tenant).isEmpty || s.ftl.namespaces.any (fun e => e.2.owner == tenant)
  else if action = 3 then (ctrlAt s (fld c.c11 0 10)).en || !on_
  else if action = 4 then !on_
  else if action = 5 then (tabGet s.tenants.regions (regionArg c)).isSome || !on_
  else if action = 6 then
    !((tabGet s.tenants.regions (regionArg c)).any (fun r => r.tenant == tenant)) || windowBound s (regionArg c)
  else false

/-- The quotas of a QUOTA action. -/
def withQuotas (c : NvCmd) (r : Tenant) : Tenant :=
  { r with channels := fld c.c11 0 16, programs := fld c.c11 16 13, dramMib := c.c12.toNat, keySlots := fld c.c13 0 13
           etchPct := fld c.c13 16 8, prio := fld c.c13 24 6, jobs := fld c.c14 0 16 }

/-- An action that changes a settings record. -/
def tenantAction (s : State) (c : NvCmd) (action tenant : Nat) : State :=
  let f := fld c.c11 0 10
  if action = 1 then updTenant (clearTagPlates s tenant) tenant (fun _ => {})
  else if action = 2 then updTenant (emptyTenant s tenant) tenant (fun r => { r with enabled := false })
  else if action = 3 then
    let s1 := killChannels s (fun g => g == f)
    { s1 with tenants := { s1.tenants with bind := tabPut s1.tenants.bind f tenant } }
  else updTenant s tenant (withQuotas c)

/-- REGION_CREATE (R515): none where the tenant's DRAM quota or the DRAM has no room. -/
def createNamed (s : State) (c : NvCmd) (tenant : Nat) : Option State :=
  let units := c.c12.toNat * 256
  match placeRegion s 0 units with
  | none => none
  | some b =>
    if dramFits s tenant (units * 4096) then
      some (enableRegion s (regionArg c)
        { base := b, last := b + units - 1, tenant := tenant, read := true, write := bitOf c.c13 0, exec := false, space := 0
          named := true })
    else none

/-- TENANT_CONFIGURE (R506). -/
def execTenantConfigure (c : NvCmd) (s : State) : Out :=
  let tenant := fld c.c10 0 11
  let action := fld c.c10 16 4
  let saved := 1 ≤ action ∧ action ≤ 4
  let checks (t : State) : Option Status :=
    firstBad
      [ adminChecks t c ([(c.nsid, 0xFFFFFFFF), (c.c10, 0xFFF0F800)] ++ actionReserved c action ++ c23 c),
        badIf (!isPhysical t c.id.fn) stInvalidField, badIf (tenant = 0 ∨ 1024 < tenant ∨ 6 < action) stInvalidField,
        badIf (!actionArgsOk t c action tenant) stInvalidField, badIf (actionSequence t c action tenant) stSequence,
        badIf (saved ∧ !canSave t) stNotReady ]
  .next <| cmdRun s c 0xC6 false checks (fun t =>
    if action = 0 then answerData t c 0 (tenantRecord t tenant)
    else if action = 5 then
      match createNamed t c tenant with
      | some t1 => answerData t1 c 0 (tenantRecord t1 tenant)
      | none => failCmd (quotaEvent t) c.id stQuota
    else if action = 6 then
      let t1 := freeRegion t (regionArg c)
      answerData t1 c 0 (tenantRecord t1 tenant)
    else
      let t1 := tenantAction t c action tenant
      completeSaved t1 c.id 0 (tenantRecord t1 tenant))

/-! ### Key Import (R420 to R423) -/

/-- The shared secret, OTHER, and the key-encryption key of R420. -/
def importZ (eph : List Byte) : Option (List Byte) := (pMul Config.deviceKey (pDecompress eph) 256).map (fun p => beBytes p.1 32)
def importOther (s : State) (tenant slot : Nat) (blob : List Byte) : List Byte :=
  [0x4B, 0x57, 0x45, 0x42, 0x2D, 0x4B, 0x49, 0x31] ++ leBytes s.power.serial.toNat 8 ++ leBytes tenant 2 ++ leBytes slot 2
    ++ leBytes (leAt blob 1 1) 1 ++ leBytes (leAt blob 2 1) 1 ++ sliceOf blob 4 4
def importKek (z other : List Byte) : List Byte := sha256 ([0, 0, 0, 1] ++ z ++ other)

/-- Bytes of the last defined field, and the parts, of a blob of a KIND. -/
def blobEnd (kind : Nat) : Nat := if kind = 1 then 88 else if kind = 2 then 120 else 8
def blobParts (kind : Nat) : Nat := if kind = 1 then 6 else if kind = 2 then 8 else 1

/-- Check 1 of R423 on the fields of a blob. -/
def blobFieldsOk (b : List Byte) : Bool :=
  let kind := leAt b 1 1
  let lim := leAt b 2 1
  leAt b 0 1 == 1 && decide (kind ≤ 2) && b.length == 16 * blobParts kind
    && decide (lim ≤ (if kind = 1 then 32 else if kind = 2 then 54 else 0))
    && leAt b 3 1 == 0 && (kind == 1 || leAt b 4 4 == 0) && (kind == 0 || zeroSpanOf b 41 48) && zeroSpanOf b (blobEnd kind) b.length

/-- The key that a blob wraps for a tenant and slot; none where EPH is no point or KW does not verify. -/
def blobKey (s : State) (tenant slot : Nat) (b : List Byte) : Option (List Byte) :=
  match importZ (sliceOf b 8 33) with
  | none => none
  | some z => kwUnwrap (importKek z (importOther s tenant slot b)) (sliceOf b 48 (if leAt b 1 1 = 1 then 40 else 72))

/-- The slot as a blob loads it. -/
def loadedSlot (old : KeySlot) (tenant : Nat) (b key : List Byte) : KeySlot :=
  let gcm := leAt b 1 1 = 1
  let lim := leAt b 2 1
  let fixed := dwordOf (leAt b 4 4)
  let same := decide gcm && old.st != 0 && old.kind == 1 && old.fixed == fixed
  { st := 1, kind := if gcm then 1 else 2, origin := 1, owner := tenant, fixed := fixed
    limit := if lim = 0 then defaultLimit gcm else 2 ^ lim, used := 0, next := if same then old.next else 0, key := key
    usedMark := 0, nextMark := if same then old.nextMark else 0 }

/-- The blob checked and the slot changed (R423). -/
def importBlob (s : State) (c : NvCmd) (slot : Nat) (b : List Byte) : State :=
  let tenant := fnTenant s c.id.fn
  let old := slotAt s slot
  let destroy := leAt b 1 1 = 0
  let key := if destroy then some [] else blobKey s tenant slot b
  let bad := firstBad
    [ badIf (!blobFieldsOk b ∨ key.isNone) stInvalidField, badIf (old.st ≠ 0 ∧ old.owner ≠ tenant) stInvalidField,
      badIf (slotNamed s slot) stSequence,
      badIf (!destroy ∧ old.st = 0 ∧ (tenantAt s tenant).keySlots ≤ keySlotsUsed s tenant) stQuota,
      badIf (!canSave s) stNotReady ]
  match bad with
  | some st => failCmd (if st = stQuota then quotaEvent s else s) c.id st
  | none =>
    let s1 := updSlot s slot (fun _ => if destroy then {} else loadedSlot old tenant b (key.getD []))
    completeSaved (forgetKeys s1) c.id 0 []

/-- The assembly of a function, set and gone (R422). -/
def setAssembly (s : State) (f : Nat) (a : Assembly) : State :=
  { s with cry := { s.cry with assemblies := tabPut s.cry.assemblies f a } }
def dropAssembly (s : State) (f : Nat) : State := { s with cry := { s.cry with assemblies := tabDel s.cry.assemblies f } }

/-- The 16 bytes of a part. -/
def partBytes (c : NvCmd) : List Byte := leBytes c.c12.toNat 4 ++ leBytes c.c13.toNat 4 ++ leBytes c.c14.toNat 4 ++ leBytes c.c15.toNat 4

/-- The assembly with a part added; none where the part does not follow. -/
def nextAssembly (s : State) (f slot part : Nat) (bs : List Byte) : Option Assembly :=
  if part = 0 then some { slot := slot, bytes := bs, parts := 1, at_ := now s }
  else
    match tabGet s.cry.assemblies f with
    | some a =>
      if a.slot = slot ∧ a.parts = part ∧ now s ≤ a.at_ + secTicks then
        some { slot := slot, bytes := a.bytes ++ bs, parts := part + 1, at_ := now s }
      else none
    | none => none

/-- KEY_IMPORT (R422). -/
def execKeyImport (c : NvCmd) (s : State) : Out :=
  let f := c.id.fn
  let slot := fld c.c10 0 12
  let checks (t : State) : Option Status :=
    adminChecks t c ([(c.nsid, 0xFFFFFFFF), (c.c10, 0xFFF0F000), (c.c11, 0xFFFFFFFF)] ++ c23 c)
  .next <| cmdRun s c 0xC8 false checks (fun t =>
    match nextAssembly t f slot (fld c.c10 16 3) (partBytes c) with
    | none => failCmd (dropAssembly t f) c.id stSequence
    | some a =>
      if bitOf c.c10 19 then importBlob (dropAssembly t f) c slot a.bytes
      else complete (setAssembly t f a) c.id stSuccess)

end Sys2Proof.Machine
end

