-- ==== Sys2Proof/Machine/Dispatch.lean ====
section
/-! DEFINITION. The dispatch: one arm per command. -/

namespace Sys2Proof.Machine

/-- The effect of a command on everything but the queue (step takes the command off the queue first). -/
def exec (i : Instr) (s : State) : Host.Outcome State Fault Refusal :=
  match i with
  | .imAdd f => Sys2Proof.Machine.execImAdd f s
  | .imSub f => Sys2Proof.Machine.execImSub f s
  | .imAdc f => Sys2Proof.Machine.execImAdc f s
  | .imSbc f => Sys2Proof.Machine.execImSbc f s
  | .imAnd f => Sys2Proof.Machine.execImAnd f s
  | .imOr f => Sys2Proof.Machine.execImOr f s
  | .imXor f => Sys2Proof.Machine.execImXor f s
  | .imAndn f => Sys2Proof.Machine.execImAndn f s
  | .imShl f => Sys2Proof.Machine.execImShl f s
  | .imShr f => Sys2Proof.Machine.execImShr f s
  | .imSar f => Sys2Proof.Machine.execImSar f s
  | .imRor f => Sys2Proof.Machine.execImRor f s
  | .imMul f => Sys2Proof.Machine.execImMul f s
  | .imMulhu f => Sys2Proof.Machine.execImMulhu f s
  | .imMulhs f => Sys2Proof.Machine.execImMulhs f s
  | .imDivu f => Sys2Proof.Machine.execImDivu f s
  | .imDivs f => Sys2Proof.Machine.execImDivs f s
  | .imRemu f => Sys2Proof.Machine.execImRemu f s
  | .imRems f => Sys2Proof.Machine.execImRems f s
  | .imMins f => Sys2Proof.Machine.execImMins f s
  | .imMaxs f => Sys2Proof.Machine.execImMaxs f s
  | .imMinu f => Sys2Proof.Machine.execImMinu f s
  | .imMaxu f => Sys2Proof.Machine.execImMaxu f s
  | .imMov f => Sys2Proof.Machine.execImMov f s
  | .imClz f => Sys2Proof.Machine.execImClz f s
  | .imPopc f => Sys2Proof.Machine.execImPopc f s
  | .imBswap f => Sys2Proof.Machine.execImBswap f s
  | .imAddi f => Sys2Proof.Machine.execImAddi f s
  | .imAndi f => Sys2Proof.Machine.execImAndi f s
  | .imOri f => Sys2Proof.Machine.execImOri f s
  | .imXori f => Sys2Proof.Machine.execImXori f s
  | .imShli f => Sys2Proof.Machine.execImShli f s
  | .imShri f => Sys2Proof.Machine.execImShri f s
  | .imSari f => Sys2Proof.Machine.execImSari f s
  | .imLui f => Sys2Proof.Machine.execImLui f s
  | .imCmpi f => Sys2Proof.Machine.execImCmpi f s
  | .imQseti f => Sys2Proof.Machine.execImQseti f s
  | .imMuli f => Sys2Proof.Machine.execImMuli f s
  | .imFadd f => Sys2Proof.Machine.execImFadd f s
  | .imFsub f => Sys2Proof.Machine.execImFsub f s
  | .imFmul f => Sys2Proof.Machine.execImFmul f s
  | .imFdiv f => Sys2Proof.Machine.execImFdiv f s
  | .imFmin f => Sys2Proof.Machine.execImFmin f s
  | .imFmax f => Sys2Proof.Machine.execImFmax f s
  | .imFcmp f => Sys2Proof.Machine.execImFcmp f s
  | .imFcvtis f => Sys2Proof.Machine.execImFcvtis f s
  | .imFcvtiu f => Sys2Proof.Machine.execImFcvtiu f s
  | .imFcvtsi f => Sys2Proof.Machine.execImFcvtsi f s
  | .imFabs f => Sys2Proof.Machine.execImFabs f s
  | .imFneg f => Sys2Proof.Machine.execImFneg f s
  | .imFsqrt f => Sys2Proof.Machine.execImFsqrt f s
  | .imQget f => Sys2Proof.Machine.execImQget f s
  | .imQset f => Sys2Proof.Machine.execImQset f s
  | .imQdrv f => Sys2Proof.Machine.execImQdrv f s
  | .imQmax f => Sys2Proof.Machine.execImQmax f s
  | .imQcls f => Sys2Proof.Machine.execImQcls f s
  | .imMfs f => Sys2Proof.Machine.execImMfs f s
  | .imMts f => Sys2Proof.Machine.execImMts f s
  | .imLdw f ue => Sys2Proof.Machine.execImLdw f ue s
  | .imStw f => Sys2Proof.Machine.execImStw f s
  | .imLdwx f ue => Sys2Proof.Machine.execImLdwx f ue s
  | .imStwx f => Sys2Proof.Machine.execImStwx f s
  | .imCasw f ue => Sys2Proof.Machine.execImCasw f ue s
  | .imLb f ue => Sys2Proof.Machine.execImLb f ue s
  | .imLbs f ue => Sys2Proof.Machine.execImLbs f ue s
  | .imLh f ue => Sys2Proof.Machine.execImLh f ue s
  | .imLhs f ue => Sys2Proof.Machine.execImLhs f ue s
  | .imL4 f ue => Sys2Proof.Machine.execImL4 f ue s
  | .imLq f ue => Sys2Proof.Machine.execImLq f ue s
  | .imSb f => Sys2Proof.Machine.execImSb f s
  | .imSh f => Sys2Proof.Machine.execImSh f s
  | .imS4 f => Sys2Proof.Machine.execImS4 f s
  | .imSq f => Sys2Proof.Machine.execImSq f s
  | .imBr f => Sys2Proof.Machine.execImBr f s
  | .imCall f => Sys2Proof.Machine.execImCall f s
  | .imJr f => Sys2Proof.Machine.execImJr f s
  | .imCallr f => Sys2Proof.Machine.execImCallr f s
  | .imRet f ue => Sys2Proof.Machine.execImRet f ue s
  | .imPush f => Sys2Proof.Machine.execImPush f s
  | .imPop f ue => Sys2Proof.Machine.execImPop f ue s
  | .imBmov f run => Sys2Proof.Machine.execImBmov f run s
  | .imBfill f run => Sys2Proof.Machine.execImBfill f run s
  | .imBscan f run => Sys2Proof.Machine.execImBscan f run s
  | .imBcmp f run => Sys2Proof.Machine.execImBcmp f run s
  | .imWmov f run => Sys2Proof.Machine.execImWmov f run s
  | .imQunpk f run => Sys2Proof.Machine.execImQunpk f run s
  | .imQpack f run => Sys2Proof.Machine.execImQpack f run s
  | .imBcrc f run => Sys2Proof.Machine.execImBcrc f run s
  | .imBdgst f run => Sys2Proof.Machine.execImBdgst f run s
  | .imSrch f faults ue => Sys2Proof.Machine.execImSrch f faults ue s
  | .imSupd f ue => Sys2Proof.Machine.execImSupd f ue s
  | .imDgStart f => Sys2Proof.Machine.execImDgStart f s
  | .imDgUpdate f => Sys2Proof.Machine.execImDgUpdate f s
  | .imDgFinish f => Sys2Proof.Machine.execImDgFinish f s
  | .imDgAbandon f => Sys2Proof.Machine.execImDgAbandon f s
  | .imDgResult f => Sys2Proof.Machine.execImDgResult f s
  | .imDgExpect f => Sys2Proof.Machine.execImDgExpect f s
  | .imDgStatus f => Sys2Proof.Machine.execImDgStatus f s
  | .imNop f => Sys2Proof.Machine.execImNop f s
  | .imYield f => Sys2Proof.Machine.execImYield f s
  | .imWait f => Sys2Proof.Machine.execImWait f s
  | .imSpawn f => Sys2Proof.Machine.execImSpawn f s
  | .imFtake f => Sys2Proof.Machine.execImFtake f s
  | .imFrel f => Sys2Proof.Machine.execImFrel f s
  | .imFence f => Sys2Proof.Machine.execImFence f s
  | .imTime f => Sys2Proof.Machine.execImTime f s
  | .imTrap f => Sys2Proof.Machine.execImTrap f s
  | .imEret f uePc ueFl => Sys2Proof.Machine.execImEret f uePc ueFl s
  | .imHalt f => Sys2Proof.Machine.execImHalt f s
  | .imEnd f => Sys2Proof.Machine.execImEnd f s
  | .registerWrite a => Sys2Proof.Machine.execRegisterWrite a s
  | .pairLoRead p r => Sys2Proof.Machine.execPairLoRead p r s
  | .rsqClearWrite p off v => Sys2Proof.Machine.execRsqClearWrite p off v s
  | .rwbWrite p off v => Sys2Proof.Machine.execRwbWrite p off v s
  | .rwbBoundaryApply block => Sys2Proof.Machine.execRwbBoundaryApply block s
  | .rwgFirstWrite p off v => Sys2Proof.Machine.execRwgFirstWrite p off v s
  | .rwgComplementWrite p off v => Sys2Proof.Machine.execRwgComplementWrite p off v s
  | .rwgGuardTimeout p => Sys2Proof.Machine.execRwgGuardTimeout p s
  | .xregAccessComplete a => Sys2Proof.Machine.execXregAccessComplete a s
  | .xregReadTimeout p off => Sys2Proof.Machine.execXregReadTimeout p off s
  | .xregWriteDropped p off => Sys2Proof.Machine.execXregWriteDropped p off s
  | .refclkSysLoss present => Sys2Proof.Machine.execRefclkSysLoss present s
  | .islandTimeCorrection island sample => Sys2Proof.Machine.execIslandTimeCorrection island sample s
  | .ptmExchange hostTime => Sys2Proof.Machine.execPtmExchange hostTime s
  | .pwrOkRise pins => Sys2Proof.Machine.execPwrOkRise pins s
  | .pwrOkFall lowNs => Sys2Proof.Machine.execPwrOkFall lowNs s
  | .etchFenceRaise rails => Sys2Proof.Machine.execEtchFenceRaise rails s
  | .startStageEnd tenthsMs f => Sys2Proof.Machine.execStartStageEnd tenthsMs f s
  | .channelBackgroundTrainEnd e => Sys2Proof.Machine.execChannelBackgroundTrainEnd e s
  | .eyeSample ch margin pin die => Sys2Proof.Machine.execEyeSample ch margin pin die s
  | .retrainStart ch => Sys2Proof.Machine.execRetrainStart ch s
  | .retrainEnd ch eyes => Sys2Proof.Machine.execRetrainEnd ch eyes s
  | .pintestDue ch => Sys2Proof.Machine.execPintestDue ch s
  | .pintestEnd ch cls pin other => Sys2Proof.Machine.execPintestEnd ch cls pin other s
  | .mediaTransactionEnd ch arrivals => Sys2Proof.Machine.execMediaTransactionEnd ch arrivals s
  | .mediaHoldExpiry ch die => Sys2Proof.Machine.execMediaHoldExpiry ch die s
  | .pageReadDone r => Sys2Proof.Machine.execPageReadDone r s
  | .stippleDramRead ch line place errs => Sys2Proof.Machine.execStippleDramRead ch line place errs s
  | .lineRemapCopyDone line => Sys2Proof.Machine.execLineRemapCopyDone line s
  | .stipplePatrolRead die block page o rest => Sys2Proof.Machine.execStipplePatrolRead die block page o rest s
  | .mapPageLoaded nsid level index => Sys2Proof.Machine.execMapPageLoaded nsid level index s
  | .pageProgramDone swath stripe failed => Sys2Proof.Machine.execPageProgramDone swath stripe failed s
  | .eraseBegin die block => Sys2Proof.Machine.execEraseBegin die block s
  | .blockEraseDone die block ok => Sys2Proof.Machine.execBlockEraseDone die block ok s
  | .etchDataAck id => Sys2Proof.Machine.execEtchDataAck id s
  | .admissionResume id => Sys2Proof.Machine.execAdmissionResume id s
  | .completionPost fn cqid => Sys2Proof.Machine.execCompletionPost fn cqid s
  | .anchorProgrammed dies => Sys2Proof.Machine.execAnchorProgrammed dies s
  | .etchDieLost die => Sys2Proof.Machine.execEtchDieLost die s
  | .etchLineUe slot => Sys2Proof.Machine.execEtchLineUe slot s
  | .doorbellWrite fn qid completion value entries badLines checks => Sys2Proof.Machine.execDoorbellWrite fn qid completion value entries badLines checks s
  | .commandFetch fn => Sys2Proof.Machine.execCommandFetch fn s
  | .ccEnSet fn => Sys2Proof.Machine.execCcEnSet fn s
  | .ccEnClear fn => Sys2Proof.Machine.execCcEnClear fn s
  | .shutdownRequest fn => Sys2Proof.Machine.execShutdownRequest fn s
  | .shutdownComplete fn => Sys2Proof.Machine.execShutdownComplete fn s
  | .functionLevelReset fn => Sys2Proof.Machine.execFunctionLevelReset fn s
  | .pcieHotReset port => Sys2Proof.Machine.execPcieHotReset port s
  | .createIoSq c => Sys2Proof.Machine.execCreateIoSq c s
  | .createIoCq c => Sys2Proof.Machine.execCreateIoCq c s
  | .deleteIoSq c => Sys2Proof.Machine.execDeleteIoSq c s
  | .deleteIoCq c => Sys2Proof.Machine.execDeleteIoCq c s
  | .getLogPage c => Sys2Proof.Machine.execGetLogPage c s
  | .identify c => Sys2Proof.Machine.execIdentify c s
  | .abort c => Sys2Proof.Machine.execAbort c s
  | .setFeatures c => Sys2Proof.Machine.execSetFeatures c s
  | .getFeatures c => Sys2Proof.Machine.execGetFeatures c s
  | .asyncEventRequest c => Sys2Proof.Machine.execAsyncEventRequest c s
  | .namespaceManagement c => Sys2Proof.Machine.execNamespaceManagement c s
  | .namespaceAttachment c => Sys2Proof.Machine.execNamespaceAttachment c s
  | .firmwareImageDownload c => Sys2Proof.Machine.execFirmwareImageDownload c s
  | .firmwareCommit c signed => Sys2Proof.Machine.execFirmwareCommit c signed s
  | .virtualizationManagement c => Sys2Proof.Machine.execVirtualizationManagement c s
  | .formatNvm c => Sys2Proof.Machine.execFormatNvm c s
  | .sanitize c => Sys2Proof.Machine.execSanitize c s
  | .flush c => Sys2Proof.Machine.execFlush c s
  | .write c => Sys2Proof.Machine.execWrite c s
  | .read c => Sys2Proof.Machine.execRead c s
  | .compare c => Sys2Proof.Machine.execCompare c s
  | .writeZeroes c => Sys2Proof.Machine.execWriteZeroes c s
  | .datasetManagement c => Sys2Proof.Machine.execDatasetManagement c s
  | .verify c => Sys2Proof.Machine.execVerify c s
  | .reservationRegister c => Sys2Proof.Machine.execReservationRegister c s
  | .reservationReport c => Sys2Proof.Machine.execReservationReport c s
  | .reservationAcquire c => Sys2Proof.Machine.execReservationAcquire c s
  | .reservationRelease c => Sys2Proof.Machine.execReservationRelease c s
  | .programLoad c => Sys2Proof.Machine.execProgramLoad c s
  | .programUnload c => Sys2Proof.Machine.execProgramUnload c s
  | .channelCreate c => Sys2Proof.Machine.execChannelCreate c s
  | .channelDestroy c => Sys2Proof.Machine.execChannelDestroy c s
  | .destroyComplete slot => Sys2Proof.Machine.execDestroyComplete slot s
  | .tenantConfigure c => Sys2Proof.Machine.execTenantConfigure c s
  | .keyImport c => Sys2Proof.Machine.execKeyImport c s
  | .jobSubmit c src snk srcData => Sys2Proof.Machine.execJobSubmit c src snk srcData s
  | .streamAppend c => Sys2Proof.Machine.execStreamAppend c s
  | .appendRegionAssign id => Sys2Proof.Machine.execAppendRegionAssign id s
  | .query c src snk srcData => Sys2Proof.Machine.execQuery c src snk srcData s
  | .channelDrain c => Sys2Proof.Machine.execChannelDrain c s
  | .drainComplete id => Sys2Proof.Machine.execDrainComplete id s
  | .jobEnter job => Sys2Proof.Machine.execJobEnter job s
  | .stageBegin job stage => Sys2Proof.Machine.execStageBegin job stage s
  | .stageEnd job stage f => Sys2Proof.Machine.execStageEnd job stage f s
  | .lanePieceStart lane => Sys2Proof.Machine.execLanePieceStart lane s
  | .lanePieceEnd lane faults => Sys2Proof.Machine.execLanePieceEnd lane faults s
  | .codecPreempt pool unit => Sys2Proof.Machine.execCodecPreempt pool unit s
  | .codecResume pool unit => Sys2Proof.Machine.execCodecResume pool unit s
  | .camInvalidate p index => Sys2Proof.Machine.execCamInvalidate p index s
  | .camWrite p index => Sys2Proof.Machine.execCamWrite p index s
  | .camValidate p index => Sys2Proof.Machine.execCamValidate p index s
  | .camRead p index => Sys2Proof.Machine.execCamRead p index s
  | .camPairedWrite p index => Sys2Proof.Machine.execCamPairedWrite p index s
  | .camStepApply p => Sys2Proof.Machine.execCamStepApply p s
  | .camLookup k faults => Sys2Proof.Machine.execCamLookup k faults s
  | .matchRound k matchIn => Sys2Proof.Machine.execMatchRound k matchIn s
  | .drbgReseed healthy => Sys2Proof.Machine.execDrbgReseed healthy s
  | .cipherRequest g disagreements => Sys2Proof.Machine.execCipherRequest g disagreements s
  | .digestStart p alg dest => Sys2Proof.Machine.execDigestStart p alg dest s
  | .digestDataWrite p v => Sys2Proof.Machine.execDigestDataWrite p v s
  | .digestFinish p tail => Sys2Proof.Machine.execDigestFinish p tail s
  | .digestAbandon p => Sys2Proof.Machine.execDigestAbandon p s
  | .digestDone o proofFault => Sys2Proof.Machine.execDigestDone o proofFault s
  | .resultEarlyRead p k => Sys2Proof.Machine.execResultEarlyRead p k s
  | .digestRestore ok => Sys2Proof.Machine.execDigestRestore ok s
  | .arbiterDecision a subch arrivals => Sys2Proof.Machine.execArbiterDecision a subch arrivals s
  | .dramRequestAge ch => Sys2Proof.Machine.execDramRequestAge ch s
  | .refreshDue ch rank hot => Sys2Proof.Machine.execRefreshDue ch rank hot s
  | .rhWindowEnd ch => Sys2Proof.Machine.execRhWindowEnd ch s
  | .windowBoundaryReport g island counts => Sys2Proof.Machine.execWindowBoundaryReport g island counts s
  | .windowLatch g => Sys2Proof.Machine.execWindowLatch g s
  | .sensorRound readings outOfRange => Sys2Proof.Machine.execSensorRound readings outOfRange s
  | .rmtRead p pos => Sys2Proof.Machine.execRmtRead p pos s
  | .rmtWrite p pos => Sys2Proof.Machine.execRmtWrite p pos s
  | .rmtGuardedWrite p pos => Sys2Proof.Machine.execRmtGuardedWrite p pos s
  | .rmtAnswer data => Sys2Proof.Machine.execRmtAnswer data s
  | .descRead p index => Sys2Proof.Machine.execDescRead p index s
  | .descCreate p index => Sys2Proof.Machine.execDescCreate p index s
  | .descKill p index => Sys2Proof.Machine.execDescKill p index s
  | .descSetPrio p index => Sys2Proof.Machine.execDescSetPrio p index s
  | .sliceExpiry core => Sys2Proof.Machine.execSliceExpiry core s
  | .threadWake d => Sys2Proof.Machine.execThreadWake d s
  | .threadBlock d => Sys2Proof.Machine.execThreadBlock d s
  | .threadUnblock d => Sys2Proof.Machine.execThreadUnblock d s
  | .timeLimit job => Sys2Proof.Machine.execTimeLimit job s
  | .coreFailure core => Sys2Proof.Machine.execCoreFailure core s
  | .interruptTaken core code => Sys2Proof.Machine.execInterruptTaken core code s
  | .wpgStuck g => Sys2Proof.Machine.execWpgStuck g s
  | .dieStatusTimeout ch die => Sys2Proof.Machine.execDieStatusTimeout ch die s
  | .dieResetTimeout ch die => Sys2Proof.Machine.execDieResetTimeout ch die s
  | .engineUnitFailure pool inst unit => Sys2Proof.Machine.execEngineUnitFailure pool inst unit s
  | .camArrayCheck bank answers badWords => Sys2Proof.Machine.execCamArrayCheck bank answers badWords s
  | .burinUnitStall g unit => Sys2Proof.Machine.execBurinUnitStall g unit s
  | .emergencyRevoke a => Sys2Proof.Machine.execEmergencyRevoke a s
  | .emergencyEnd a => Sys2Proof.Machine.execEmergencyEnd a s
  | .latchLate g => Sys2Proof.Machine.execLatchLate g s
  | .cascadeStartEnd matchIn => Sys2Proof.Machine.execCascadeStartEnd matchIn s
  | .tcbFrameSend kind winner acked => Sys2Proof.Machine.execTcbFrameSend kind winner acked s
  | .alarm src code => Sys2Proof.Machine.execAlarm src code s
  | .sync src => Sys2Proof.Machine.execSync src s
  | .syncFollow src masterTime => Sys2Proof.Machine.execSyncFollow src masterTime s
  | .role src claim => Sys2Proof.Machine.execRole src claim s
  | .announce src serial => Sys2Proof.Machine.execAnnounce src serial s
  | .link src data => Sys2Proof.Machine.execLink src data s
  | .ready src stage => Sys2Proof.Machine.execReady src stage s
  | .memberLost pos => Sys2Proof.Machine.execMemberLost pos s
  | .flitReceived l f => Sys2Proof.Machine.execFlitReceived l f s
  | .tabferRetrainEnd l ok => Sys2Proof.Machine.execTabferRetrainEnd l ok s
  | .tabferTrainTimeout l => Sys2Proof.Machine.execTabferTrainTimeout l s
  | .tabferLinkTrained l serial pos peerLink rev polarity => Sys2Proof.Machine.execTabferLinkTrained l serial pos peerLink rev polarity s
  | .tabferLossOfLock l => Sys2Proof.Machine.execTabferLossOfLock l s
  | .debugHalt d => Sys2Proof.Machine.execDebugHalt d s
  | .dieTemperatureRead ch die temp => Sys2Proof.Machine.execDieTemperatureRead ch die temp s
  | .ps4ExitMediaBringUp chans => Sys2Proof.Machine.execPs4ExitMediaBringUp chans s
  | .controllerReset => Sys2Proof.Machine.execControllerReset s
  | .deviceReset => Sys2Proof.Machine.execDeviceReset s
  | .ptmLost => Sys2Proof.Machine.execPtmLost s
  | .perstNAssert => Sys2Proof.Machine.execPerstNAssert s
  | .perstNDeassert => Sys2Proof.Machine.execPerstNDeassert s
  | .etchFenceLower => Sys2Proof.Machine.execEtchFenceLower s
  | .patrolPositionSave => Sys2Proof.Machine.execPatrolPositionSave s
  | .mapPrefetch => Sys2Proof.Machine.execMapPrefetch s
  | .meadowRecompute => Sys2Proof.Machine.execMeadowRecompute s
  | .gleanerDispatch => Sys2Proof.Machine.execGleanerDispatch s
  | .fallowSweep => Sys2Proof.Machine.execFallowSweep s
  | .destageStart => Sys2Proof.Machine.execDestageStart s
  | .healthCountersCommit => Sys2Proof.Machine.execHealthCountersCommit s
  | .journalCommit => Sys2Proof.Machine.execJournalCommit s
  | .journalHoldRelease => Sys2Proof.Machine.execJournalHoldRelease s
  | .rootCheckpoint => Sys2Proof.Machine.execRootCheckpoint s
  | .rootCheckpointDone => Sys2Proof.Machine.execRootCheckpointDone s
  | .journalMirrorCopy => Sys2Proof.Machine.execJournalMirrorCopy s
  | .settingsUpdateStart => Sys2Proof.Machine.execSettingsUpdateStart s
  | .settingsCommit => Sys2Proof.Machine.execSettingsCommit s
  | .nvmSubsystemReset => Sys2Proof.Machine.execNvmSubsystemReset s
  | .powerStateEntry => Sys2Proof.Machine.execPowerStateEntry s
  | .smbusBasicStatus => Sys2Proof.Machine.execSmbusBasicStatus s
  | .smbusVendorSerial => Sys2Proof.Machine.execSmbusVendorSerial s
  | .digestPreempt => Sys2Proof.Machine.execDigestPreempt s
  | .engineSlotBoundary => Sys2Proof.Machine.execEngineSlotBoundary s
  | .engineFrameBoundary => Sys2Proof.Machine.execEngineFrameBoundary s
  | .throttleGraceExpiry => Sys2Proof.Machine.execThrottleGraceExpiry s
  | .thermalHistoryCommit => Sys2Proof.Machine.execThermalHistoryCommit s
  | .syncSend => Sys2Proof.Machine.execSyncSend s
  | .syncLost => Sys2Proof.Machine.execSyncLost s
  | .rmtTimeout => Sys2Proof.Machine.execRmtTimeout s
  | .keeperWatchdog => Sys2Proof.Machine.execKeeperWatchdog s
  | .sanitizeComplete => Sys2Proof.Machine.execSanitizeComplete s
  | .aonTimebaseLoss => Sys2Proof.Machine.execAonTimebaseLoss s
  | .vaonRamp => Sys2Proof.Machine.execVaonRamp s

end Sys2Proof.Machine
end

