-- ==== Sys2Proof/Safety.lean ====
section
/-! DEFINITION. What counts as a safe run, and the terms in which statements speak of commands, threads and
registers. -/

namespace Sys2Proof.Safety

open Sys2Proof.Machine

/-! ### Runs -/

/-- The outcome is a next state. -/
def answers (o : Out) : Prop := ∃ t, o = .next t

/-- The outcome is a fault. -/
def faults (o : Out) : Prop := ∃ f, o = .fault f

/-- The outcome is a refusal. -/
def refuses (o : Out) : Prop := ∃ r, o = .refused r

/-- `n` steps from a state, as long as each answers a next state. -/
def runs : Nat → State → State → Prop
  | 0, s, t => s = t
  | n + 1, s, t => ∃ u, step s = .next u ∧ runs n u t

/-- A command never stops the block, in any state. -/
def neverStops (i : Instr) : Prop := ∀ s, answers (exec i s)

/-! ### Threads -/

/-- The core may fetch the instruction at a thread's PC (R435, R443, R513). -/
def fetches (s : State) (t : Nat) : Prop :=
  ∃ k, wLoc s t (descAt s t).pc .exec = .core k ∨ wLoc s t (descAt s t).pc .exec = .cluster k

/-- A thread issues an instruction whose condition holds: it executes, and its fetch is answered (R449, R450). -/
def issues (s : State) (t : Nat) (cond : BitVec 4) : Prop :=
  executes s t = true ∧ fetches s t ∧ condTrue (descAt s t).fl cond = true

/-- No preemption that waited for FL.IE takes effect at a thread's next instruction boundary (R485). -/
def quiet (s : State) (t : Nat) : Prop :=
  ∀ c, coreRunning s t = some c → ((coreAt s c).pend && ieOf (descAt s t)) = false

/-- `u` is `s` but for the registers of thread `t`, which are those of `x`. Everything else is as in `s`: every other
thread, memory, registers of the bus, and the queue. -/
def onlyThread (s u : State) (t : Nat) (x : Desc) : Prop :=
  u = { s with sch := { s.sch with descs := u.sch.descs } } ∧ (∀ d, d ≠ t → descAt u d = descAt s d) ∧ descAt u t = x

/-- The registers of a thread after an instruction that has left them as `x`: PC has moved on by one word. -/
def nextPc (x : Desc) : Desc := { x with pc := x.pc + 1, wait := 0 }

/-- The command ends as an instruction of thread `t` that changes that thread's registers alone, to `x`, and moves PC on
by one. -/
def writesOnly (i : Instr) (s : State) (t : Nat) (x : Desc) : Prop :=
  ∃ u, exec i s = .next u ∧ onlyThread s u t (nextPc x)

/-- `n` elements of `k` bytes from an address of BA or BB on are answered by DRAM from byte `p` on, and none of their lines is lost. -/
def bytesAnswered (s : State) (t : Nat) (w : W36) (x : Right) (k n p : Nat) : Prop :=
  ∀ i, i < n → wQ w ≠ 15 ∧ bLoc s t (wQ w) (wVal w + BitVec.ofNat 32 (k * i)).toNat k x = .dram (p + k * i)
    ∧ pendingUe s (.dram (p + k * i)) k = false

/-- `n` words from an address of BA or BB on are answered by cluster memory from word `p` on. -/
def wordsAnswered (s : State) (t : Nat) (w : W36) (x : Right) (n p : Nat) : Prop :=
  ∀ i, i < n → wQ w = 15 ∧ wLoc s t (wVal w + BitVec.ofNat 32 i) x = .cluster (p + i)

/-- The same with one more free value taken. -/
def writesFree (i : Instr) (s : State) (t : Nat) (x : Desc) : Prop :=
  ∃ u, exec i s = .next u ∧ onlyThread (takeFree s) u t (nextPc x)

/-- A descriptor with a general register and FL written; FL stays unless `flags`. -/
def putReg (x : Desc) (n : BitVec 5) (w : W36) (flags : Bool) (fl : W36) : Desc :=
  { setGReg x n w with fl := if flags then fl else x.fl }

/-- `u` is `s` with the word `w` stored at place `l`, and with the registers of thread `t` as `x`; nothing else differs. -/
def storedAt (s u : State) (t : Nat) (l : WLoc) (w : W36) (x : Desc) : Prop := onlyThread (writeLoc s l w) u t x

/-- The thread and the condition of an Imlas-36 instruction; none for any other command. -/
def issuer (i : Instr) : Option (Nat × BitVec 4) :=
  match i with
  | .imAdd f | .imSub f | .imAdc f | .imSbc f | .imAnd f | .imOr f | .imXor f | .imAndn f | .imShl f | .imShr f
  | .imSar f | .imRor f | .imMul f | .imMulhu f | .imMulhs f | .imDivu f | .imDivs f | .imRemu f | .imRems f
  | .imMins f | .imMaxs f | .imMinu f | .imMaxu f | .imMov f | .imClz f | .imPopc f | .imBswap f
  | .imFadd f | .imFsub f | .imFmul f | .imFdiv f | .imFmin f | .imFmax f | .imFcmp f | .imFcvtis f | .imFcvtiu f
  | .imFcvtsi f | .imFabs f | .imFneg f | .imFsqrt f
  | .imQget f | .imQset f | .imQdrv f | .imQmax f | .imQcls f | .imMfs f | .imMts f
  | .imLdwx f _ | .imStwx f | .imCasw f _ | .imJr f | .imCallr f | .imRet f _ | .imPush f | .imPop f _
  | .imBmov f _ | .imBfill f _ | .imBscan f _ | .imBcmp f _ | .imWmov f _ | .imQunpk f _ | .imQpack f _
  | .imBcrc f _ | .imBdgst f _ | .imSrch f _ _ | .imSupd f _
  | .imDgStart f | .imDgUpdate f | .imDgFinish f | .imDgAbandon f | .imDgResult f | .imDgExpect f | .imDgStatus f
  | .imNop f | .imYield f | .imWait f | .imSpawn f | .imFtake f | .imFrel f | .imFence f | .imTime f | .imTrap f
  | .imEret f _ _ | .imHalt f | .imEnd f => some (f.t, f.cond)
  | .imAddi f | .imAndi f | .imOri f | .imXori f | .imShli f | .imShri f | .imSari f | .imLui f | .imCmpi f
  | .imQseti f | .imMuli f | .imLdw f _ | .imStw f => some (f.t, f.cond)
  | .imLb b _ | .imLbs b _ | .imLh b _ | .imLhs b _ | .imL4 b _ | .imLq b _ | .imSb b | .imSh b | .imS4 b
  | .imSq b => some (bsT b, bsCond b)
  | .imBr f | .imCall f => some (f.t, f.cond)
  | _ => none

/-- The operands of an instruction that are findings (an uncorrectable read, an interruption, lost words) have their plain
values. -/
def plain (i : Instr) : Bool :=
  match i with
  | .imLdw _ ue | .imLdwx _ ue | .imCasw _ ue => !ue
  | .imLb _ ue | .imLbs _ ue | .imLh _ ue | .imLhs _ ue | .imL4 _ ue | .imLq _ ue => !ue
  | .imBmov _ n | .imBfill _ n | .imBscan _ n | .imBcmp _ n | .imWmov _ n | .imQunpk _ n | .imQpack _ n | .imBcrc _ n
  | .imBdgst _ n => n == {}
  | .imRet _ ue | .imPop _ ue | .imSupd _ ue => !ue
  | .imSrch _ x ue => x.badWords.isEmpty && x.dead.isEmpty && !ue
  | .imEret _ uePc ueFl => !uePc && !ueFl
  | _ => true

/-- A supervisor stack on which two words can be pushed: the places they go to, apart from the words F8h and F9h of the
core's local memory (R442, R475). -/
def stackRoom (s : State) (t c : Nat) (l1 l2 : WLoc) : Prop :=
  coreRunning s t = some c ∧ wLoc s t ((descAt s t).sp - 1) .write = l1 ∧ wLoc s t ((descAt s t).sp - 1 - 1) .write = l2
    ∧ l1 ≠ l2
    ∧ (∀ l, l = l1 ∨ l = l2 → l ≠ .fault ∧ l ≠ .denied ∧ l ≠ .core (c * 2 ^ 17 + 0xF8) ∧ l ≠ .core (c * 2 ^ 17 + 0xF9))

/-! ### Registers -/

/-- The register bus root has nothing of a path in front of an access, and its clock runs (R63). -/
def rootFree (s : State) (p : Path) : Prop := clockRuns s isHost = true ∧ tabGet s.bus.waiting (pathNo p) = none

/-- A dword access that arrives now on a path, and one in progress toward another island since `t` (R12, R26). -/
def arriving (s : State) (p : Path) (off : Nat) (wr : Option Dword) : Arrived :=
  { access := { path := p, off := off, wr := wr }, at_ := busTime s p, tag := pathTenant p }
def inProgress (s : State) (p : Path) (off : Nat) (wr : Option Dword) (t : Nat) : Prop :=
  tabWf s.bus.waiting = true ∧ ∃ w : Arrived, tabGet s.bus.waiting (pathNo p) = some [w] ∧ w.access = { path := p, off := off, wr := wr } ∧ w.start = some t
    ∧ w.bad = false ∧ w.hi = false ∧ w.stalled = false

/-- A path reaches the register `d` at an offset: it is defined, no window is closed to the path, and the register's island
runs (R66 to R68, R15). -/
def reaches (s : State) (p : Path) (off : Nat) (d : RegDesc) : Prop :=
  regDesc off = some d ∧ accessFault s p off = none ∧ clockRuns s d.island = true

/-- An event bit set in the RSQ register at `off`, with the address register at `addr` naming the access. -/
def eventAt (s : State) (off addr : Nat) (bits : List Nat) (p : Path) (at_ : Nat) : State :=
  setReg (raiseBits s off bits) addr (addrValue p at_)

/-! ### Commands of host software -/

/-- A command's step may run: its fetch has been recorded and nothing since, or it is recorded now (log 14). -/
def fresh (s : State) (c : NvCmd) : Prop := ∀ e, findCmd s c.id = some e → e.phase = .fetched

/-- A completion with a status and DW0 waits to be posted. -/
def completed (u : State) (id : CmdId) (st : Status) (dw0 : Dword) : Prop :=
  ∃ k ∈ u.host.waiting, k.id = id ∧ (k.sct, k.sc) = st ∧ k.dw0 = dw0

/-- A command waits for the commit of a settings update that it has asked for (R44). -/
def heldForCommit (u : State) (id : CmdId) : Prop :=
  (findCmd u id).map (·.phase) = some .held ∧ ∃ w, u.etch.wanted = some w ∧ id ∈ w.cmds

/-- An admin command whose common checks pass: PRPs, the reserved bits of CDW0, CDW2, CDW3
and CDW12 to CDW15 zero, host memory answers, and no settings
recovery. -/
def adminPlain (s : State) (c : NvCmd) : Prop :=
  s.power.settingsRecovery = false ∧ c.ptr = .prp ∧ c.memOk = true ∧ c.c0 = 0 ∧ c.c2 = 0 ∧ c.c3 = 0 ∧ c.c12 = 0 ∧ c.c13 = 0 ∧ c.c14 = 0
    ∧ c.c15 = 0

/-! ### Canonical forms -/

/-- The Etch slots, the DRAM of regions and every table that statements read by key are in canonical form: addresses and keys
rise strictly, and a memory lists no byte that an unlisted address reads as. -/
def canonical (s : State) : Prop :=
  Memory.wf s.etch.mem = true ∧ Memory.wf s.drc.dram = true
    ∧ tabWf s.bus.active = true ∧ tabWf s.bus.guards = true ∧ (∀ e ∈ s.bus.rsq, tabWf e.2.bits = true)
    ∧ tabWf s.time.copyOff = true ∧ tabWf s.pcs.lineErrs = true
    ∧ tabWf s.ftl.map = true ∧ tabWf s.ftl.overlay = true ∧ tabWf s.ftl.namespaces = true
    ∧ tabWf s.etch.setA.body.namespaces = true ∧ tabWf s.etch.setB.body.namespaces = true
    ∧ ((∀ w, s.etch.wanted = some w ∨ s.etch.update = some w → tabWf w.body.namespaces = true)
        ∧ (∀ m ∈ s.etch.mirrors, tabWf m.copy.body.namespaces = true))
    ∧ (∀ e ∈ s.host.ctrls, tabWf e.2.cqs = true)
    ∧ tabWf s.chn.slots = true ∧ tabWf s.chn.programs = true ∧ tabWf s.tenants.regions = true ∧ tabWf s.cry.assemblies = true
    ∧ tabWf s.cam.array = true ∧ (∀ e ∈ s.drc.arbs, tabWf e.2.grants = true) ∧ tabWf s.cas.links = true
    ∧ tabWf s.sch.descs = true ∧ tabWf s.sch.flows = true ∧ tabWf s.sch.cluster = true ∧ tabWf s.sch.locals = true
    ∧ (∀ e ∈ s.sch.descs, tabWf e.2.g = true) ∧ (∀ e ∈ s.sch.created, tabWf e.2.g = true)

/-! ### Resets -/

/-- `v` is a state in which the controllers of the functions in `p` have been reset: their commands are gone, their queues
too, and nothing of theirs waits; a controller keeps only its flexible resources and whether it is online (R239). -/
def controllersReset (v : State) (p : Nat → Bool) : Prop :=
  (∀ e ∈ v.host.exec, p e.cmd.id.fn = false)
    ∧ (∀ c ∈ v.host.waiting, p c.id.fn = false)
    ∧ (∀ e ∈ v.host.ctrls, p e.1 = true →
        e.2 = { ({} : Ctrl) with flexQ := e.2.flexQ, flexI := e.2.flexI, online := e.2.online })
    ∧ (∀ d ∈ v.chn.drains, p d.id.fn = false) ∧ (∀ d ∈ v.chn.destroys, p d.id.fn = false)
    ∧ (∀ a ∈ v.cry.assemblies, p a.1 = false)

/-- What a device reset or a power cut leaves: the journal, the settings copies, the flash, the fused values and the queue;
every register at its reset value, no command, no controller, no job (R30, R86). -/
def coldFacts (s u : State) : Prop :=
  u.pending = s.pending ∧ u.ftl.flash = s.ftl.flash ∧ u.etch.live = s.etch.live ∧ u.etch.mem = s.etch.mem
    ∧ u.etch.setA = s.etch.setA ∧ u.etch.setB = s.etch.setB ∧ u.etch.anchors = s.etch.anchors
    ∧ u.power.serial = s.power.serial ∧ u.power.lifecycle = s.power.lifecycle
    ∧ (∀ k, regAt u k = resetValue k) ∧ u.bus.rwb = [] ∧ u.bus.guards = [] ∧ u.bus.rsq = []
    ∧ u.host.exec = [] ∧ u.host.ctrls = [] ∧ u.chn.jobs = [] ∧ u.chn.slots = [] ∧ u.cry.slots = [] ∧ u.sch = {}

end Sys2Proof.Safety
end

