-- ==== Sys2Proof/Certificates/Slice0/Obligations.lean ====
section
/-! DEFINITION. The statements for the provers. A statement about a thread's instruction names what the instruction
changes by `onlyThread` (Safety.lean): every other part of the state is the same, which is its frame. -/

open Sys2Proof
open Sys2Proof.Machine
open Sys2Proof.Safety

/-! ### Imlas-36: integers -/

/-- R451, R452, R453, R440, R441: ADD, SUB, ADC, SBC, MUL and SHL, then the logic and shift operations and the high products. `word` is the
result word: the saturated limit with the quality raised to at least Bh where S is set and the exact value does not fit, else
the low 32 bits. -/
def Obligations.IntegerResultsAndFlags : Prop :=
  (∀ (f : Rg) (s : State), issues s f.t f.cond → quiet s f.t → f.fn.extractLsb' 6 2 = 0 →
      let x := descAt s f.t
      let a := wVal (gReg x f.ra)
      let b := wVal (gReg x f.rb)
      let q := Nat.max (wQ (gReg x f.ra)) (wQ (gReg x f.rb))
      let S := f.fn.getLsbD 10
      let U := f.fn.getLsbD 8
      let F := f.fn.getLsbD 9
      let n := b.toNat % 32
      let k : Nat := if flC x.fl then 1 else 0
      let ovf : Int → Int → Prop := fun xs xu =>
        if U then xu < 0 ∨ 2 ^ 32 ≤ xu else xs < -2 ^ 31 ∨ 2 ^ 31 ≤ xs
      let limit : Int → Int → Dword := fun xs xu =>
        if U then (if xu < 0 then 0 else 0xFFFFFFFF) else (if xs < 0 then 0x80000000 else 0x7FFFFFFF)
      let word : Int → Int → Dword → W36 := fun xs xu v =>
        if S = true ∧ ovf xs xu then mkW (Nat.max q 11) (limit xs xu) else mkW q v
      let ends : Instr → Int → Int → Dword → Option Bool → Option Bool → Prop := fun i xs xu v c o =>
        writesOnly i s f.t
          (putReg x f.rd (word xs xu v) F (resultFlags x.fl x.qm (wVal (word xs xu v)) (wQ (word xs xu v)) c o))
      ends (.imAdd f) (a.toInt + b.toInt) (a.toNat + b.toNat) (a + b)
          (some (decide (2 ^ 32 ≤ a.toNat + b.toNat)))
          (some (decide (ovf (a.toInt + b.toInt) (a.toNat + b.toNat))))
        ∧ ends (.imAdc f) (a.toInt + b.toInt + k) (a.toNat + b.toNat + k) (a + b + BitVec.ofNat 32 k)
          (some (decide (2 ^ 32 ≤ a.toNat + b.toNat + k)))
          (some (decide (ovf (a.toInt + b.toInt + k) (a.toNat + b.toNat + k))))
        ∧ ends (.imSub f) (a.toInt - b.toInt) (a.toNat - b.toNat) (a - b)
          (some (decide (b.toNat ≤ a.toNat)))
          (some (decide (ovf (a.toInt - b.toInt) (a.toNat - b.toNat))))
        ∧ ends (.imSbc f) (a.toInt - b.toInt - (1 - k)) (a.toNat - b.toNat - (1 - k)) (a - b - BitVec.ofNat 32 (1 - k))
          (some (decide (b.toNat + (1 - k) ≤ a.toNat)))
          (some (decide (ovf (a.toInt - b.toInt - (1 - k)) (a.toNat - b.toNat - (1 - k)))))
        ∧ ends (.imMul f) (a.toInt * b.toInt) (a.toNat * b.toNat) (a * b) none
          (some (decide (ovf (a.toInt * b.toInt) (a.toNat * b.toNat))))
        ∧ ends (.imShl f) (a.toInt * 2 ^ n) (a.toNat * 2 ^ n) (a <<< n)
          (if n = 0 then none else some (a.getLsbD (32 - n)))
          (some (S && decide (ovf (a.toInt * 2 ^ n) (a.toNat * 2 ^ n)))))
    ∧ (∀ (f : Rg) (s : State), issues s f.t f.cond → quiet s f.t →
        f.fn.extractLsb' 6 2 = 0 → f.fn.getLsbD 8 = false → f.fn.getLsbD 10 = false →
        let x := descAt s f.t
        let a := wVal (gReg x f.ra)
        let b := wVal (gReg x f.rb)
        let q := Nat.max (wQ (gReg x f.ra)) (wQ (gReg x f.rb))
        let n := b.toNat % 32
        let ends : Instr → Dword → Option Bool → Option Bool → Prop := fun i v c o =>
          writesOnly i s f.t
            (putReg x f.rd (mkW q v) (f.fn.getLsbD 9) (resultFlags x.fl x.qm v (wQ (mkW q v)) c o))
        let out : Option Bool := if n = 0 then none else some (a.getLsbD (n - 1))
        ends (.imAnd f) (a &&& b) none none
          ∧ ends (.imOr f) (a ||| b) none none
          ∧ ends (.imXor f) (a ^^^ b) none none
          ∧ ends (.imAndn f) (a &&& ~~~b) none none
          ∧ ends (.imShr f) (a >>> n) out none
          ∧ ends (.imSar f) (a.sshiftRight n) out none
          ∧ ends (.imRor f) (a.rotateRight n) (some ((a.rotateRight n).getLsbD 31)) none
          ∧ ends (.imMulhu f) ((a.setWidth 64 * b.setWidth 64).extractLsb' 32 32) none (some false)
          ∧ ends (.imMulhs f) ((a.signExtend 64 * b.signExtend 64).extractLsb' 32 32) none (some false))

/-- R451, R452, R453, R440, R441: quotients and remainders, with the corners of R441 raising the quality and setting V; minima and
maxima, MOV, CLZ, POPC and BSWAP. A minimum or maximum is the selected operand word; of equal values the one with the larger
quality code. -/
def Obligations.QuotientsMinimaMovesAndBitCounts : Prop :=
  (∀ (f : Rg) (s : State), issues s f.t f.cond → quiet s f.t →
      f.fn.extractLsb' 6 2 = 0 → f.fn.getLsbD 8 = false → f.fn.getLsbD 10 = false →
      let x := descAt s f.t
      let a := wVal (gReg x f.ra)
      let b := wVal (gReg x f.rb)
      let q := Nat.max (wQ (gReg x f.ra)) (wQ (gReg x f.rb))
      let ends : Instr → Dword → Bool → Prop := fun i v bad =>
        let w := mkW (if bad then Nat.max q 11 else q) v
        writesOnly i s f.t (putReg x f.rd w (f.fn.getLsbD 9) (resultFlags x.fl x.qm v (wQ w) none (some bad)))
      let corner : Prop := b = 0 ∨ (a = 0x80000000 ∧ b = 0xFFFFFFFF)
      ends (.imDivu f) (if b = 0 then 0 else a / b) (decide (b = 0))
        ∧ ends (.imRemu f) (if b = 0 then a else a % b) (decide (b = 0))
        ∧ ends (.imDivs f) (if b = 0 then 0 else a.sdiv b) (decide corner)
        ∧ ends (.imRems f) (if b = 0 then a else a.srem b) (decide corner))
    ∧ (∀ (f : Rg) (s : State), issues s f.t f.cond → quiet s f.t →
        f.fn.extractLsb' 6 2 = 0 → f.fn.getLsbD 8 = false → f.fn.getLsbD 10 = false →
        let x := descAt s f.t
        let a := gReg x f.ra
        let b := gReg x f.rb
        let ends : Instr → W36 → Prop := fun i w =>
          writesOnly i s f.t (putReg x f.rd w (f.fn.getLsbD 9) (resultFlags x.fl x.qm (wVal w) (wQ w) none none))
        let choose : Bool → W36 := fun left =>
          if wVal a = wVal b then mkW (Nat.max (wQ a) (wQ b)) (wVal a) else if left then a else b
        ends (.imMins f) (choose ((wVal a).slt (wVal b)))
          ∧ ends (.imMaxs f) (choose ((wVal b).slt (wVal a)))
          ∧ ends (.imMinu f) (choose ((wVal a).ult (wVal b)))
          ∧ ends (.imMaxu f) (choose ((wVal b).ult (wVal a)))
          ∧ (f.ra = 0 → ends (.imMov f) b)
          ∧ (f.rb = 0 →
              (∃ n, ends (.imClz f) (mkW (wQ a) (BitVec.ofNat 32 n))
                ∧ n ≤ 32 ∧ (∀ i, 32 - n ≤ i → (wVal a).getLsbD i = false) ∧ (n < 32 → (wVal a).getLsbD (31 - n) = true))
              ∧ ends (.imPopc f) (mkW (wQ a) (BitVec.ofNat 32 ((List.range 32).filter (fun i => (wVal a).getLsbD i)).length))
              ∧ ends (.imBswap f)
                  (mkW (wQ a) ((wVal a).extractLsb' 0 8 ++ (wVal a).extractLsb' 8 8 ++ (wVal a).extractLsb' 16 8
                    ++ (wVal a).extractLsb' 24 8))))

/-- R454, R440: the immediate instructions write rd from ra and imm16 and set no flag, but for CMPI, which writes no
register and sets every flag from ra − sext(imm16). -/
def Obligations.ImmediateInstructionsSetNoFlagButCmpi : Prop :=
  ∀ (f : Im) (s : State), issues s f.t f.cond → quiet s f.t →
    let x := descAt s f.t
    let a := wVal (gReg x f.ra)
    let q := wQ (gReg x f.ra)
    let sx : Dword := f.imm.signExtend 32
    let zx : Dword := f.imm.setWidth 32
    let n := f.imm.toNat % 32
    let ends : Instr → W36 → Prop := fun i w => writesOnly i s f.t (setGReg x f.rd w)
    ends (.imAddi f) (mkW q (a + sx))
      ∧ ends (.imMuli f) (mkW q (a * sx))
      ∧ ends (.imAndi f) (mkW q (a &&& zx))
      ∧ ends (.imOri f) (mkW q (a ||| zx))
      ∧ ends (.imXori f) (mkW q (a ^^^ zx))
      ∧ (f.imm.toNat < 32 →
          ends (.imShli f) (mkW q (a <<< n)) ∧ ends (.imShri f) (mkW q (a >>> n))
            ∧ ends (.imSari f) (mkW q (a.sshiftRight n)))
      ∧ (f.ra = 0 → ends (.imLui f) (mkW 0 (BitVec.ofNat 32 (f.imm.toNat * 65536))))
      ∧ (f.imm.toNat < 16 → ends (.imQseti f) (mkW f.imm.toNat a))
      ∧ (f.rd = 0 →
          writesOnly (.imCmpi f) s f.t
            { x with fl := resultFlags x.fl x.qm (a - sx) q (some (decide (sx.toNat ≤ a.toNat)))
                             (some (a.ssubOverflow sx)) })

/-! ### Imlas-36: floating point, quality, special registers -/

/-- R455, R440, R441: FADD, FSUB, FMUL, FDIV and FSQRT. The pattern is the rounded result; where IEEE 754 gives a NaN, rd takes some
NaN (which one is free, log 33), with quality at least Bh unless an operand was a NaN. A division by zero raises the quality to
at least Bh. Rounding is to nearest even: of a magnitude m cut by k places the result is the nearest multiple of 2^k, and of
two that are equally near the even one. -/
def Obligations.FloatArithmeticRoundsToNearestEven : Prop :=
  (∀ (f : Rg) (s : State), issues s f.t f.cond → quiet s f.t →
      f.fn.getLsbD 10 = false → f.fn.getLsbD 8 = false → f.fn.extractLsb' 5 3 = 0 →
      let x := descAt s f.t
      let a := gReg x f.ra
      let b := gReg x f.rb
      let put : W36 → Desc := fun w =>
        putReg x f.rd w (f.fn.getLsbD 9) (resultFlags x.fl x.qm (wVal w) (wQ w) none none)
      let ends : Instr → Option Nat → Bool → Nat → Bool → Prop := fun i r zeroDiv q nan =>
        match r with
        | some v => writesOnly i s f.t (put (mkW (if zeroDiv then Nat.max q 11 else q) (BitVec.ofNat 32 v)))
        | none =>
          ∃ v, isNan v = true ∧
            writesFree i s f.t (put (mkW (if nan && !zeroDiv then q else Nat.max q 11) v))
      let nan2 := isNan (wVal a) || isNan (wVal b)
      let m2 := Nat.max (wQ a) (wQ b)
      let q2 := if nan2 then Nat.max m2 7 else m2
      let q1 := if isNan (wVal a) then Nat.max (wQ a) 7 else wQ a
      let zero : Bool := (wVal b).extractLsb' 0 31 == 0
      ends (.imFadd f) (f32.add (wVal a).toNat (wVal b).toNat) false q2 nan2
        ∧ ends (.imFsub f) (f32.sub (wVal a).toNat (wVal b).toNat) false q2 nan2
        ∧ ends (.imFmul f) (f32.mul (wVal a).toNat (wVal b).toNat) false q2 nan2
        ∧ ends (.imFdiv f) (f32.div (wVal a).toNat (wVal b).toNat) zero q2 nan2
        ∧ (f.rb = 0 → ends (.imFsqrt f) (f32.sqrt (wVal a).toNat) false q1 (isNan (wVal a))))
    ∧ (∀ m k : Nat,
        let r := roundEven m k false
        2 * (m - r * 2 ^ k) ≤ 2 ^ k ∧ 2 * (r * 2 ^ k - m) ≤ 2 ^ k
          ∧ (2 * (m - r * 2 ^ k) = 2 ^ k ∨ (0 < k ∧ 2 * (r * 2 ^ k - m) = 2 ^ k) → 0 < k → r % 2 = 0))

/-- R455, R453, R440, R441: FMIN and FMAX (a NaN loses to a number), FCMP's flags by its table, the conversions, FABS and
FNEG. Which operand FMIN and FMAX give of −0 and +0 is free (log 33). -/
def Obligations.FloatSelectionComparisonAndConversion : Prop :=
  ∀ (f : Rg) (s : State), issues s f.t f.cond → quiet s f.t →
    f.fn.getLsbD 10 = false → f.fn.getLsbD 8 = false → f.fn.extractLsb' 5 3 = 0 →
    let x := descAt s f.t
    let a := gReg x f.ra
    let b := gReg x f.rb
    let na := isNan (wVal a)
    let nb := isNan (wVal b)
    let m := Nat.max (wQ a) (wQ b)
    let put : W36 → Desc := fun w =>
      putReg x f.rd w (f.fn.getLsbD 9) (resultFlags x.fl x.qm (wVal w) (wQ w) none none)
    let cmp := f32.cmp (wVal a).toNat (wVal b).toNat
    let select : Instr → FpOrd → Prop := fun i first =>
      (na = true → nb = false → writesOnly i s f.t (put (mkW (Nat.max 7 (wQ b)) (wVal b))))
        ∧ (na = false → nb = true → writesOnly i s f.t (put (mkW (Nat.max 7 (wQ a)) (wVal a))))
        ∧ (na = true → nb = true → ∃ v, isNan v = true ∧ writesFree i s f.t (put (mkW (Nat.max m 7) v)))
        ∧ (cmp = first → writesOnly i s f.t (put a))
        ∧ (cmp ≠ first → cmp ≠ .eq → cmp ≠ .unordered → writesOnly i s f.t (put b))
        ∧ (cmp = .eq → wVal a = wVal b → writesOnly i s f.t (put (mkW m (wVal a))))
        ∧ (cmp = .eq → wVal a ≠ wVal b →
            ∃ v, (v = wVal a ∨ v = wVal b) ∧ writesFree i s f.t (put (mkW m v)))
    let q := if na || nb then Nat.max m 7 else m
    let ordFlags : Bool → Bool → Bool → Bool → Desc := fun z n c v =>
      { x with fl := setFl x.fl z n c v (accepts x.qm q) }
    select (.imFmin f) .lt
      ∧ select (.imFmax f) .gt
      ∧ (f.rd = 0 →
          (cmp = .lt → writesOnly (.imFcmp f) s f.t (ordFlags false true false false))
            ∧ (cmp = .eq → writesOnly (.imFcmp f) s f.t (ordFlags true false true false))
            ∧ (cmp = .gt → writesOnly (.imFcmp f) s f.t (ordFlags false false true false))
            ∧ (cmp = .unordered → writesOnly (.imFcmp f) s f.t (ordFlags false false true true)))
      ∧ (f.rb = 0 →
          writesOnly (.imFcvtis f) s f.t (put (mkW (wQ a) (BitVec.ofNat 32 (f32.ofInt (wVal a).toInt))))
            ∧ writesOnly (.imFcvtiu f) s f.t (put (mkW (wQ a) (BitVec.ofNat 32 (f32.ofInt (wVal a).toNat))))
            ∧ (na = true → writesOnly (.imFcvtsi f) s f.t (put (mkW (Nat.max (wQ a) 11) 0)))
            ∧ (wVal a = 0x7F800000 → writesOnly (.imFcvtsi f) s f.t (put (mkW (Nat.max (wQ a) 11) 0x7FFFFFFF)))
            ∧ (wVal a = 0xFF800000 → writesOnly (.imFcvtsi f) s f.t (put (mkW (Nat.max (wQ a) 11) 0x80000000)))
            ∧ (∀ y, f32.trunc (wVal a).toNat = some y →
                (-2 ^ 31 ≤ y → y < 2 ^ 31 → writesOnly (.imFcvtsi f) s f.t (put (mkW (wQ a) (BitVec.ofInt 32 y))))
                  ∧ (y < -2 ^ 31 → writesOnly (.imFcvtsi f) s f.t (put (mkW (Nat.max (wQ a) 11) 0x80000000)))
                  ∧ (2 ^ 31 ≤ y → writesOnly (.imFcvtsi f) s f.t (put (mkW (Nat.max (wQ a) 11) 0x7FFFFFFF))))
            ∧ writesOnly (.imFabs f) s f.t
                (put (mkW (if na then Nat.max (wQ a) 7 else wQ a) (wVal a &&& 0x7FFFFFFF)))
            ∧ writesOnly (.imFneg f) s f.t
                (put (mkW (if na then Nat.max (wQ a) 7 else wQ a) (wVal a ^^^ 0x80000000))))

/-- R456, R457, R437 to R439: the quality instructions, MFS, and MTS in both modes; a supervisor MTS to PC is the model's
reading (log 34). -/
def Obligations.QualityAndSpecialRegisterMoves : Prop :=
  ∀ (f : Rg) (s : State), issues s f.t f.cond → quiet s f.t →
    let x := descAt s f.t
    let a := gReg x f.ra
    let b := gReg x f.rb
    let ends : Instr → W36 → Prop := fun i w => writesOnly i s f.t (setGReg x f.rd w)
    let cls := wQ a / 4
    (f.fn.extractLsb' 3 8 = 0 →
      ends (.imQset f) (mkW ((wVal b).toNat % 16) (wVal a))
        ∧ ends (.imQmax f) (mkW (Nat.max (wQ a) (wQ b)) (wVal a))
        ∧ (f.rb = 0 →
            ends (.imQget f) (mkW 0 (BitVec.ofNat 32 (wQ a)))
              ∧ ends (.imQcls f) (mkW 0 (BitVec.ofNat 32 cls))
              ∧ (cls = 0 → ends (.imQdrv f) (mkW 2 (wVal a)))
              ∧ (cls = 1 → ends (.imQdrv f) (mkW 7 (wVal a)))
              ∧ (cls = 2 → ends (.imQdrv f) (mkW 11 (wVal a)))
              ∧ (cls = 3 → ends (.imQdrv f) a)))
      ∧ (f.rb = 0 →
          (f.ra.toNat = 0 → ends (.imMfs f) (mkW 0 x.pc))
            ∧ (f.ra.toNat = 1 → ends (.imMfs f) (mkW 0 x.sp))
            ∧ (f.ra.toNat = 2 → ends (.imMfs f) x.fl)
            ∧ (f.ra.toNat = 3 → ends (.imMfs f) (mkW 0 x.bn))
            ∧ (f.ra.toNat = 4 → ends (.imMfs f) x.ba)
            ∧ (f.ra.toNat = 5 → ends (.imMfs f) x.bb)
            ∧ (f.ra.toNat = 6 → ends (.imMfs f) x.qm)
            ∧ (f.rd.toNat = 1 → writesOnly (.imMts f) s f.t { x with sp := wVal a })
            ∧ (f.rd.toNat = 3 → writesOnly (.imMts f) s f.t { x with bn := wVal a })
            ∧ (f.rd.toNat = 4 → writesOnly (.imMts f) s f.t { x with ba := a })
            ∧ (f.rd.toNat = 5 → writesOnly (.imMts f) s f.t { x with bb := a })
            ∧ (f.rd.toNat = 6 → writesOnly (.imMts f) s f.t { x with qm := a &&& 0xF })
            ∧ (f.rd.toNat = 2 → supMode s f.t = false → a.extractLsb' 8 2 = x.fl.extractLsb' 8 2 →
                writesOnly (.imMts f) s f.t { x with fl := (x.fl &&& ~~~(0x1F : W36)) ||| (a &&& 0x1F) })
            ∧ (f.rd.toNat = 2 → supMode s f.t = true → (a.getLsbD 9 = true → ∀ c, coreRunning s f.t = some c →
                  (coreAt s c).pend = false) →
                writesOnly (.imMts f) s f.t { x with fl := (a &&& 0x21F) ||| 0x100 })
            ∧ (f.rd.toNat = 0 → supMode s f.t = true →
                ∃ u, exec (.imMts f) s = .next u ∧ onlyThread s u f.t { x with pc := wVal a, wait := 0 }))

/-! ### Imlas-36: memory -/

/-- R458, R459, R442: LDW, STW, LDWX, STWX and CASW where the access is answered. A store writes the one word its address
leads to and nothing else (`storedAt`), a load writes rd. -/
def Obligations.WordLoadsStoresAndCompareSwap : Prop :=
  ∀ (s : State) (t : Nat) (cond : BitVec 4), issues s t cond → quiet s t →
    let x := descAt s t
    let loads : Instr → BitVec 5 → Dword → Prop := fun i d a =>
      ∀ l, wLoc s t a .read = l → l ≠ .fault → l ≠ .denied → writesOnly i s t (setGReg x d (readLoc s l))
    let stores : Instr → BitVec 5 → Dword → Prop := fun i d a =>
      ∀ l, wLoc s t a .write = l → l ≠ .fault → l ≠ .denied →
        ∃ u, exec i s = .next u ∧ storedAt s u t l (gReg x d) (nextPc x)
    (∀ d ra imm, let f : Im := { t := t, cond := cond, rd := d, ra := ra, imm := imm }
      let a := wVal (gReg x ra) + imm.signExtend 32
      loads (.imLdw f false) d a ∧ stores (.imStw f) d a)
      ∧ (∀ d ra rb, let f : Rg := { t := t, cond := cond, rd := d, ra := ra, rb := rb, fn := 0 }
        let a := wVal (gReg x ra) + wVal (gReg x rb)
        loads (.imLdwx f false) d a ∧ stores (.imStwx f) d a)
      ∧ (∀ d ra rb l, let f : Rg := { t := t, cond := cond, rd := d, ra := ra, rb := rb, fn := 0 }
        let a := wVal (gReg x ra)
        wLoc s t a .read = l → wLoc s t a .write = l → l ≠ .fault → l ≠ .denied →
          let old := readLoc s l
          let y : Bool → Desc := fun z => { setGReg x d old with fl := setZ x.fl z }
          (old = gReg x rb → ∃ u, exec (.imCasw f false) s = .next u ∧ storedAt s u t l (gReg x d) (nextPc (y true)))
            ∧ (old ≠ gReg x rb → writesOnly (.imCasw f false) s t (y false)))

/-- R442, R443, R444, R445, R7: the laws of words in cluster and local memory, which are separate, and of bytes in DRAM and in an output
buffer. What is written is read back, every other place stays, and the memory keeps its canonical form. -/
def Obligations.WordsAndBytesAreReadBackAndOthersStay : Prop :=
  (∀ (s : State) (w : W36), tabWf s.sch.locals = true → tabWf s.sch.cluster = true →
      ∀ k, readLoc (writeLoc s (.core k) w) (.core k) = w
        ∧ readLoc (writeLoc s (.cluster k) w) (.cluster k) = w
        ∧ (∀ j, j ≠ k → readLoc (writeLoc s (.core k) w) (.core j) = readLoc s (.core j)
              ∧ readLoc (writeLoc s (.cluster k) w) (.cluster j) = readLoc s (.cluster j))
        ∧ (∀ j, readLoc (writeLoc s (.core k) w) (.cluster j) = readLoc s (.cluster j)
              ∧ readLoc (writeLoc s (.cluster k) w) (.core j) = readLoc s (.core j)))
    ∧ (∀ (m : List (Nat × Byte)) (a : Nat) (bs : List Byte), Memory.wf m = true →
        memRead (memWrite m a bs) a bs.length = bs
          ∧ (∀ i, i < a ∨ a + bs.length ≤ i → memByte (memWrite m a bs) i = memByte m i)
          ∧ Memory.wf (memWrite m a bs) = true
          ∧ (∀ n i, a ≤ i → i < a + n → memByte (memClear m a n) i = 0)
          ∧ (∀ n i, i < a ∨ a + n ≤ i → memByte (memClear m a n) i = memByte m i))

/-- R436: a general register reads as what was last written to it, G0 reads as zero and a write to it is discarded, and a
write leaves every other register and every special register as it was. -/
def Obligations.GeneralRegisterReadsBackAndG0IsZero : Prop :=
  ∀ (x : Desc) (n m : BitVec 5) (w : W36), tabWf x.g = true →
    gReg x 0 = 0
      ∧ setGReg x 0 w = x
      ∧ (n ≠ 0 → gReg (setGReg x n w) n = w)
      ∧ (m ≠ n → gReg (setGReg x n w) m = gReg x m)
      ∧ setGReg x n w = { x with g := (setGReg x n w).g }
      ∧ tabWf (setGReg x n w).g = true

/-- R460, R445, R446, R447: the B-space loads in both forms, where bytes past the end of the input read as zero and give quality Dh; the
B-space stores in both forms, which write the low bytes of rd, SQ its value and quality, to the bytes at the address and to
no other byte. -/
def Obligations.ByteLoadsExtendAndStoresWriteTheirBytes : Prop :=
  (∀ (s : State) (b : Bs), issues s (bsT b) (bsCond b) → quiet s (bsT b) → bsLegal b = true →
      let t := bsT b
      let x := descAt s t
      let off : Nat :=
        match b with
        | .imm f => (wVal (gReg x f.ra) + BitVec.ofNat 32 (f.imm.toNat % 4096)).toNat
        | .reg f => (wVal (gReg x f.ra) + wVal (gReg x f.rb)).toNat
      let loads : Instr → Nat → (List Byte → Bool → W36) → Prop := fun i n mk =>
        ∀ l, bLoc s t (bsWin b) off n .read = l → (l ≠ .fault ∧ l ≠ .denied ∧ l ≠ .space) → pendingUe s l n = false →
          writesOnly i s t (setGReg x (bsRd b) (mk (bGet s t l n).1 (bGet s t l n).2))
      let q : Bool → Nat := fun past => if past then 0xD else 0
      let u : Nat → List Byte → Bool → W36 := fun n bs past => mkW (q past) (BitVec.ofNat 32 (leNat (bs.take n)))
      loads (.imLb b false) 1 (u 1)
        ∧ loads (.imLh b false) 2 (u 2)
        ∧ loads (.imL4 b false) 4 (u 4)
        ∧ loads (.imLbs b false) 1 (fun bs past => mkW (q past) ((BitVec.ofNat 8 (leNat bs)).signExtend 32))
        ∧ loads (.imLhs b false) 2 (fun bs past => mkW (q past) ((BitVec.ofNat 16 (leNat bs)).signExtend 32))
        ∧ loads (.imLq b false) 5 (fun bs past =>
            mkW (if past then 0xD else (bs[4]?.getD 0).toNat % 16) (BitVec.ofNat 32 (leNat (bs.take 4)))))
    ∧ (∀ (s : State) (b : Bs), issues s (bsT b) (bsCond b) → quiet s (bsT b) → bsLegal b = true →
        let t := bsT b
        let x := descAt s t
        let w := gReg x (bsRd b)
        let off : Nat :=
          match b with
          | .imm f => (wVal (gReg x f.ra) + BitVec.ofNat 32 (f.imm.toNat % 4096)).toNat
          | .reg f => (wVal (gReg x f.ra) + wVal (gReg x f.rb)).toNat
        let stores : Instr → List Byte → Prop := fun i bs =>
          ∀ l, bLoc s t (bsWin b) off bs.length .write = l → (l ≠ .fault ∧ l ≠ .denied ∧ l ≠ .space) →
            ∃ u, exec i s = .next u ∧ onlyThread (bPut s t l bs) u t (nextPc x)
        stores (.imSb b) [(wVal w).extractLsb' 0 8]
          ∧ stores (.imSh b) [(wVal w).extractLsb' 0 8, (wVal w).extractLsb' 8 8]
          ∧ stores (.imS4 b)
              [(wVal w).extractLsb' 0 8, (wVal w).extractLsb' 8 8, (wVal w).extractLsb' 16 8, (wVal w).extractLsb' 24 8]
          ∧ stores (.imSq b)
              [(wVal w).extractLsb' 0 8, (wVal w).extractLsb' 8 8, (wVal w).extractLsb' 16 8, (wVal w).extractLsb' 24 8,
                BitVec.ofNat 8 (wQ w)])

/-! ### Imlas-36: control -/

/-- R461, R462, R450: BR, CALL, JR, CALLR, RET, PUSH and POP where the stack access is answered. A push writes the word at
SP − 1 alone; a pop reads the word at SP. -/
def Obligations.BranchesCallsAndTheStack : Prop :=
  ∀ (s : State) (t : Nat) (cond : BitVec 4), issues s t cond → quiet s t →
    let x := descAt s t
    let reg : BitVec 5 → BitVec 5 → Rg := fun d a => { t := t, cond := cond, rd := d, ra := a, rb := 0, fn := 0 }
    let goes : Instr → Desc → Dword → Prop := fun i y pc =>
      ∃ u, exec i s = .next u ∧ onlyThread s u t { y with pc := pc, wait := 0 }
    let pushOk : WLoc → Prop := fun l =>
      wLoc s t (x.sp - 1) .write = l ∧ l ≠ .fault ∧ l ≠ .denied ∧ (supMode s t = false → 0x600000 ≤ (x.sp - 1).toNat)
    let popOk : WLoc → Prop := fun l =>
      wLoc s t x.sp .read = l ∧ l ≠ .fault ∧ l ≠ .denied ∧ (supMode s t = false → x.sp.toNat < stackTop s t)
    let pushes : Instr → W36 → Dword → Prop := fun i w pc =>
      ∀ l, pushOk l → ∃ u, exec i s = .next u ∧ storedAt s u t l w { x with sp := x.sp - 1, pc := pc, wait := 0 }
    (∀ off, let f : Br := { t := t, cond := cond, off := off }
      goes (.imBr f) x (x.pc + off.signExtend 32)
        ∧ pushes (.imCall f) (mkW 0 (x.pc + 1)) (x.pc + off.signExtend 32))
      ∧ (∀ a, goes (.imJr (reg 0 a)) x (wVal (gReg x a))
            ∧ pushes (.imCallr (reg 0 a)) (mkW 0 (x.pc + 1)) (wVal (gReg x a)))
      ∧ (∀ d, pushes (.imPush (reg d 0)) (gReg x d) (x.pc + 1))
      ∧ (∀ l, popOk l →
          goes (.imRet (reg 0 0) false) { x with sp := x.sp + 1 } (wVal (readLoc s l))
            ∧ (∀ d, writesOnly (.imPop (reg d 0) false) s t (setGReg { x with sp := x.sp + 1 } d (readLoc s l))))

/-! ### Imlas-36: conditions, flags, exceptions -/

/-- R450: the sixteen conditions, and a false condition: the instruction has no effect (PC alone moves on), unless its
fields raise Illegal Instruction, which is checked whatever the condition: such an instruction raises it wherever it is
issued in that mode. -/
def Obligations.FalseConditionHasNoEffect : Prop :=
  (∀ fl : W36, ∀ z n c v g : Bool, flZ fl = z → flN fl = n → flC fl = c → flV fl = v → flQG fl = g →
      (List.range 16).map (fun k => condTrue fl (BitVec.ofNat 4 k)) =
        [true, z, !z, c, !c, n, !n, v, !v, c && !z, !c || z, n == v, n != v, !z && n == v, z || n != v, g])
    ∧ ∀ (i : Instr) (s : State) (t : Nat) (cond : BitVec 4), issuer i = some (t, cond) →
        executes s t = true → fetches s t → quiet s t → condTrue (descAt s t).fl cond = false →
        writesOnly i s t (descAt s t)
          ∨ ∀ u : State, executes u t = true → fetches u t → supMode u t = supMode s t →
              exec i u = .next (takeExc u t 0x01 none (descAt u t).pc)

/-- R451, R438, R439: the flags of a result. Z, N and QG follow the value and its quality's class, C and V the
instruction's rule or stay, and every other bit of FL stays. -/
def Obligations.ResultFlagsFollowValueAndQuality : Prop :=
  ∀ (fl qm : W36) (v : Dword) (q : Nat) (c o : Option Bool),
    let r := resultFlags fl qm v q c o
    flZ r = decide (v = 0) ∧ flN r = v.getLsbD 31 ∧ flQG r = qm.getLsbD (q % 16 / 4)
      ∧ flC r = c.getD (flC fl) ∧ flV r = o.getD (flV fl)
      ∧ (∀ i, 5 ≤ i → r.getLsbD i = fl.getLsbD i)
      ∧ (∀ z, flZ (setZ fl z) = z ∧ (∀ i, 1 ≤ i → (setZ fl z).getLsbD i = fl.getLsbD i))

/-- R473, R474, R475: exception entry in supervisor mode pushes FL and the return address, puts the faulting address and the code into
local words F8h and F9h, sets S, clears IE, and takes PC to 100h + 8 × code. An exception of a user thread ends its stage with
the status of the table, discards its output, and counts a fault of the program. -/
def Obligations.ExceptionsEnterTheHandlerOrEndTheStage : Prop :=
  (∀ (s : State) (t c code : Nat) (addr : W36) (ret : Dword) (l1 l2 : WLoc),
      supMode s t = true → stackRoom s t c l1 l2 → tabWf s.sch.locals = true → tabWf s.sch.cluster = true →
      let x := descAt s t
      let u := takeExc s t code (some addr) ret
      readLoc u l1 = x.fl ∧ readLoc u l2 = mkW 0 ret
        ∧ readLoc u (.core (c * 2 ^ 17 + 0xF8)) = addr
        ∧ readLoc u (.core (c * 2 ^ 17 + 0xF9)) = mkW 0 (BitVec.ofNat 32 code)
        ∧ (∀ l, l ≠ l1 → l ≠ l2 → l ≠ .core (c * 2 ^ 17 + 0xF8) → l ≠ .core (c * 2 ^ 17 + 0xF9) → readLoc u l = readLoc s l)
        ∧ (∀ d, d ≠ t → descAt u d = descAt s d)
        ∧ descAt u t =
            { x with sp := x.sp - 1 - 1, fl := (x.fl ||| 0x100) &&& ~~~(0x200 : W36),
                     pc := BitVec.ofNat 32 (0x100 + 8 * code), halted := false, wait := 0 }
        ∧ u = { s with sch := { s.sch with descs := u.sch.descs, locals := u.sch.locals, cluster := u.sch.cluster } })
    ∧ (∀ (s : State) (t j code : Nat) (addr : Option W36) (ret : Dword) (b : Job) (m : ImStage) (p : Program),
        supMode s t = false → (descAt s t).job = some j → jobAt s j = some b → b.im = some m → b.failed = none →
        tabGet s.chn.programs m.prog = some p →
        let u := takeExc s t code addr ret
        let status : Nat × Nat :=
          if code = 0x07 then (7, 0x8A)
          else if code = 0x0C then (if m.exactOut then (7, 0x83) else (7, 0x84))
          else (7, 0x8B)
        (∃ b', jobAt u j = some b' ∧ b'.failed = some status ∧ b'.output = [] ∧ (b'.im.map (·.done)) = some true)
          ∧ tabGet u.chn.programs m.prog = some { p with faults := p.faults + 1 }
          ∧ (∀ k, k ≠ j → (jobAt u k).map (·.failed) = (jobAt s k).map (·.failed)))

/-- R449, R450, R457, R460, R469, R473, R438: what raises Illegal Instruction and Privileged Instruction, whatever the condition
for the first: a field that the instruction does not use, S where R452 does not allow it, a window Fh, a special number above
6, and PC as the target of a user thread's MTS. A fetch outside W-space raises W-space Fault. -/
def Obligations.IllegalPrivilegedAndFetchExceptions : Prop :=
  ∀ (s : State) (t : Nat), executes s t = true →
    let x := descAt s t
    let raises : Instr → Nat → Prop := fun i code => exec i s = .next (takeExc s t code none x.pc)
    (fetches s t → ∀ f : Rg, f.t = t →
        (f.fn.extractLsb' 6 2 ≠ 0 → raises (.imAdd f) 0x01 ∧ raises (.imShl f) 0x01 ∧ raises (.imMov f) 0x01)
          ∧ (f.fn.getLsbD 10 = true → raises (.imAnd f) 0x01 ∧ raises (.imDivs f) 0x01 ∧ raises (.imMaxu f) 0x01
              ∧ raises (.imFadd f) 0x01)
          ∧ (f.ra ≠ 0 → raises (.imMov f) 0x01 ∧ raises (.imNop f) 0x01 ∧ raises (.imRet f false) 0x01)
          ∧ (f.rb ≠ 0 → raises (.imClz f) 0x01 ∧ raises (.imQget f) 0x01 ∧ raises (.imFsqrt f) 0x01
              ∧ raises (.imJr f) 0x01 ∧ raises (.imTime f) 0x01)
          ∧ (7 ≤ f.ra.toNat → raises (.imMfs f) 0x01) ∧ (7 ≤ f.rd.toNat → raises (.imMts f) 0x01)
          ∧ (f.rd = 0 → supMode s t = false → raises (.imMts f) 0x01)
          ∧ (f.fn.extractLsb' 7 4 = 0xF → raises (.imLb (.reg f) false) 0x01 ∧ raises (.imSq (.reg f)) 0x01)
          ∧ (condTrue x.fl f.cond = true → supMode s t = false → f.rd = 0 → f.ra = 0 → f.rb = 0 → f.fn.extractLsb' 4 7 = 0 →
              raises (.imEret f false false) 0x02 ∧ raises (.imHalt f) 0x02)
          ∧ (condTrue x.fl f.cond = true → supMode s t = false → f.rd.toNat = 2 → f.rb = 0 →
              (gReg x f.ra).extractLsb' 8 2 ≠ x.fl.extractLsb' 8 2 → raises (.imMts f) 0x02))
      ∧ (wLoc s t x.pc .exec = .fault → ∀ i cond, issuer i = some (t, cond) →
          exec i s = .next (takeExc s t 0x03 (some (mkW 15 x.pc)) x.pc))

/-! ### Imlas-36: system, scheduling and Furrow instructions -/

/-- R469, R475, R487, R488, R18: NOP, FENCE, TIME, HALT, ERET and TRAP in supervisor mode, YIELD and WAIT. A thread that gives
up its core stands at the tail of its ready queue, or sleeps until its target, before the island's free cores take threads
(`settleIsland`, R484). -/
def Obligations.SystemInstructionsHaveTheirEffects : Prop :=
  ∀ (s : State) (t : Nat) (cond : BitVec 4), issues s t cond → quiet s t →
    let x := descAt s t
    let f : BitVec 5 → BitVec 5 → BitVec 5 → Rg := fun d a b => { t := t, cond := cond, rd := d, ra := a, rb := b, fn := 0 }
    let n := islandTime s (isSward x.island)
    let k := x.island * 64 + x.prio.toNat
    let left : State → Desc → Prop := fun v y =>
      descAt v t = { y with pc := x.pc + 1, wait := 0, runtime := (descAt v t).runtime }
        ∧ (∀ c, coreRunning s t = some c → (coreAt v c).run = none)
        ∧ (∀ d, d ≠ t → descAt v d = descAt s d)
    let requeued : Instr → Prop := fun i =>
      ∃ v, exec i s = .next (settleIsland v x.island) ∧ left v { x with st := 1 } ∧ queueAt v k = queueAt s k ++ [t]
    writesOnly (.imNop (f 0 0 0)) s t x
      ∧ writesOnly (.imFence (f 0 0 0)) s t x
      ∧ requeued (.imYield (f 0 0 0))
      ∧ (∀ a b, let target := (wVal (gReg x a)).toNat + (wVal (gReg x b)).toNat * 2 ^ 32
          (n < target →
            ∃ v, exec (.imWait (f 0 a b)) s = .next (settleIsland v x.island)
              ∧ left v { x with st := 3, wake := BitVec.ofNat 64 target })
            ∧ (target ≤ n → requeued (.imWait (f 0 a b))))
      ∧ (∀ d a,
          (wVal (gReg x a) = 0 →
            writesOnly (.imTime (f d a 0)) s t
              { setGReg x d (mkW 0 (BitVec.ofNat 32 n)) with timeHi := BitVec.ofNat 32 (n / 2 ^ 32) })
            ∧ (wVal (gReg x a) = 1 → writesOnly (.imTime (f d a 0)) s t (setGReg x d (mkW 0 x.timeHi)))
            ∧ (1 < (wVal (gReg x a)).toNat →
                ∃ v, writesFree (.imTime (f d a 0)) s t (setGReg x d (mkW 0 v))))
      ∧ (supMode s t = true →
          writesOnly (.imHalt (f 0 0 0)) s t { x with halted := true }
            ∧ (∀ l1 l2, wLoc s t x.sp .read = l1 → wLoc s t (x.sp + 1) .read = l2 →
                (∀ l, l = l1 ∨ l = l2 → l ≠ .fault ∧ l ≠ .denied) →
                (∀ c, coreRunning s t = some c → (coreAt s c).pend = false) →
                ∃ u, exec (.imEret (f 0 0 0) false false) s = .next u
                  ∧ onlyThread s u t
                      { x with sp := x.sp + 1 + 1, pc := wVal (readLoc s l1), fl := readLoc s l2 &&& 0x31F, wait := 0 })
            ∧ (∀ c l1 l2, stackRoom s t c l1 l2 → tabWf s.sch.locals = true → tabWf s.sch.cluster = true →
                ∀ b, ∃ u, exec (.imTrap (f 0 0 b)) s = .next u
                  ∧ readLoc u l1 = x.fl ∧ readLoc u l2 = mkW 0 (x.pc + 1)
                  ∧ readLoc u (.core (c * 2 ^ 17 + 0xF9)) = mkW 0 9
                  ∧ descAt u t =
                      { x with sp := x.sp - 1 - 1, fl := (x.fl ||| 0x100) &&& ~~~(0x200 : W36), pc := 0x148,
                               halted := false, wait := 0 }))

/-- R476, R480, R501: SPAWN, FTAKE, FREL and END of a program thread. A spawned thread starts with G1 = rb, G2 = the output
capacity, G3 = its index and every other register zero; FTAKE gives the job's item number and FREL does nothing; END of the
entry thread ends the stage with its output, END of another thread ends that thread alone. -/
def Obligations.ProgramThreadsSpawnTakeItemsAndEnd : Prop :=
  ∀ (s : State) (t : Nat) (cond : BitVec 4) (j : Nat) (b : Job) (m : ImStage), issues s t cond → quiet s t →
    (descAt s t).job = some j → jobAt s j = some b → b.im = some m →
    let x := descAt s t
    let f : BitVec 5 → BitVec 5 → BitVec 5 → Rg := fun d a r => { t := t, cond := cond, rd := d, ra := a, rb := r, fn := 0 }
    (∀ d a r,
        (freeIndex s m = none →
          writesOnly (.imSpawn { f d a r with fn := 3 }) s t
            { setGReg x d (mkW 0 0xFFFFFFFF) with fl := setZ x.fl true })
          ∧ (∀ i e, freeIndex s m = some (i, e) → e ≠ t →
              ∃ u, exec (.imSpawn { f d a r with fn := 3 }) s = .next u
                ∧ (descAt u t).g = (setGReg x d (mkW 0 (BitVec.ofNat 32 i))).g ∧ flZ (descAt u t).fl = false
                ∧ (descAt u t).pc = x.pc + 1
                ∧ (descAt u e).job = some j ∧ (descAt u e).index = i ∧ (descAt u e).pc = wVal (gReg x a)
                ∧ (descAt u e).sp = BitVec.ofNat 32 (0x600000 + m.stackLen)
                ∧ (∀ n, gReg (descAt u e) n =
                    if n = 1 then mkW 0 (wVal (gReg x r)) else if n = 2 then mkW 0 (BitVec.ofNat 32 m.outCap)
                    else if n = 3 then mkW 0 (BitVec.ofNat 32 i) else 0)
                ∧ ((descAt u e).st = 1 ∨ (descAt u e).st = 2)))
      ∧ (∀ d, writesOnly (.imFtake { f d 0 0 with fn := 4 }) s t (setGReg x d (mkW 0 (BitVec.ofNat 32 b.item))))
      ∧ (∀ a, writesOnly (.imFrel { f 0 a 0 with fn := 5 }) s t x)
      ∧ (∀ a, let len := (wVal (gReg x a)).toNat
          (x.index = 0 → len ≤ m.outCap →
            ∃ u, exec (.imEnd { f 0 a 0 with fn := 0xB }) s = .next u
              ∧ ∃ b', jobAt u j = some b' ∧ b'.output = memRead m.out 0 len ∧ b'.failed = b.failed
                  ∧ (b'.im.map (·.done)) = some true)
            ∧ (x.index ≠ 0 →
                ∃ v, exec (.imEnd { f 0 a 0 with fn := 0xB }) s = .next (settleIsland v x.island)
                  ∧ (tabWf s.sch.descs = true → descAt v t = {}) ∧ (∀ d, d ≠ t → descAt v d = descAt s d)
                  ∧ (jobAt v j).map (fun y => (y.output, y.failed)) = some (b.output, b.failed))
            ∧ (x.index = 0 → m.outCap < len →
                exec (.imEnd { f 0 a 0 with fn := 0xB }) s = .next (takeExc s t 0x0C none x.pc)))

/-- R496, R497, R498, R503, R476: FTAKE, FREL, SPAWN and END of a firmware thread. FTAKE of an enabled flow with room gives
NEXT, which advances; with 256 items open the thread blocks. FREL of an open item marks it done, and REL moves past every
consecutive done item. -/
def Obligations.FirmwareFlowsTakeAndReleaseItems : Prop :=
  ∀ (s : State) (t : Nat) (cond : BitVec 4), issues s t cond → quiet s t → (descAt s t).job = none →
    let x := descAt s t
    let f : BitVec 5 → BitVec 5 → Rg := fun d a => { t := t, cond := cond, rd := d, ra := a, rb := 0, fn := 0 }
    let y := flowAt s x.flow
    let open_ := (y.next + 2 ^ 32 - y.rel) % 2 ^ 32
    (∀ d, x.flowFail = false → x.flowEn = true → flowEnabled s x.flow = true → x.flow < fwFlows s →
        (open_ ≠ 256 → tabWf s.sch.flows = true →
          ∃ u, exec (.imFtake (f d 0)) s = .next u ∧ flowAt u x.flow = { y with next := (y.next + 1) % 2 ^ 32 }
            ∧ (∀ k, k ≠ x.flow → flowAt u k = flowAt s k)
            ∧ descAt u t = nextPc (setGReg x d (mkW 0 (BitVec.ofNat 32 y.next))))
          ∧ (open_ = 256 →
              ∃ v, exec (.imFtake (f d 0)) s = .next (settleIsland v x.island) ∧ (descAt v t).st = 4
                ∧ (descAt v t).pc = x.pc ∧ (descAt v t).g = x.g ∧ flowAt v x.flow = y))
      ∧ (∀ d, x.flowFail = true →
          writesOnly (.imFtake (f d 0)) s t { setGReg x d (mkW 11 0xFFFFFFFF) with flowFail := false })
      ∧ (∀ a, let item := (wVal (gReg x a)).toNat
          let idx := (item + 2 ^ 32 - y.rel) % 2 ^ 32
          x.flowEn = true → flowEnabled s x.flow = true → idx < open_ → y.done.contains item = false → item ≠ y.rel →
            y.done.contains y.rel = false →
            ∃ u, exec (.imFrel (f 0 a)) s = .next u ∧ flowAt u x.flow = { y with done := y.done ++ [item] }
              ∧ descAt u t = nextPc x)
      ∧ (∀ a, (wVal (gReg x a)).toNat = y.rel → x.flowEn = true → flowEnabled s x.flow = true → 0 < open_ → y.done = [] →
            tabWf s.sch.flows = true →
            ∃ u, exec (.imFrel (f 0 a)) s = .next u ∧ flowAt u x.flow = { y with rel := (y.rel + 1) % 2 ^ 32 })
      ∧ (∀ d a r, writesOnly (.imSpawn { f d a with rb := r }) s t
            { setGReg x d (mkW 0 0xFFFFFFFF) with fl := setZ x.fl true })
      ∧ (∀ a, ∃ v, exec (.imEnd (f 0 a)) s = .next (settleIsland v x.island)
            ∧ (tabWf s.sch.descs = true → descAt v t = {}) ∧ (∀ d, d ≠ t → descAt v d = descAt s d))

/-! ### Imlas-36: strings and ports -/

/-- R463, R464: one element (REP 0) of BMOV, BFILL, BSCAN, BCMP, WMOV, QUNPK, QPACK, BCRC and BDGST where its accesses are
answered. BA and BB move on by the element's size, BN goes down by one, and BSCAN and BCMP stop at a match or a difference with
BA and BB left at it (the V of that compare is the model's, log 37). With BN 0 nothing is done. REP repeats the element until BN
is 0 or BSCAN or BCMP stops: each of the nine completes over bytes that DRAM answers and words that cluster memory answers,
where no line is lost and the run is not preempted. -/
def Obligations.StringElementsMoveStopAndRepeat : Prop :=
  (∀ (s : State) (t : Nat) (cond : BitVec 4) (r : StrRun), issues s t cond → quiet s t → r.lost = none →
      let x := descAt s t
      let f : BitVec 5 → BitVec 5 → BitVec 11 → Rg := fun d a n => { t := t, cond := cond, rd := d, ra := a, rb := 0, fn := n }
      let spaceA := wQ x.ba
      let spaceB := wQ x.bb
      let offA := (wVal x.ba).toNat
      let offB := (wVal x.bb).toNat
      let moved : Desc → Nat → Nat → Desc := fun y a b =>
        { y with ba := mkW spaceA (wVal x.ba + BitVec.ofNat 32 a), bb := mkW spaceB (wVal x.bb + BitVec.ofNat 32 b), bn := x.bn - 1 }
      let good : BLoc → Nat → Prop := fun l n => l ≠ .fault ∧ l ≠ .denied ∧ l ≠ .space ∧ pendingUe s l n = false
      let src : Nat → BLoc → Prop := fun n l => spaceA ≠ 15 ∧ bLoc s t spaceA offA n .read = l ∧ good l n
      let src2 : BLoc → Prop := fun l => spaceB ≠ 15 ∧ bLoc s t spaceB offB 1 .read = l ∧ good l 1
      let dst : Nat → BLoc → Prop := fun n l =>
        spaceB ≠ 15 ∧ bLoc s t spaceB offB n .write = l ∧ l ≠ .fault ∧ l ≠ .denied ∧ l ≠ .space
      let wsrc : WLoc → Prop := fun l => spaceA = 15 ∧ wLoc s t (wVal x.ba) .read = l ∧ l ≠ .fault ∧ l ≠ .denied
      let wdst : WLoc → Prop := fun l => spaceB = 15 ∧ wLoc s t (wVal x.bb) .write = l ∧ l ≠ .fault ∧ l ≠ .denied
      let ends : Instr → State → Desc → Prop := fun i v y => ∃ u, exec i s = .next u ∧ onlyThread v u t (nextPc y)
      let none_ : Instr → Prop := fun i => x.bn = 0 → writesOnly i s t x
      (none_ (.imBmov (f 0 0 0) r) ∧ none_ (.imBfill (f 0 0 1) r) ∧ none_ (.imBscan (f 0 0 2) r) ∧ none_ (.imBcmp (f 0 0 3) r)
          ∧ none_ (.imWmov (f 0 0 4) r) ∧ none_ (.imQunpk (f 0 0 5) r) ∧ none_ (.imQpack (f 0 0 6) r)
          ∧ none_ (.imBcrc (f 0 0 7) r) ∧ none_ (.imBdgst (f 0 0 8) r))
        ∧ (x.bn ≠ 0 →
            (∀ l k, src 1 l → dst 1 k → ends (.imBmov (f 0 0 0) r) (bPut s t k (bGet s t l 1).1) (moved x 1 1))
              ∧ (∀ k a, dst 1 k →
                  ends (.imBfill (f 0 a 1) r) (bPut s t k [(wVal (gReg x a)).extractLsb' 0 8]) (moved x 0 1))
              ∧ (∀ l a, src 1 l → (bGet s t l 1).1 = [(wVal (gReg x a)).extractLsb' 0 8] →
                  ends (.imBscan (f 0 a 2) r) s { x with fl := setZ x.fl true })
              ∧ (∀ l a, src 1 l → (bGet s t l 1).1 ≠ [(wVal (gReg x a)).extractLsb' 0 8] → x.bn = 1 →
                  ends (.imBscan (f 0 a 2) r) s { moved x 1 0 with fl := setZ x.fl false })
              ∧ (∀ l k, src 1 l → src2 k → (bGet s t l 1).1 = (bGet s t k 1).1 → x.bn = 1 →
                  ends (.imBcmp (f 0 0 3) r) s { moved x 1 1 with fl := setZ x.fl true })
              ∧ (∀ l k, src 1 l → src2 k → (bGet s t l 1).1 ≠ (bGet s t k 1).1 →
                  ∃ fl', flZ fl' = false
                    ∧ flC fl' = decide (leNat (bGet s t k 1).1 ≤ leNat (bGet s t l 1).1)
                    ∧ ends (.imBcmp (f 0 0 3) r) s { x with fl := fl' })
              ∧ (∀ l k, wsrc l → wdst k →
                  ends (.imWmov (f 0 0 4) r) (writeLoc s k (readLoc s l)) (moved x 1 1))
              ∧ (∀ l k, src 5 l → wdst k →
                  ends (.imQunpk (f 0 0 5) r)
                    (writeLoc s k (mkW (if (bGet s t l 5).2 then 0xD else ((bGet s t l 5).1[4]?.getD 0).toNat % 16)
                      (BitVec.ofNat 32 (leNat ((bGet s t l 5).1.take 4))))) (moved x 5 1))
              ∧ (∀ l k, wsrc l → dst 5 k →
                  ends (.imQpack (f 0 0 6) r) (bPut s t k (leBytes (wVal (readLoc s l)).toNat 4 ++ [BitVec.ofNat 8 (wQ (readLoc s l))]))
                    (moved x 1 5))
              ∧ (∀ l d, src 1 l →
                  ends (.imBcrc (f d 0 7) r) s
                    (moved (setGReg x d (mkW 0 (BitVec.ofNat 32 (crc32cRun (wVal (gReg x d)).toNat (bGet s t l 1).1)))) 1 0))
              ∧ (∀ l m, src 1 l → msgOf s (.thread t) = some m → m.waiting = false →
                  ends (.imBdgst (f 0 0 8) r) (feedMsg s (.thread t) (bGet s t l 1).1) (moved x 1 0))))
    ∧ (∀ (s : State) (t : Nat) (cond : BitVec 4) (d a : BitVec 5) (n p q : Nat) (r : StrRun), issues s t cond → quiet s t →
        r.lost = none → (r.upTo = 0 ∨ n ≤ r.upTo) → (descAt s t).bn.toNat = n →
        let x := descAt s t
        let g : BitVec 5 → BitVec 5 → BitVec 11 → Rg := fun d a k =>
          { t := t, cond := cond, rd := d, ra := a, rb := 0, fn := 0x400 ||| k }
        let after : Nat → Nat → Desc := fun ka kb =>
          { x with ba := mkW (wQ x.ba) (wVal x.ba + BitVec.ofNat 32 (ka * n)), bb := mkW (wQ x.bb) (wVal x.bb + BitVec.ofNat 32 (kb * n))
                   bn := 0 }
        let apart : Nat → Nat → Prop := fun m k => p + m ≤ q ∨ q + k ≤ p
        let byte := (wVal (gReg x a)).extractLsb' 0 8
        (bytesAnswered s t x.ba .read 1 n p → bytesAnswered s t x.bb .write 1 n q →
            ∃ u, Sys2Proof.Machine.exec (.imBmov (g 0 0 0) r) s = .next u ∧ descAt u t = nextPc (after 1 1)
              ∧ (apart n n → u.drc.dram = memWrite s.drc.dram q (memRead s.drc.dram p n)))
          ∧ (bytesAnswered s t x.bb .write 1 n q →
            ∃ u, Sys2Proof.Machine.exec (.imBfill (g 0 a 1) r) s = .next u ∧ descAt u t = nextPc (after 0 1)
              ∧ u.drc.dram = memWrite s.drc.dram q (List.replicate n byte))
          ∧ (bytesAnswered s t x.ba .read 1 n p →
            ((∀ i, i < n → memByte s.drc.dram (p + i) ≠ byte) →
                ∃ u, Sys2Proof.Machine.exec (.imBscan (g 0 a 2) r) s = .next u
                  ∧ onlyThread s u t (nextPc { after 1 0 with fl := setZ x.fl false }))
              ∧ (∀ k, k < n → (∀ i, i < k → memByte s.drc.dram (p + i) ≠ byte) → memByte s.drc.dram (p + k) = byte →
                ∃ u, Sys2Proof.Machine.exec (.imBscan (g 0 a 2) r) s = .next u
                  ∧ onlyThread s u t (nextPc { x with
                      ba := mkW (wQ x.ba) (wVal x.ba + BitVec.ofNat 32 k), bn := x.bn - BitVec.ofNat 32 k, fl := setZ x.fl true })))
          ∧ (bytesAnswered s t x.ba .read 1 n p → bytesAnswered s t x.bb .read 1 n q →
            (∀ i, i < n → memByte s.drc.dram (p + i) = memByte s.drc.dram (q + i)) →
            ∃ u, Sys2Proof.Machine.exec (.imBcmp (g 0 0 3) r) s = .next u
              ∧ onlyThread s u t (nextPc { after 1 1 with fl := setZ x.fl true }))
          ∧ (wordsAnswered s t x.ba .read n p → wordsAnswered s t x.bb .write n q →
            ∃ u, Sys2Proof.Machine.exec (.imWmov (g 0 0 4) r) s = .next u ∧ descAt u t = nextPc (after 1 1)
              ∧ (apart n n → tabWf s.sch.cluster = true →
                  ∀ i, i < n → readLoc u (.cluster (q + i)) = readLoc s (.cluster (p + i))))
          ∧ (bytesAnswered s t x.ba .read 5 n p → wordsAnswered s t x.bb .write n q →
            ∃ u, Sys2Proof.Machine.exec (.imQunpk (g 0 0 5) r) s = .next u ∧ descAt u t = nextPc (after 5 1)
              ∧ (tabWf s.sch.cluster = true → ∀ i, i < n → readLoc u (.cluster (q + i))
                  = mkW ((memByte s.drc.dram (p + 5 * i + 4)).toNat % 16) (BitVec.ofNat 32 (leNat (memRead s.drc.dram (p + 5 * i) 4)))))
          ∧ (wordsAnswered s t x.ba .read n p → bytesAnswered s t x.bb .write 5 n q →
            ∃ u, Sys2Proof.Machine.exec (.imQpack (g 0 0 6) r) s = .next u ∧ descAt u t = nextPc (after 1 5)
              ∧ (Memory.wf s.drc.dram = true → ∀ i, i < n → memRead u.drc.dram (q + 5 * i) 5
                  = leBytes (wVal (readLoc s (.cluster (p + i)))).toNat 4 ++ [BitVec.ofNat 8 (wQ (readLoc s (.cluster (p + i))))]))
          ∧ (1 ≤ n → tabWf x.g = true → bytesAnswered s t x.ba .read 1 n p →
            ∃ u, Sys2Proof.Machine.exec (.imBcrc (g d 0 7) r) s = .next u
              ∧ onlyThread s u t (nextPc (setGReg (after 1 0) d
                  (mkW 0 (BitVec.ofNat 32 (crc32cRun (wVal (gReg x d)).toNat (memRead s.drc.dram p n)))))))
          ∧ (∀ m, msgOf s (.thread t) = some m → m.waiting = false → bytesAnswered s t x.ba .read 1 n p →
            ∃ u, Sys2Proof.Machine.exec (.imBdgst (g 0 0 8) r) s = .next u ∧ descAt u t = nextPc (after 1 0)
              ∧ msgOf u (.thread t)
                = some (if m.finished then m else { m with bytes := m.bytes ++ memRead s.drc.dram p n })))

/-- R466 to R468, R385, R391: the search and digest ports. SRCH gives the full index and Z = 0, or FFFF_FFFFh and Z = 1; SUPD
gives its RESULT with Z = 1 for 0h; the DG operations act on the thread's own message. -/
def Obligations.SearchAndDigestPortsAnswer : Prop :=
  ∀ (s : State) (t : Nat) (cond : BitVec 4), issues s t cond → quiet s t →
    let x := descAt s t
    let o := DgsOwner.thread t
    let f : BitVec 5 → BitVec 5 → BitVec 5 → BitVec 11 → Rg := fun d a b n =>
      { t := t, cond := cond, rd := d, ra := a, rb := b, fn := n }
    let ends : Instr → State → Desc → Prop := fun i v y => ∃ u, exec i s = .next u ∧ onlyThread v u t (nextPc y)
    let answer : BitVec 5 → Nat → Bool → Desc := fun d v z =>
      { setGReg x d (mkW 0 (BitVec.ofNat 32 v)) with fl := setZ x.fl z }
    (∀ d a b l (bad : SearchFaults), bLoc s t 0 (wVal (gReg x a)).toNat 18 .read = l →
        l ≠ .fault → l ≠ .denied → l ≠ .space → pendingUe s l 18 = false → servesTenant s x.tenant = true →
        let r := camLookup s x.tenant ((wVal (gReg x b)).toNat % 64) (bGet s t l 18).1 bad
        r.bad = false →
          (∀ h, r.index = some h → ∃ u, Sys2Proof.Machine.exec (.imSrch (f d a b 0) bad false) s = .next u
              ∧ onlyThread r.s u t (nextPc (answer d h false)))
            ∧ (r.index = none → ∃ u, Sys2Proof.Machine.exec (.imSrch (f d a b 0) bad false) s = .next u
              ∧ onlyThread r.s u t (nextPc (answer d 0xFFFFFFFF true))))
      ∧ (∀ d b ue, servesTenant s x.tenant = true →
          let r := camStep s (fun k => k == x.tenant) false 1 (wVal (gReg x b)).toNat (blockStaged [])
          (∃ u, Sys2Proof.Machine.exec (.imSupd (f d 0 b 1) ue) s = .next u
              ∧ onlyThread r.s u t (nextPc (answer d r.result (r.result == 0))))
            ∧ ends (.imSupd (f d 0 b 0) ue) (raise s evCam 4) (answer d 6 false))
      ∧ (∃ u, Sys2Proof.Machine.exec (.imDgStart (f 0 0 0 1)) s = .next u
          ∧ onlyThread (openMsg s o 0 0 x.tenant []) u t (nextPc x))
      ∧ (∃ u, Sys2Proof.Machine.exec (.imDgAbandon (f 0 0 0 4)) s = .next u ∧ onlyThread (closeMsg s o) u t (nextPc x))
      ∧ (∀ a b, ends (.imDgExpect (f 0 a b 6))
            (setExpect s o (overlayAt (expectOf s o) (4 * ((wVal (gReg x a)).toNat % 16)) (leBytes (wVal (gReg x b)).toNat 4))) x)
      ∧ (∀ d, ends (.imDgStatus (f d 0 0 7)) s
            (setGReg x d (mkW 0 (BitVec.ofNat 32 (dgsStatus s o + verdictOf s o * 65536)))))
      ∧ (∀ m, msgOf s o = some m →
          (∀ a, m.waiting = false → ∃ u, Sys2Proof.Machine.exec (.imDgUpdate (f 0 a 0 2)) s = .next u
                ∧ onlyThread (feedMsg s o (leBytes (wVal (gReg x a)).toNat 4)) u t (nextPc x))
            ∧ (∃ u, Sys2Proof.Machine.exec (.imDgFinish (f 0 0 0 3)) s = .next u
                ∧ onlyThread (finishMsg s o 0) u t (nextPc x))
            ∧ (∀ d a, m.done = true → ∃ u, Sys2Proof.Machine.exec (.imDgResult (f d a 0 5)) s = .next u
                ∧ onlyThread s u t (nextPc (setGReg x d (mkW 0 (BitVec.ofNat 32 (leNat (sliceOf m.result (4 * ((wVal (gReg x a)).toNat % 16)) 4))))))))
      ∧ (msgOf s o = none →
          exec (.imDgFinish (f 0 0 0 3)) s = .next (takeExc s t 0x06 none x.pc)
            ∧ ∀ a, exec (.imDgUpdate (f 0 a 0 2)) s = .next (takeExc s t 0x06 none x.pc))

/-! ### Registers -/

/-- R73, R74, R75: the RSQ rules. Bits set together take one number, the next of SEQ; a write of the SEQ just read clears every
set bit; a write clears no bit whose number is after it, and all at or before it. -/
def Obligations.SequenceNumbersDecideWhatAClearClears : Prop :=
  ∀ (r : Rsq), tabWf r.bits = true → (∀ e ∈ r.bits, (r.seq - e.2).toNat < 128) →
    (rsqClear r r.seq).bits = []
      ∧ (∀ n, (rsqClear r n).seq = r.seq
          ∧ (∀ e, e ∈ (rsqClear r n).bits ↔ e ∈ r.bits ∧ 128 ≤ (n - e.2).toNat))
      ∧ (∀ bs, let t := rsqSet r bs
          t.seq = r.seq + 1
            ∧ (∀ b ∈ bs, tabGet t.bits b = some t.seq)
            ∧ (∀ b, b ∉ bs → tabGet t.bits b =
                (tabGet r.bits b).map (fun q => if (r.seq + 1 - q).toNat < 128 then q else r.seq + 1 - 127))
            ∧ tabWf t.bits = true ∧ (∀ e ∈ t.bits, (t.seq - e.2).toNat < 128))

/-- R74, R77, R78, R82: writes of the classes RSQ and RWB that arrive with the root free, and reads of an RW, RWB or RWG
register. An RSQ write clears by its SEQ; an RWB write waits, the last of one register alone, and the active value stays.
R77, R79, R69: at a boundary every write that waits for the block applies, nothing of it waits any more, and APPLY_COUNT goes
up by one; a boundary with nothing waiting, or of a stopped island, changes nothing. Stated for the THM, PCS, FTL, HIF,
CHN, FLN, CDC, CRY and CAS blocks, whose registers apply as written. -/
def Obligations.BufferedWritesWaitAndABoundaryAppliesThem : Prop :=
  (∀ (s : State) (p : Path) (off : Nat) (v : Dword) (d : RegDesc), rootFree s p → reaches s p off d →
      (off < 0x100000 → guardOf s p = none) →
      (d.cls = .rsq → exec (.rsqClearWrite p off v) s = .next
          { s with bus := { s.bus with rsq := tabUpd {} s.bus.rsq off (fun r => rsqClear r (v.extractLsb' 24 8)) } })
        ∧ (d.cls = .rwb → v.toNat &&& keepMask d = 0 →
            ∃ u, exec (.rwbWrite p off v) s = .next u
              ∧ (∀ k, regAt u k = regAt s k)
              ∧ pendOf u off = some { off := off, val := v, path := p, mark := boundaryMark s off }
              ∧ (∀ o, o ≠ off → pendOf u o = pendOf s o)
              ∧ u = { s with bus := { s.bus with rwb := u.bus.rwb } })
        ∧ (d.cls = .rwb → v.toNat &&& keepMask d ≠ 0 →
            ∃ u, exec (.rwbWrite p off v) s = .next u
              ∧ pendOf u off = some { off := off, val := v, path := p, mark := boundaryMark s off }
              ∧ rsqAt u evAccess = rsqSet (rsqAt s evAccess) [2]))
    ∧ (∀ (s : State) (block : Nat),
        block ∈ [0x200000, 0xA00000, 0xC00000, 0x1000000, 0x1200000, 0x1400000, 0x1600000, 0x1A00000, 0x2000000] →
        let mine : RwbPend → Bool := fun w => ((regDesc w.off).map (·.block)) == some block
        let ws := s.bus.rwb.filter mine
        let running := ws.all (fun w => ((regDesc w.off).map (fun d => clockRuns s d.island)).getD false)
        (ws = [] ∨ running = false → exec (.rwbBoundaryApply block) s = .next s)
          ∧ (ws ≠ [] → running = true → tabWf s.bus.active = true →
              ∃ u, exec (.rwbBoundaryApply block) s = .next u
                ∧ (∀ w ∈ ws, regAt u w.off = nextVal s w.off)
                ∧ (∀ k, (∀ w ∈ ws, w.off ≠ k) → regAt u k = regAt s k)
                ∧ u.bus.rwb = s.bus.rwb.filter (fun w => !mine w)
                ∧ applyCountOf u block = applyCountOf s block + 1
                ∧ (∀ b, b ≠ block → applyCountOf u b = applyCountOf s b)))

/-- R81, R82, R83 and *Global registers*: the guard sequence of GLB_RESET_CTL (40h, complement at 44h). A first write waits on
its path and changes no active value; the exact complement in time commits it; each failure discards what waits, leaves the
active value, sets its bit of GLB_GUARD_STATUS and GLB_GUARD_ADDR. -/
def Obligations.GuardSequencesCommitOrFail : Prop :=
  ∀ (s : State) (p : Path) (v : Dword), rootFree s p → tabWf s.bus.guards = true →
    let t := busTime s p
    let first : GuardPend := { off := 0x40, val := v, at_ := t }
    let fails : Nat → State := fun bit => eventAt (dropGuard s p) evGuard 0x54 [bit] p 0x40
    (guardOf s p = none →
        exec (.rwgFirstWrite p 0x40 v) s = .next
          { s with bus := { s.bus with guards := tabPut s.bus.guards (pathNo p) first } }
        ∧ exec (.rwgComplementWrite p 0x44 v) s = .next (fails 3))
      ∧ (∀ g : GuardPend, guardOf s p = some g → g.off = 0x40 →
          (t ≤ g.at_ + 1000 →
            exec (.rwgFirstWrite p 0x40 v) s = .next
                { fails 2 with bus := { (fails 2).bus with guards := tabPut (fails 2).bus.guards (pathNo p) first } }
              ∧ (v ≠ ~~~g.val → exec (.rwgComplementWrite p 0x44 v) s = .next (fails 0))
              ∧ (v = ~~~g.val → 3 ≤ g.val.toNat % 16 → exec (.rwgComplementWrite p 0x44 v) s = .next (fails 4))
              ∧ (v = ~~~g.val → g.val.toNat < 3 →
                  ∃ u, exec (.rwgComplementWrite p 0x44 v) s = .next u ∧ guardOf u p = none
                    ∧ (tabWf s.bus.active = true → regAt u 0x40 = (regAt s 0x40 &&& 0xFFFFFFF0) ||| g.val)
                    ∧ (∀ k, k ≠ 0x40 → regAt u k = regAt s k) ∧ (∀ o, rsqAt u o = rsqAt s o))
              ∧ exec (.rwgGuardTimeout p) s = .next s)
            ∧ (g.at_ + 1000 < t →
                exec (.rwgGuardTimeout p) s = .next (fails 1)
                  ∧ exec (.rwgFirstWrite p 0x40 v) s = .next
                      { fails 1 with bus := { (fails 1).bus with guards := tabPut (fails 1).bus.guards (pathNo p) first } }))

/-- R60, R61, R66, R67, R68, R71, R72: accesses that arrive with the root free and no guard sequence pending. A discarded write and
one to no register change no value and set their bit of GLB_ACCESS_STATUS with GLB_ACCESS_ADDR; a discarded read returns 0 besides; a
write to an RW register in the host island takes effect at once, with the bits outside its fields kept; a write to an RO register has
no effect; an access to another island waits for it. -/
def Obligations.RegisterWritesActByClassAndAlignment : Prop :=
  ∀ (s : State) (p : Path) (off : Nat) (v : Dword), rootFree s p → guardOf s p = none →
    let w : RegAccess := { path := p, off := off, size := .dword, be := 0xF, wr := some (v.setWidth 64) }
    let fails : Nat → Prop := fun bit => exec (.registerWrite w) s = .next (eventAt s evAccess 0x64 [bit] p off)
    (∀ a : RegAccess, a.path = p → a.off = off →
        ((a.size = .dword ∧ (off % 4 ≠ 0 ∨ (a.wr.isSome = true ∧ a.be.toNat % 16 ≠ 15)))
          ∨ (a.size = .qword ∧ (off % 8 ≠ 0 ∨ (a.wr.isSome = true ∧ a.be ≠ 0xFF))) ∨ a.size = .other) →
        (a.wr.isSome = true → exec (.registerWrite a) s = .next (eventAt s evAccess 0x64 [1] p off))
          ∧ (a.wr = none → exec (.registerWrite a) s = .next (eventAt (answerRead s p 0) evAccess 0x64 [1] p off)))
      ∧ (off % 4 = 0 →
          (0x1B00000 ≤ off → off < 0x1C00000 → p ≠ .keeper → fails 3)
            ∧ (0x2200000 ≤ off → off < 0x2400000 → dbgOpen s = false → fails 4)
            ∧ (accessFault s p off = some 0 → fails 0)
            ∧ (∀ d, reaches s p off d → d.x = false → d.cls = .rw → d.perPath = false → isKept off = false →
                v.toNat &&& keepMask d = 0 →
                ∃ u, exec (.registerWrite w) s = .next u
                  ∧ (tabWf s.bus.active = true → regAt u off = (v &&& BitVec.ofNat 32 d.mask) ||| (regAt s off &&& ~~~BitVec.ofNat 32 d.mask))
                  ∧ (∀ k, k ≠ off → regAt u k = regAt s k) ∧ (∀ o, rsqAt u o = rsqAt s o))
            ∧ (∀ d, reaches s p off d → d.x = false → d.cls = .ro → v.toNat &&& keepMask d = 0 →
                exec (.registerWrite w) s = .next s)
            ∧ (∀ d, reaches s p off d → d.x = true →
                exec (.registerWrite w) s = .next
                  (setWaiting s p [{ arriving s p off (some v) with start := some (islandTime s isHost) }])))

/-- R60, R62, R63, R64, R84, R85: reads, and accesses to registers of other islands. A read answers the register's value and changes
no register; the low half of a pair latches the high half for the path, which a read of the high half returns, and a qword read
answers both; an access whose island stands still for 2 µs ends with its bit of GLB_XERR and GLB_XERR_ADDR, and before that nothing
ends it. -/
def Obligations.ReadsPairsAndCrossingAccesses : Prop :=
  ∀ (s : State) (p : Path) (off : Nat) (d : RegDesc), clockRuns s isHost = true → off % 4 = 0 → regDesc off = some d →
      accessFault s p off = none → lateOn s p = [] →
    let key := pathNo p
    let read : Instr := .registerWrite { path := p, off := off, size := .dword, be := 0xF, wr := none }
    let done : Option Dword → Instr := fun wr => .xregAccessComplete { path := p, off := off, wr := wr }
    let unchanged : State → Prop := fun u =>
      u = { s with bus := { s.bus with readData := u.bus.readData, shadow := u.bus.shadow } }
    let answered : State → Prop := fun u => unchanged u
      ∧ (isHiHalf off = true →
          tabGet u.bus.readData key = some ((tabAt 0 s.bus.shadow key).setWidth 64) ∧ u.bus.shadow = s.bus.shadow)
      ∧ (isHiHalf off = false → tabGet u.bus.readData key = some ((readReg s p d off).setWidth 64))
      ∧ (∀ h, isHiHalf off = false → isLoHalf off = true → regDesc (off + 4) = some h →
          tabGet u.bus.shadow key = some (readReg s p h (off + 4))
            ∧ (∀ q, pathNo q ≠ key → tabGet u.bus.shadow (pathNo q) = tabGet s.bus.shadow (pathNo q)))
    (tabGet s.bus.waiting key = none → clockRuns s d.island = true → (d.block ≠ 0x1A00000 ∨ isHiHalf off = true) →
        (d.x = false → ∃ u, exec read s = .next u ∧ answered u)
          ∧ (d.x = true →
              let go := setWaiting s p [{ arriving s p off none with start := some (islandTime s isHost) }]
              exec read s = .next go ∧ ∃ u, exec (done none) go = .next u ∧ answered u)
          ∧ (isLoHalf off = true → isHiHalf off = false → ∃ u, exec (.pairLoRead p ⟨off, .dword⟩) s = .next u ∧ answered u)
          ∧ (∀ h, isLoHalf off = true → isHiHalf off = false → off % 8 = 0 → regDesc (off + 4) = some h → h.island = d.island →
              isHiHalf (off + 4) = true → accessFault s p (off + 4) = none →
              ∃ u, exec (.pairLoRead p ⟨off, .qword⟩) s = .next u ∧ unchanged u
                ∧ tabGet u.bus.readData key = some (readReg s p h (off + 4) ++ readReg s p d off)))
      ∧ (∀ t, inProgress s p off none t →
          (t + 2000 ≤ islandTime s isHost → clockRuns s d.island = false →
              exec (.xregReadTimeout p off) s = .next
                (eventAt (answerRead (setWaiting s p []) p 0xFFFFFFFF) evXerr 0x5C [0] p off))
            ∧ (islandTime s isHost < t + 2000 ∨ clockRuns s d.island = true → exec (.xregReadTimeout p off) s = .next s))
      ∧ (∀ t v, inProgress s p off (some v) t →
          (t + 2000 ≤ islandTime s isHost → clockRuns s d.island = false →
              exec (.xregWriteDropped p off) s = .next (eventAt (setWaiting s p []) evXerr 0x5C [1] p off))
            ∧ (islandTime s isHost < t + 2000 ∨ clockRuns s d.island = true → exec (.xregWriteDropped p off) s = .next s)
            ∧ (clockRuns s d.island = true → d.cls = .rw → d.perPath = false → isKept off = false → off ≠ 0x1C00034 →
                v.toNat &&& keepMask d = 0 → 0x100000 ≤ off → tabWf s.bus.active = true →
                ∃ u, exec (done (some v)) s = .next u ∧ waitingOn u p = []
                  ∧ regAt u off = (v &&& BitVec.ofNat 32 d.mask) ||| (regAt s off &&& ~~~BitVec.ofNat 32 d.mask)
                  ∧ (∀ k, k ≠ off → regAt u k = regAt s k)))

/-! ### Time, power, resets, start -/

/-- R16, R17, R18, R20, R21, R274, R595: the time rows. On an empty queue a step is one advance of the counter (log 2): one
tick, or one CLK32K cycle of 30,517 or 30,518 ticks. Corrections never set the counter back. -/
def Obligations.TimebaseAdvancesAndIsCorrected : Prop :=
  ∀ s : State,
    let t := s.time
    (s.pending = [] → s.power.aonOk = true → now s + 40000 < 2 ^ 64 →
        (t.refclk = true → t.slew = 0 → ∃ u, step s = .next u ∧ now u = now s + 1 ∧ u = { s with time := u.time })
          ∧ (t.refclk = false → ∃ u, step s = .next u ∧ u = { s with time := u.time }
              ∧ 64 * now u + u.time.frac.toNat = 64 * now s + t.frac.toNat + 64 * 30517 + 37))
      ∧ (s.pending = [] → s.power.aonOk = false → step s = .next s)
      ∧ (∀ b, exec (.refclkSysLoss b) s = .next { s with time := { t with refclk := b } })
      ∧ (∀ i (v : Qword), i < 178 → clockRuns s i = true → tabGet t.stopAt i = none → tabWf t.copyOff = true → 2 ≤ now s →
          ∃ u, exec (.islandTimeCorrection i v) s = .next u ∧ now u = now s
            ∧ (islandTime u i : Int) = Max.max ((now s : Int) - 2) (Min.min ((now s : Int) + 2) v.toNat)
            ∧ (∀ j, j ≠ i → islandTime u j = islandTime s j) ∧ u = { s with time := u.time })
      ∧ (∀ h : Qword, s.power.pwrOk = true → isDue s t.ptmAt (ptmPeriod s) = true →
          ∃ u, exec (.ptmExchange h) s = .next u ∧ now s ≤ now u ∧ u.time.ptmValid = true
            ∧ u.time.ptmOffset = (now s : Int) - (h.toNat : Int)
            ∧ (ptmAligns s = true → t.aligned = false → now s < h.toNat →
                now u = h.toNat ∧ u.time.slew = 0
                  ∧ (t.stepped = false → rsqAt u evHif = rsqSet (rsqAt s evHif) [3]))
            ∧ (ptmAligns s = true → t.aligned = true →
                now u = now s ∧ u.time.slew = (h.toNat : Int) - (now s : Int))
            ∧ (ptmAligns s = false → now u = now s ∧ u.time.slew = t.slew))
      ∧ (s.power.pwrOk = true → Nat.max t.ptmAt s.power.startAt + 10 * ptmPeriod s ≤ now s →
          exec .ptmLost s = .next (raise { s with time := { t with ptmValid := false } } evHif 4))
      ∧ (s.power.pwrOk = false → ∃ u, exec .aonTimebaseLoss s = .next u ∧ u.time.aonLost = true)
      ∧ exec .vaonRamp s = .next { s with power := { s.power with aonOk := true } }

/-- R20, R30, R39, R79, R86, R225, R228, R596, R597 and *Global registers*: PWR_OK and device resets. A low pulse shorter than
1 µs does nothing, one of 10 µs or more leaves the cold state; a rise and a device reset begin stage 0 with the cause coded in
GLB_RESET_CAUSE.
R86, R239, R241, R270, R40, R79: controllers enabled, reset and shut down. A reset gives up the functions' commands and
queues, then work that waited for them goes on (`resumeJobs`, `resumeCmds`). -/
def Obligations.DeviceAndControllerResets : Prop :=
  (∀ s : State,
      let starts : State → Nat → Prop := fun u cause =>
        coldFacts s u ∧ u.power.pwrOk = true ∧ u.power.stage = some 0 ∧ u.power.cause.toNat = cause ∧ u.power.fence = true
          ∧ u.power.started = false ∧ u.power.unclean = (s.power.ranBefore && !s.power.cleanRecord)
          ∧ u.power.readyDeadline = u.power.startAt + 1000000000
          ∧ (s.time.aonLost = false → now u = now s)
          ∧ (s.time.aonLost = true → latestTime s + 1000000000 < 2 ^ 64 → now u = latestTime s + 1000000000)
      (∀ role vio, s.power.pwrOk = false →
          ∃ u, exec (.pwrOkRise ⟨role, vio⟩) s = .next u ∧ starts u 0 ∧ u.power.casRole = role ∧ u.power.vioHigh = vio)
        ∧ (∀ ns, ns < 1000 → exec (.pwrOkFall ns) s = .next s)
        ∧ (∀ ns, s.power.pwrOk = true → 10000 ≤ ns →
            ∃ u, exec (.pwrOkFall ns) s = .next u ∧ coldFacts s u ∧ u.power.pwrOk = false ∧ now u = now s)
        ∧ (regFld s 0x40 0 4 = 2 → ∃ u, exec .deviceReset s = .next u ∧ starts u 2 ∧ regFld u 0x40 0 4 = 0)
        ∧ (s.power.pwrOk = true → s.power.shutdown = false → ∃ u, exec .keeperWatchdog s = .next u ∧ starts u 4)
        ∧ (regFld s 0x40 0 4 ≠ 2 → exec .deviceReset s = .next s))
    ∧ (∀ (s : State) (fn : Nat),
        let resets : State → (Nat → Bool) → Prop := fun u p =>
          ∃ v, u = resumeJobs (resumeCmds v) ∧ controllersReset v p ∧ v.bus.rwb = []
        (∃ w u, exec .nvmSubsystemReset s = .next u ∧ resets w (fun _ => true)
              ∧ u = { w with power := { w.power with cause := 5 } })
          ∧ (regFld s 0x40 0 4 = 1 →
              ∃ w u, exec .controllerReset s = .next u ∧ resets w (fun _ => true)
                ∧ u = { w with power := { w.power with cause := 5 } })
          ∧ ((ctrlAt s fn).en = true → ∃ u, exec (.ccEnClear fn) s = .next u ∧ resets u (fun f => f == fn))
          ∧ (isPhysical s fn = false →
              ∃ u, exec (.functionLevelReset fn) s = .next (raise u evHif 6) ∧ resets u (fun f => f == fn))
          ∧ (isPhysical s fn = true →
              ∃ u, exec (.functionLevelReset fn) s = .next u ∧ rsqAt u evHif = rsqSet (rsqAt (resetPort s (fnPort s fn)) evHif) [6]
                ∧ (tabAt ({} : Port) u.host.ports (fnPort s fn)).vfEnable = false)
          ∧ (fn < portCount s → s.power.perstN = false →
              ∃ u, exec (.pcieHotReset fn) s = .next u ∧ (tabAt ({} : Port) u.host.ports fn).speed = 0
                ∧ rsqAt u evHif = rsqSet (rsqAt (dropLink (resetPort s fn) fn) evHif) [5])
          ∧ ((ctrlAt s fn).en = false → mayEnable s fn = true → s.power.noImage = false → s.power.pwrOk = true →
              fnPort s fn < portCount s →
              ∃ u, exec (.ccEnSet fn) s = .next u ∧ (ctrlAt u fn).en = true ∧ (ctrlAt u fn).rdy = s.power.started
                ∧ (tabGet (ctrlAt u fn).sqs 0).isSome = true ∧ (tabGet (ctrlAt u fn).cqs 0).isSome = true
                ∧ (∀ g, g ≠ fn → ctrlAt u g = ctrlAt s g) ∧ u = { s with host := { s.host with ctrls := u.host.ctrls } })
          ∧ ((ctrlAt s fn).en = true → (ctrlAt s fn).shn = false →
              ∃ u, exec (.shutdownRequest fn) s = .next u
                ∧ ctrlAt u fn = { ctrlAt s fn with shn := true, shst := 1 } ∧ (∀ g, g ≠ fn → ctrlAt u g = ctrlAt s g))
          ∧ ((ctrlAt s fn).shn = true → (ctrlAt s fn).shst = 1 → (∀ e ∈ s.host.exec, e.cmd.id.fn = fn → e.cmd.id ∈ (ctrlAt s fn).aers) →
              let last := ∀ e ∈ s.host.ctrls, e.1 = fn ∨ e.2.en = false ∨ e.2.shst = 2
              let ends : Bool → Prop := fun clean =>
                ∃ u, exec (.shutdownComplete fn) s = .next u ∧ (ctrlAt u fn).shst = 2 ∧ u.power.cleanRecord = clean
              (¬ last → ends s.power.cleanRecord)
                ∧ (last → canRecord s = true → s.etch.lost0 = false ∧ s.etch.lost1 = false → ends true)
                ∧ (last → canRecord s = true → s.etch.shutRoot = true → s.etch.cpOpen = none → ends true)
                ∧ (last → etchGone s = true ∨ s.power.settingsRecovery = true → ends s.power.cleanRecord)))

/-- R222 to R225, R239, R240, R266 to R269, R584, R600: PERST_N, the Etch fence and the power states. -/
def Obligations.FencePerstAndPowerStates : Prop :=
  ∀ s : State,
    (s.power.perstN = true →
        ∃ u, exec .perstNAssert s = .next u ∧ u.power.perstN = false
          ∧ (∀ p, p < portCount s → (tabAt ({} : Port) u.host.ports p).speed = 0 ∧ (tabAt ({} : Port) u.host.ports p).vfEnable = false))
      ∧ (s.power.perstN = false →
          ∃ u, exec .perstNDeassert s = .next u ∧ u.power.perstN = true ∧ u.power.wakeN = false
            ∧ (s.power.started = true → u.power.cause = 1)
            ∧ s.power.readyDeadline ≤ u.power.readyDeadline)
      ∧ (∀ r, s.power.fence = false → s.power.pwrOk = true → s.power.shutdown = false →
          ∃ u, exec (.etchFenceRaise r) s = .next u ∧ u.power.fence = true ∧ u.power.fenceRails = r ∧ u.power.wpg = 0
            ∧ u.power.stage = none ∧ u.power.fenceCount = Nat.min 65535 (s.power.fenceCount + 1)
            ∧ u.power.abandoned = (s.power.abandoned || s.power.stage.isSome))
      ∧ (∀ r, s.power.fence = true → s.power.pwrOk = true → s.power.shutdown = false →
          exec (.etchFenceRaise r) s = .next { s with power := { s.power with fenceAt := now s } })
      ∧ (now s < s.power.fenceAt + fenceHold s → exec .etchFenceLower s = .next s)
      ∧ (s.power.fence = true → s.power.pwrOk = true → s.power.shutdown = false → s.power.fenceAt + fenceHold s ≤ now s →
          ∃ v, exec .etchFenceLower s = .next (resumeJobs (resumeCmds v)) ∧ v.power.fence = false
            ∧ rsqAt v evEtb = rsqSet (rsqAt s evEtb) [1]
            ∧ (s.power.abandoned = true → s.cas.roleCode ≠ 3 →
                (bootEnded s = true → v.power.stage = some 1) ∧ (bootEnded s = false → v.power.stage = some 0)
                  ∧ v.power.startAt = now s ∧ v.power.readyDeadline = now s + againWithin s * 1000000)
            ∧ (mediaUp s = true → s.power.abandoned = false → v.power.wpg = 0xFF))
      ∧ (s.power.changing = true → jobsWait s s.power.ptarget = false → s.host.exec.any (·.isIo) = false →
          ∃ u, exec .powerStateEntry s = .next u ∧ u.power.pstate = s.power.ptarget ∧ u.power.changing = false
            ∧ (s.power.ptarget = 4 → u.power.mediaPwrEn = false ∧ u.power.wpg = 0)
            ∧ (3 ≤ s.power.ptarget → ∀ l ∈ u.cas.links, l.2.st ≠ 2))
      ∧ (s.power.changing = false → exec .powerStateEntry s = .next s)
      ∧ (s.power.bringUp = true → s.power.started = true → s.power.pstate ≠ 4 → s.power.mediaAt + 5000000 ≤ now s →
          ∃ u, exec (.ps4ExitMediaBringUp []) s = .next u ∧ u.power.bringUp = false
            ∧ u.power.wpg = (if u.power.fence then 0 else 0xFF))

/-- R228, R229, R40, R45, R219, R230: the start stages. A finding of a stage that does not run changes nothing; each end leads
to the next stage, and stage 7 makes the device ready. -/
def Obligations.StartStagesFollowInOrder : Prop :=
  ∀ (s : State) (n : Nat),
    (∀ f, stageOfFinding s f = none → exec (.startStageEnd n f) s = .next s)
      ∧ (s.power.stage = some 7 →
          ∃ u, exec (.startStageEnd n .init) s = .next u ∧ u.power.stage = none ∧ u.power.started = true
            ∧ u.power.ready = !s.power.settingsRecovery ∧ u.power.firstStart = false
            ∧ (∀ e ∈ u.host.ctrls, e.2.rdy = e.2.en))
      ∧ (s.power.stage = some 0 →
          (∀ a b t, ∃ u, exec (.startStageEnd n (.boot false false a b t)) s = .next u ∧ u.power.stage = none ∧ u.power.noImage = true)
            ∧ (s.etch.setA.ok = true → s.etch.setB.ok = true → etchGone s = false → s.etch.setB.seq ≤ s.etch.setA.seq →
                ∀ t, ∃ u, exec (.startStageEnd n (.boot true true true true t)) s = .next u ∧ u.power.stage = some 1
                  ∧ u.etch.setActive = false ∧ u.etch.setSeq = s.etch.setA.seq
                  ∧ u.ftl.namespaces = s.etch.setA.body.namespaces ∧ u.tenants.recs = s.etch.setA.body.tenants
                  ∧ u.cry.slots = s.etch.setA.body.keys ∧ u.pcs.marks = s.etch.setA.body.marks))
      ∧ (s.power.stage = some 1 → ∀ m,
          ∃ u, exec (.startStageEnd n (.plls m)) s = .next u ∧ u.power.stage = some 2 ∧ u.cas.opened = true
            ∧ (n ≤ 100 → rsqAt u evEtb = rsqAt s evEtb)
            ∧ (100 < n → rsqAt u evEtb = rsqSet (rsqAt s evEtb) [6]))
      ∧ (s.power.stage = some 2 → ∃ u, exec (.startStageEnd n (.dram [])) s = .next u ∧ u.power.stage = none
            ∧ u.power.noImage = true)
      ∧ (s.power.stage = some 3 → ∀ l, ∃ u, exec (.startStageEnd n (.checkers l)) s = .next u
            ∧ u.power.stage = some (if s.power.earlyMedia then 5 else 4) ∧ u.power.tested = true)
      ∧ (s.power.stage = some 4 → ∀ l a m, ∃ u, exec (.startStageEnd n (.media l a m)) s = .next u ∧ u.power.stage = some 5)
      ∧ (s.power.stage = some 5 → ∀ b, ∃ u, exec (.startStageEnd n (.replay b)) s = .next u ∧ u.power.stage = some 6)
      ∧ (s.power.stage = some 6 → ∀ a b x y, ∃ u, exec (.startStageEnd n (.root a b x y)) s = .next u ∧ u.power.stage = some 7)

/-! ### Media, page code, scrub -/

/-- R93, R105, R106, R107, R109, R111, R112, R113, R122: training, the eye monitor, retraining and pin tests of a channel. An eye
not given reaches the floor. -/
def Obligations.TrainingEyesAndPinTests : Prop :=
  ∀ (s : State) (ch : Nat), ch < 128 → tabWf s.bus.active = true →
    let c := chanAt s ch
    let base := 0x800000 + ch * 0x1000
    let others : State → Prop := fun u => ∀ k, k ≠ ch → chanAt u k = chanAt s k
    let onlyChan : State → Prop := fun u => others u ∧ u = { s with media := { s.media with chans := u.media.chans } }
    let onlyRegs : State → List Nat → Prop := fun u ks => ∀ k, k ∉ ks → regAt u k = regAt s k
    (c.background = true →
        (∀ r, ∃ u, exec (.channelBackgroundTrainEnd ⟨ch, some r⟩) s = .next u ∧ (chanAt u ch).st = chanActive
          ∧ (chanAt u ch).background = false ∧ (chanAt u ch).trained = (if c.trained < r then c.trained else r)
          ∧ (chanAt u ch).rate.toNat ≤ r.toNat ∧ others u ∧ u.etch.wanted.isSome = true)
        ∧ ∃ u, exec (.channelBackgroundTrainEnd ⟨ch, none⟩) s = .next u ∧ (chanAt u ch).st = chanFenced)
      ∧ (c.st = chanActive → isDue s c.eyeAt (eyePeriod s ch) = true → ∀ margin pin die, margin < 256 → pin < 32 → die < 16 →
          ∃ u, exec (.eyeSample ch margin pin die) s = .next u
            ∧ regFld u (base + 0x10) 0 8 = margin ∧ regFld u (base + 0x10) 8 5 = pin ∧ regFld u (base + 0x10) 16 4 = die
            ∧ regFld u (base + 0x10) 24 8 = regFld s (base + 0x10) 24 8 ∧ onlyRegs u [base + 0x10] ∧ others u
            ∧ (retrainPct s ch ≤ margin → (chanAt u ch).low = 0 ∧ (chanAt u ch).due = c.due)
            ∧ (margin < retrainPct s ch →
                (c.low = 2 → (chanAt u ch).due = true)
                  ∧ (c.low < 2 → (chanAt u ch).low = c.low + 1 ∧ (chanAt u ch).due = c.due)))
      ∧ (c.due = true → c.st = chanActive → c.holder = none → c.pinRunning = false → (∀ e ∈ s.media.chans, e.2.st ≠ chanRetraining) →
          ∃ u, exec (.retrainStart ch) s = .next u ∧ (chanAt u ch).st = chanRetraining ∧ (chanAt u ch).due = false
            ∧ (chanAt u ch).holder = none ∧ onlyChan u)
      ∧ ((∃ e ∈ s.media.chans, e.2.st = chanRetraining) → exec (.retrainStart ch) s = .next s)
      ∧ (c.st = chanRetraining → ∀ eyes : List Nat,
          (∀ e ∈ eyes.head?, floorPct s ch ≤ e) →
            ∃ u, exec (.retrainEnd ch eyes) s = .next u ∧ (chanAt u ch).st = chanActive ∧ (chanAt u ch).low = 0
              ∧ (chanAt u ch).pinRunning = c.pinDue ∧ (chanAt u ch).pinDue = false ∧ others u
              ∧ regFld u (base + 0x10) 24 8 = Nat.min 255 (regFld s (base + 0x10) 24 8 + 1)
              ∧ onlyRegs u [base + 0x10]
              ∧ rsqAt u (evMed ch) = rsqSet (rsqAt s (evMed ch)) [3] ∧ u.etch.wanted.isSome = true)
      ∧ (c.st = chanRetraining → ∀ e, e < floorPct s ch →
          (c.rate = 0 → ∃ u, exec (.retrainEnd ch [e]) s = .next u ∧ (chanAt u ch).st = chanFenced)
            ∧ (c.rate ≠ 0 → ∃ u, exec (.retrainEnd ch [e]) s = .next u ∧ (chanAt u ch).st = chanActive
                ∧ (chanAt u ch).trained = c.rate - 1 ∧ (chanAt u ch).rate.toNat < c.rate.toNat
                ∧ rsqAt u (evMed ch) = rsqSet (rsqSet (rsqAt s (evMed ch)) [3]) [4]))
      ∧ (regFld s (base + 8) 8 1 = 1 → c.pinAt + pinInterval s ch ≤ now s → c.pinRunning = false →
          (c.st = chanActive → c.holder = none →
              ∃ u, exec (.pintestDue ch) s = .next u ∧ (chanAt u ch).pinRunning = true ∧ (chanAt u ch).pinAt = now s ∧ onlyChan u)
            ∧ (c.st = chanRetraining ∨ (c.st = chanActive ∧ c.holder ≠ none) →
                ∃ u, exec (.pintestDue ch) s = .next u ∧ (chanAt u ch).pinDue = true ∧ onlyChan u))
      ∧ (regFld s (base + 8) 8 1 = 0 ∨ now s < c.pinAt + pinInterval s ch → exec (.pintestDue ch) s = .next s)
      ∧ (c.pinRunning = true → ∀ (cls : BitVec 4) (pin other : BitVec 5),
          let known : Prop := ∃ f ∈ s.media.faults, f.chan = ch ∧ f.kind = 0x16 ∧ f.fresh = true
          (∃ u, exec (.pintestEnd ch cls pin other) s = .next u ∧ (chanAt u ch).pinRunning = false
              ∧ regFld u (base + 0x20) 0 4 = cls.toNat
              ∧ regFld u (base + 0x20) 4 5 = pin.toNat ∧ regFld u (base + 0x20) 9 5 = (if cls = 1 then other.toNat else 0)
              ∧ onlyRegs u [base + 0x20])
            ∧ (cls = 0 ∨ 8 ≤ cls.toNat ∨ (cls = 7 ∧ known) →
                ∃ u, exec (.pintestEnd ch cls pin other) s = .next u ∧ (chanAt u ch).st = c.st
                  ∧ (∀ o, rsqAt u o = rsqAt s o) ∧ u.media.faults = s.media.faults)
            ∧ (cls = 7 → ¬ known →
                ∃ u, exec (.pintestEnd ch cls pin other) s = .next u ∧ (chanAt u ch).st = c.st ∧ u.etch.wanted.isSome = true
                  ∧ rsqAt u (evMed ch) = rsqSet (rsqAt s (evMed ch)) [2]
                  ∧ ∃ e ∈ u.media.faults, e.chan = ch ∧ e.kind = 0x16 ∧ e.pin = pin.toNat ∧ e.st = 0)
            ∧ (1 ≤ cls.toNat → cls.toNat ≤ 6 →
                ∃ u, exec (.pintestEnd ch cls pin other) s = .next u ∧ (chanAt u ch).st = chanFenced
                  ∧ rsqAt u (evMed ch) = rsqSet (rsqSet (rsqAt s (evMed ch)) [2]) [5]
                  ∧ ∃ e ∈ u.media.faults, e.chan = ch ∧ e.kind = 0xF + cls.toNat ∧ e.pin = pin.toNat ∧ e.st = 0))

/-- R96, R111, R116 to R120, R136, R182: groups excluded, dies that do not answer, temperatures, and the sharing of a media bus. -/
def Obligations.DiesAndTheSharedMediaBus : Prop :=
  ∀ (s : State) (ch die : Nat), ch < 128 → die < 16 →
    let n := ch * 16 + die
    let c := chanAt s ch
    let d := dieAt s n
    let sameBus : State → Prop := fun u => u = { s with media := { s.media with chans := u.media.chans } }
    (∀ g, g < 8 → s.media.excluded.getLsbD g = false → s.power.wpg.getLsbD g = true →
        ∃ u, exec (.wpgStuck g) s = .next u
          ∧ (∀ i, u.media.excluded.getLsbD i = (s.media.excluded.getLsbD i || decide (i = g)))
          ∧ (∃ e ∈ u.media.faults, e.kind = 0x30 ∧ e.die = g ∧ e.st = 0) ∧ u.media.chans = s.media.chans)
      ∧ (d.st = dieActive →
          ∃ u, exec (.dieStatusTimeout ch die) s = .next u ∧ (dieAt u n).silent = true ∧ (dieAt u n).resets = 0
            ∧ (c.st = chanActive → c.holder = none → (chanAt u ch).pinRunning = true)
            ∧ (c.pinRunning = false → c.st = chanRetraining ∨ (c.st = chanActive ∧ c.holder ≠ none) → (chanAt u ch).pinDue = true)
            ∧ (∀ m, m ≠ n → dieAt u m = dieAt s m) ∧ sameBus u)
      ∧ (now s < d.resetAt + 10000000 → exec (.dieResetTimeout ch die) s = .next s)
      ∧ (d.st = dieActive → d.silent = true → d.resetAt + 10000000 ≤ now s →
          (d.resets = 1 → ∃ u, exec (.dieResetTimeout ch die) s = .next u
              ∧ dieAt u n = { d with resets := 2, resetAt := now s } ∧ sameBus u)
            ∧ (2 ≤ d.resets →
                ∃ u, exec (.dieResetTimeout ch die) s = .next u ∧ (dieAt u n).st = dieFailed
                  ∧ (∀ m, m ≠ n → dieAt u m = dieAt s m)
                  ∧ rsqAt u (evMed ch) = rsqSet (rsqAt s (evMed ch)) [6]
                  ∧ ∃ e ∈ u.media.faults, e.chan = ch ∧ e.die = die ∧ e.kind = 3 ∧ e.st = 0))
      ∧ (∀ t, d.st = dieActive → d.params.hasTemp = true →
          ∃ u, exec (.dieTemperatureRead ch die t) s = .next u ∧ dieAt u n = { d with temp := t }
            ∧ (∀ m, m ≠ n → dieAt u m = dieAt s m) ∧ sameBus u)
      ∧ (c.st = chanActive → ∀ arrivals : List BusRequest,
          let selected : Nat → Prop := fun x => x < 16 ∧ (dieAt s (ch * 16 + x)).st = dieActive
          let waits : Nat → Prop := fun x =>
            (∃ r ∈ c.reqs, r.req.die = x) ∨ ((∃ r ∈ arrivals, r.die = x) ∧ selected x)
          (c.pinRunning = true ∨ c.pinDue = true →
              ∃ u, exec (.mediaTransactionEnd ch arrivals) s = .next u ∧ sameBus u ∧ (chanAt u ch).holder = none
                ∧ (chanAt u ch).pinRunning = true)
          ∧ (c.pinRunning = false → c.pinDue = false → c.due = false →
          ∃ u, exec (.mediaTransactionEnd ch arrivals) s = .next u ∧ sameBus u ∧ (∀ k, k ≠ ch → chanAt u k = chanAt s k)
            ∧ (c.hold = none → (∀ x, ¬ waits x) → (chanAt u ch).holder = none)
            ∧ (c.hold = none → (∃ x, waits x) →
                ∃ x, waits x ∧ (chanAt u ch).holder = some x ∧ (∀ y, waits y → dieRank s ch x ≤ dieRank s ch y)
                  ∧ (∀ r, r ∈ (chanAt u ch).reqs → r.req.die ≠ x)
                  ∧ (∀ y, waits y → y ≠ x → ∃ r ∈ (chanAt u ch).reqs, r.req.die = y))
            ∧ (∀ x, c.hold = some x → waits x → (∀ r ∈ c.reqs, r.req.data = false) → (∀ r ∈ arrivals, r.data = false) →
                (chanAt u ch).holder = some x ∧ (chanAt u ch).hold = none)
            ∧ (∀ x z, c.hold = some x → (chanAt u ch).holder = some z →
                z = x ∨ (∃ r ∈ c.reqs, r.req.die = z ∧ r.req.data = true) ∨ (∃ r ∈ arrivals, r.die = z ∧ r.data = true))))
      ∧ ((∃ r ∈ c.reqs, r.req.die = die ∧ r.at_ + holdTicks s ch ≤ now s) → c.hold = none →
          (regFld s (0x800000 + ch * 0x1000 + 0x38) 0 16 ≠ 0 →
              ∃ u, exec (.mediaHoldExpiry ch die) s = .next u ∧ chanAt u ch = { c with hold := some die } ∧ sameBus u)
            ∧ (regFld s (0x800000 + ch * 0x1000 + 0x38) 0 16 = 0 → exec (.mediaHoldExpiry ch die) s = .next s))

/-- R126, R131 to R135, R165, R181, R192, R198: a transfer of a read in flight, decoded. A codeword that decodes and matches its entry counts at
its step; one that does not decode takes the ladder's next step with the set that the rule names; a lane signature, and a failure of
every set, start the pin test; a codeword that step 5 gives makes its block failing, and one that step 5 cannot recover is counted and
raises PCS_EVENT.FLASH_UNRECOVERED. A read waits while its channel is not at hand (R108, R111).
R150 to R152: the Stipple reads the next page of its pass, once its time has come. -/
def Obligations.PageReadsCountAndFailBlocks : Prop :=
  (∀ (s : State) (die block page cw : Nat) (q : ReadReq),
    let key := cwKey die block page cw
    let k := key / 32768
    let d := keyDie k
    let b := blockAt s k
    let sound : Prop := b.st = blkOpen ∨ b.st = blkClosed
    let brings : DecodeOutcome → Instr := fun o =>
      .pageReadDone { die := die, block := block, page := page, cw := cw, purpose := q.owner, outcome := o }
    let becomes : State → ReadReq → Prop := fun u r => u.ftl.reads = s.ftl.reads.erase q ++ [r]
    let counted : State → Prop := fun u =>
      (blockAt u k).reads = b.reads + senses q.step ∧ (∀ j, j ≠ k → (blockAt u j).reads = (blockAt s j).reads)
    let onlyReads : State → Prop := fun u => u = { s with ftl := u.ftl, media := u.media }
    (tabGet s.ftl.blocks k).isSome = true → s.ftl.reads.find? (fun r => r.key == key && r.owner == q.owner) = some q →
      (readWay s d = .held → q.step ≤ 4 → ∀ o, exec (brings o) s = .next s)
        ∧ (readWay s d = .direct → 1 ≤ q.step → q.step ≤ 4 →
            (∀ w bits flips, wordOn s key = some w → outputVerifies w flips = true → matchesEntry q w = true →
                (q.owner = .gleaner → ∃ u, exec (brings (.converged bits flips)) s = .next u ∧ counted u ∧ onlyReads u
                    ∧ u.ftl.reads = s.ftl.reads.erase q
                    ∧ tabAt 0 u.ftl.health.ladder (q.step - 1) = tabAt 0 s.ftl.health.ladder (q.step - 1) + 1
                    ∧ (∀ i, i ≠ q.step - 1 → tabAt 0 u.ftl.health.ladder i = tabAt 0 s.ftl.health.ladder i)
                    ∧ (blockAt u k).st = b.st
                    ∧ (q.step ≤ 2 ∨ q.cur = q.chosen → (blockAt u k).override = b.override)
                    ∧ (3 ≤ q.step → q.cur ≠ q.chosen → (blockAt u k).override = some q.cur))
                  ∧ (∀ id e, q.owner = .cmd id → findCmd s id = some e → e.phase = .reading → 2 ≤ e.pend →
                      ∃ u, exec (brings (.converged bits flips)) s = .next u ∧ findCmd u id = some { e with pend := e.pend - 1 }))
              ∧ (∀ w bits flips, wordOn s key = some w → outputVerifies w flips = true → matchesEntry q w = false →
                  ∃ u, exec (brings (.converged bits flips)) s = .next u ∧ counted u ∧ onlyReads u ∧ becomes u { q with step := 5 })
              ∧ (q.step ≤ 3 →
                  (∀ c, ∃ u, exec (brings (.failed c false)) s = .next u ∧ counted u ∧ onlyReads u ∧ becomes u (climb q c))
                    ∧ (∀ w bits flips, wordOn s key = some w → outputVerifies w flips = false →
                        ∃ u, exec (brings (.converged bits flips)) s = .next u ∧ counted u ∧ onlyReads u ∧ becomes u (climb q 0)))
              ∧ (∀ c sig, (q.step = 1 ∧ sig = true) ∨ q.step = 4 →
                  ∃ u, exec (brings (.failed c sig)) s = .next u ∧ counted u ∧ onlyReads u
                    ∧ becomes u { q with step := 5, pinWait := true }
                    ∧ ((chanAt u (d / 16)).pinRunning = true ∨ (chanAt u (d / 16)).pinDue = true)))
        ∧ (q.step = 5 → q.pinWait = true → ∀ o, exec (brings o) s = .next s)
        ∧ (q.step = 5 → q.pinWait = false → s.power.tested = true → matesHeld s key = false →
            (q.owner = .gleaner → sound → ∀ w bits flips, reconstructed s key = some w → matchesEntry q w = true →
                ∃ u, exec (brings (.converged bits flips)) s = .next u ∧ u.ftl.reads = s.ftl.reads.erase q
                  ∧ tabAt 0 u.ftl.health.ladder 4 = tabAt 0 s.ftl.health.ladder 4 + 1 ∧ (blockAt u k).st = blkFailing
                  ∧ { prio := 2, die := d, block := keyBlock k, whole := false } ∈ u.ftl.work)
              ∧ (q.owner = .gleaner → sound → ∀ c sig, ∃ u, exec (brings (.failed c sig)) s = .next u
                  ∧ u.ftl.reads = s.ftl.reads.erase q ∧ (blockAt u k).st = blkFailing
                  ∧ u.ftl.health.unrecovered = s.ftl.health.unrecovered + 1 ∧ rsqAt u evPcs = rsqSet (rsqAt s evPcs) [7])))
    ∧ (∀ q c,
        (q.step = 1 → (climb q c).step = 2 ∧ (climb q c).tried = q.tried ++ [(q.cur, c)])
          ∧ (q.step = 2 → 1 ≤ q.base → q.base ≤ 13 → climb q c = { q with
              step := 3, cur := q.base + 1, left := [q.base - 1, q.base + 2] })
          ∧ (q.step = 3 → ∀ n rest, q.left = n :: rest → (climb q c).step = 3 ∧ (climb q c).cur = n ∧ (climb q c).left = rest)
          ∧ (q.step = 3 → q.left = [] → (climb q c).step = 4 ∧ (climb q c).cur = fewest (q.tried ++ [(q.cur, c)]) q.base))
    ∧ (∀ (s : State) (r : PageRead) (id : CmdId), r.purpose = .cmd id →
        s.ftl.reads.find? (fun x => x.key == cwKey r.die r.block r.page r.cw && x.owner == r.purpose) = none →
        exec (.pageReadDone r) s = .next s)
    ∧ (∀ (s : State) (die block page : Nat) (o : DecodeOutcome) (rest : List DecodeOutcome),
        let k := blockKey die block
        let b := blockAt s k
        let lag := flashLags s
        block < 16384 → page < 8192 → (tabGet s.ftl.blocks k).isSome = true →
        stippleRuns s = true → servesTenant s 0 = true → readWay s die = .direct →
        (nextPatrol s = some ((die, block), page) → s.pcs.patrolAt = 0 ∨ s.pcs.patrolAt + patrolGap s ≤ now s →
            ∃ u, exec (.stipplePatrolRead die block page o rest) s = .next u
              ∧ u.pcs.patrol = patrolKey (die, block) page + 1 ∧ u.pcs.patrolAt = now s ∧ u.pcs.flashLag = lag
              ∧ rsqAt u evPcs = (if lag = true ∧ s.pcs.flashLag = false then rsqSet (rsqAt s evPcs) [8] else rsqAt s evPcs)
              ∧ (blockAt u k).reads = b.reads + 1
              ∧ (∀ bits flips, o = .converged bits flips → regFld s 0xA00044 0 8 < bits →
                  { prio := 4, die := die, block := block, whole := false } ∈ u.ftl.work))
          ∧ (nextPatrol s ≠ some ((die, block), page) → exec (.stipplePatrolRead die block page o rest) s = .next s))

/-- R139, R140: what the code of a DRAM line corrects: errors of one device, up to 8 symbols anywhere, and with a marked device up to 4
symbols besides.
R27, R140 to R145, R148, R149, R153: the DRAM walk, marks, line remap, on-die SRAM, the patrol position, and failed engine units. -/
def Obligations.DramErrorsRemapsAndEngineUnits : Prop :=
  (∀ (errs : List (Nat × Nat)) (d : Nat),
      (errs ≠ [] → (∀ e ∈ errs, e.1 = d ∧ d < 10 ∧ e.2 < 8) →
          lineVerdict none errs = .corrected (some d) ∧ lineVerdict (some d) errs = .marked)
        ∧ (errs.length ≤ 8 → lineVerdict none errs ≠ .lost)
        ∧ (errs.length ≤ 4 → lineVerdict (some d) errs ≠ .lost))
  ∧ (∀ (s : State) (ch line : Nat) (f : LineFinding),
    let key := lineKey ch line
    let mark := markKey ch (f.rank % 2) (f.subch % 2)
    let verdict := lineVerdict (tabGet s.pcs.marks mark) f.errs
    let walk := if s.pcs.dramPos = 0 then newPass s else s
    let lag := decide (walk.pcs.dramStart + dramPass s < now s)
    let rsq0 := if lag = true ∧ walk.pcs.dramLag = false then rsqSet (rsqAt s evPcs) [8] else rsqAt s evPcs
    let n := tabAt 0 walk.pcs.lineErrs key + 1
    let dev : Nat → Nat := fun d => deviceKeyOf ch (f.rank % 2) (f.subch % 2) d
    let read := Sys2Proof.Machine.exec (.stippleDramRead ch line f.toLinePlace f.errs) s
    let walked : State → Prop := fun u =>
      u.pcs.dramPos = (s.pcs.dramPos + 1) % Nat.max 1 (dramLines s) ∧ u.pcs.dramAt = now s ∧ u.pcs.dramLag = lag
    (stippleRuns s = true → ch ∈ dramInUse s → servesTenant s 0 = true →
        (key ∈ s.pcs.copying → read = .next s)
          ∧ (lineAddress s ch line = 64 * s.pcs.dramPos → s.pcs.dramAt = 0 ∨ s.pcs.dramAt + dramGap s ≤ now s → key ∉ s.pcs.copying →
              (verdict = .clean → ∃ u, read = .next u ∧ walked u ∧ rsqAt u evPcs = rsq0 ∧ u.ftl = s.ftl)
                ∧ (verdict = .marked → ∃ u, read = .next u ∧ walked u ∧ rsqAt u evPcs = rsq0
                    ∧ u.ftl.health.dramCorrected = s.ftl.health.dramCorrected + 1 ∧ u.pcs.lineErrs = walk.pcs.lineErrs)
                ∧ (verdict = .lost → regionAt s (lineAddress s ch line) = none →
                    ∃ u, read = .next u ∧ walked u ∧ rsqAt u evPcs = rsqSet rsq0 [5]
                      ∧ u.ftl.health.dramUe = s.ftl.health.dramUe + 1)
                ∧ (verdict = .lost → (regionAt s (lineAddress s ch line)).isSome = true →
                    ∃ u, read = .next u ∧ lineAddress s ch line / 64 ∈ u.pcs.uePending)
                ∧ (verdict = .corrected none → ∃ u, read = .next u ∧ walked u
                    ∧ u.ftl.health.dramCorrected = s.ftl.health.dramCorrected + 1 ∧ tabAt 0 u.pcs.lineErrs key = n
                    ∧ (n < remapThreshold s → u.pcs.copying = s.pcs.copying)
                    ∧ (remapThreshold s ≤ n → tabGet s.pcs.remapDram key = none → key ∉ s.pcs.remapFull →
                        (sparesUsed s ch + (s.pcs.copying.filter (fun k => k / 2 ^ 40 == ch)).length < 32 →
                            u.pcs.copying = s.pcs.copying ++ [key])
                          ∧ (32 ≤ sparesUsed s ch + (s.pcs.copying.filter (fun k => k / 2 ^ 40 == ch)).length →
                              rsqAt u evPcs = rsqSet rsq0 [4] ∧ key ∈ u.pcs.remapFull ∧ u.pcs.copying = s.pcs.copying)))
                ∧ (∀ d, verdict = .corrected (some d) → tabGet s.pcs.marks mark = none →
                    (tabAt [] walk.pcs.devLines (dev d)).length = 15 → line ∉ tabAt [] walk.pcs.devLines (dev d) →
                    ∃ u, read = .next u ∧ tabGet u.pcs.marks mark = some d
                      ∧ (etchGone s = false → u.etch.wanted.isSome = true))))
      ∧ (key ∈ s.pcs.copying → tabWf s.pcs.lineErrs = true →
          ∃ u, exec (.lineRemapCopyDone (.dram ch line)) s = .next u ∧ tabGet u.pcs.remapDram key = some (sparesUsed s ch)
            ∧ tabAt 0 u.pcs.lineErrs key = 0 ∧ rsqAt u evPcs = rsqSet (rsqAt s evPcs) [3] ∧ u.etch.wanted.isSome = true)
      ∧ (key ∉ s.pcs.copying → exec (.lineRemapCopyDone (.dram ch line)) s = .next s)
      ∧ (∀ g bits, s.power.started = true → (∀ x ∈ bits, x ≤ 1) →
          let ones := (bits.filter (· == 1)).length
          ∃ u, exec (.lineRemapCopyDone (.sram g line bits)) s = .next u
            ∧ u.ftl.health.sramCorrected = s.ftl.health.sramCorrected + ones
            ∧ (ones < remapThreshold s → u.pcs = s.pcs)
            ∧ (remapThreshold s ≤ ones → sramSpares s g < 16 →
                s.pcs.remapSram.any (fun e => e.1 / 16 == g && e.2 == line) = false → lineKey (8 + g) line ∉ s.pcs.remapFull →
                tabGet u.pcs.remapSram (16 * g + sramSpares s g) = some line
                  ∧ rsqAt u evPcs = rsqSet (rsqAt s evPcs) [3] ∧ u.etch.wanted.isSome = true)
            ∧ (remapThreshold s ≤ ones → 16 ≤ sramSpares s g →
                s.pcs.remapSram.any (fun e => e.1 / 16 == g && e.2 == line) = false → lineKey (8 + g) line ∉ s.pcs.remapFull →
                rsqAt u evPcs = rsqSet (rsqAt s evPcs) [4] ∧ u.pcs.remapSram = s.pcs.remapSram))
      ∧ (∀ g x, s.power.started = true → 2 ≤ x →
          ∃ u, exec (.lineRemapCopyDone (.sram g line [x])) s = .next u ∧ u.pcs = s.pcs
            ∧ u.ftl.health.sramUe = s.ftl.health.sramUe + 1 ∧ rsqAt u evPcs = rsqSet (rsqAt s evPcs) [6])
      ∧ (s.power.started = true → isDue s s.pcs.savedAt 600000000000 = true →
          ∃ u, exec .patrolPositionSave s = .next u ∧ u.pcs.patrolSaved = s.pcs.patrol
            ∧ (etchGone s = false → ∃ w, u.etch.wanted = some w ∧ w.body.patrol = s.pcs.patrol)
            ∧ u = { s with pcs := u.pcs, etch := u.etch })
      ∧ (s.power.started = false → exec .patrolPositionSave s = .next s)
      ∧ (∀ pool inst unit, inst < poolInsts pool → unitUsable s pool inst unit = true → stageOn s pool unit = none →
          let e := engineAt s pool inst
          let spare := poolUnits pool
          ∃ u, exec (.engineUnitFailure pool inst unit) s = .next u ∧ unit ∈ (engineAt u pool inst).retired
            ∧ unitUsable u pool inst unit = false
            ∧ (unit ≠ spare → e.spareUsed = false → spare ∉ e.retired →
                unitUsable u pool inst spare = true ∧ (engineAt u pool inst).lost = e.lost)
            ∧ (e.spareUsed = true → (engineAt u pool inst).lost = e.lost + 1)
            ∧ (pool = .ldpc ∨ pool = .burin → rsqAt u (poolEvent pool) = rsqSet (rsqAt s (poolEvent pool)) [0])))

/-! ### Translation and media management -/

/-- R89, R155, R162, R163, R165, R168, R169, R171 to R174, R178 to R180, R189, R191, R194, R198, R199, R209, R232: map pages, the meadow, the Gleaner,
destage, programs and erases. Work that moves units appends copies and changes no place that a map entry names: an entry changes when
its record commits, and only a unit that cannot be read any more is poisoned at once. -/
def Obligations.MapPagesCopiesProgramsAndErases : Prop :=
  ∀ s : State,
    let mapsSame : State → Prop := fun u =>
      u.ftl.map = s.ftl.map ∧ u.ftl.overlay = s.ftl.overlay ∧ u.ftl.mapLoc = s.ftl.mapLoc
    let placesSame : State → Prop := fun u =>
      (∀ k, withPoison (entryAt u k) 0 = withPoison (entryAt s k) 0) ∧ u.ftl.mapLoc = s.ftl.mapLoc
    let copies : State → (Nat → Prop) → Prop := fun u p =>
      ∃ cs, u.ftl.copies = s.ftl.copies ++ cs ∧ ∀ c ∈ cs, p c.rtype
    (∀ nsid level index, (tabGet s.ftl.mapLoc (pageKey nsid level index)).isSome = true →
        tabWf s.ftl.overlay = true → tabWf s.ftl.map = true →
        (s.ftl.resident.length < cachePages s →
            ∃ v, exec (.mapPageLoaded nsid level index) s = .next (resumeCmds v)
              ∧ pageKey nsid level index ∈ v.ftl.resident ∧ pageKey nsid level index ∉ v.ftl.wanted
              ∧ (∀ p ∈ s.ftl.resident, p ∈ v.ftl.resident) ∧ (∀ k, entryAt v k = entryAt s k)
              ∧ (level = 0 → ∀ k, leafOf k = pageKey nsid 0 index → tabGet v.ftl.overlay k = none))
          ∧ (cachePages s ≤ s.ftl.resident.length → pageKey nsid level index ∉ s.ftl.resident → s.ftl.resident ≠ [] →
              (∀ p ∈ s.ftl.resident, (tabGet s.ftl.dirty p).isSome = true) →
              ∃ u, exec (.mapPageLoaded nsid level index) s = .next u ∧ u.ftl.resident = s.ftl.resident
                ∧ u.ftl.wanted = s.ftl.wanted ∧ mapsSame u))
      ∧ (s.power.ready = true → regFld s 0xC00014 8 8 ≠ 0 → s.ftl.mapFull = false → servesTenant s 0 = true →
          s.ftl.resident.length < cachePages s →
          (∃ e ∈ s.ftl.mapLoc, e.1 / 2 ^ 47 % 2 = 1 ∧ e.1 ∉ s.ftl.resident ∧ e.1 ∉ s.ftl.wanted) →
          ∃ p, p / 2 ^ 47 % 2 = 1 ∧ (∃ e ∈ s.ftl.mapLoc, e.1 = p) ∧ p ∉ s.ftl.resident
            ∧ exec .mapPrefetch s = .next { s with ftl := { s.ftl with wanted := s.ftl.wanted ++ [p] } })
      ∧ (s.power.ready = false → exec .mapPrefetch s = .next s)
      ∧ (let mx := within 5 200 (regFld s 0xC00008 0 8)
         let mn := within 1 mx (regFld s 0xC00008 8 8)
         let knee := within 50 99 (regFld s 0xC00008 16 8)
         isDue s s.ftl.meadowAt 1000000000 = true → ∃ u, exec .meadowRecompute s = .next u ∧ mn * 10 ≤ u.ftl.meadowTarget ∧ u.ftl.meadowTarget ≤ mx * 10
          ∧ (s.ftl.exported ≠ 0 → knee * s.ftl.exported ≤ mappedBytes s * 100 → u.ftl.meadowTarget = mn * 10)
          ∧ (mappedBytes s = 0 → u.ftl.meadowTarget = mx * 10)
          ∧ u.ftl.meadowShare = meadowShareNow s
          ∧ u = { s with ftl := { s.ftl with
              meadowTarget := u.ftl.meadowTarget, meadowShare := u.ftl.meadowShare, meadowAt := now s } })
      ∧ (isDue s s.ftl.meadowAt 1000000000 = false → exec .meadowRecompute s = .next s)
      ∧ (tabWf s.ftl.overlay = true → tabWf s.ftl.map = true →
          ∃ u, exec .gleanerDispatch s = .next u ∧ placesSame u ∧ copies u (fun r => r = 5 ∨ r = 6)
            ∧ (gleanerRuns s = true → s.ftl.rebuild = none → takeAnchors s = s →
                ∀ w ∈ s.ftl.work, workDone s w = false → w ∈ u.ftl.work))
      ∧ (tabWf s.ftl.overlay = true → tabWf s.ftl.map = true →
          ∃ u, exec .fallowSweep s = .next u ∧ placesSame u ∧ copies u (fun r => r = 5 ∨ r = 6)
          ∧ (regFld s 0xC00010 0 16 = 0 → u = s)
          ∧ (∀ d, regFld s 0xC00010 0 16 ≠ 0 → gleanerRuns s = true → s.ftl.fallowAt = 0 → (rebuildWork s).isNone = true →
              (nextVictim s).isNone = true → d ∈ blockDies s →
              regFld s 0xC00010 0 16 < dieSpread s d → (youngest s d).isSome = true → u.ftl.fallowAt = now s))
      ∧ (∃ u, exec .destageStart s = .next u ∧ mapsSame u ∧ copies u (fun r => r = 4)
          ∧ (canProgram s = false → u = s))
      ∧ (∀ swath stripe w, s.ftl.swaths.find? (fun x => x.id == swath) = some w →
          (stripe < w.next → stripe ∉ w.done → swathWritable s w = true →
              (∃ u, exec (.pageProgramDone swath stripe []) s = .next u ∧ mapsSame u
                ∧ (u.ftl.swaths.find? (fun x => x.id == swath)).map (fun x => x.done.contains stripe) = some true)
              ∧ (∀ i m, w.members[i]? = some m →
                  (blockAt s (blockKey m.1 m.2)).st = blkOpen ∨ (blockAt s (blockKey m.1 m.2)).st = blkClosed →
                  ∃ u, exec (.pageProgramDone swath stripe [i]) s = .next u ∧ mapsSame u
                    ∧ (blockAt u (blockKey m.1 m.2)).st = blkFailing
                    ∧ (u.ftl.swaths.find? (fun x => x.id == swath)).map (·.opened) = some false
                    ∧ rsqAt u evFtl = rsqSet (rsqAt s evFtl) [2]))
            ∧ (w.next ≤ stripe ∨ swathWritable s w = false → ∀ failed, exec (.pageProgramDone swath stripe failed) s = .next s))
      ∧ (∀ die block, let k := blockKey die block; let b := blockAt s k
          (mayErase s die block = true → canProgram s = true → dieWritable s die = true →
              ∃ r u, exec (.eraseBegin die block) s = .next u ∧ u = { s with etch := { s.etch with built := s.etch.built ++ [r] } }
                ∧ r.type = 7 ∧ ∃ e, r.entries = [e] ∧ e.key = jBlockKey die block
                  ∧ natFld e.new.toNat 0 24 = (b.erases + 1) % 2 ^ 24 ∧ natFld e.new.toNat 24 4 = 3)
            ∧ (mayErase s die block = false ∨ dieWritable s die = false → exec (.eraseBegin die block) s = .next s)
            ∧ (b.st = blkErasing → dieWritable s die = true →
                (∃ u, exec (.blockEraseDone die block true) s = .next u ∧ mapsSame u ∧ (blockAt u k).st = blkFree
                    ∧ (blockAt u k).reads = 0 ∧ (blockAt u k).override = none ∧ (blockAt u k).erases = b.erases
                    ∧ (∀ e ∈ u.ftl.flash, e.1 / 32768 ≠ k) ∧ (∀ w ∈ u.ftl.swaths, (die, block) ∉ w.members)
                    ∧ u.ftl.health.erases = s.ftl.health.erases + 1)
                  ∧ (∃ u, exec (.blockEraseDone die block false) s = .next u ∧ (blockAt u k).st = blkRetired
                    ∧ u.ftl.health.retiredErase = s.ftl.health.retiredErase + 1))
            ∧ (b.st ≠ blkErasing ∨ dieWritable s die = false → ∀ ok, exec (.blockEraseDone die block ok) s = .next s))
      ∧ (etchGone s = false → s.power.started = true → isDue s s.ftl.healthAt 600000000000 = true →
          let h : Health := { s.ftl.health with warn := warnByte s }
          ∃ w, exec .healthCountersCommit s = .next { s with
              ftl := { s.ftl with health := h, healthAt := now s }, etch := { s.etch with wanted := some w } }
            ∧ w.body.health = h)

/-! ### Etch buffer -/

/-- R191, R203, R204, R205, R208, R214, R216, R223, R510: from acknowledged data to a committed record. A record is built with its OLD
values as the map holds them; a commit takes the next SEQ (with a pad record the one after it) and applies the record; a
relocation whose entry has changed is dropped. Then what waited goes on (`resumeCmds`, `resumeJobs`). -/
def Obligations.RecordsAreBuiltAndCommitted : Prop :=
  ∀ s : State,
    let goes : Instr → State → Prop := fun i v => exec i s = .next (resumeJobs (resumeCmds v))
    let newSeq := s.etch.seq + (if s.etch.tail ≠ journalRegion ∧ journalRegion < s.etch.tail + 56 then 2 else 1)
    (∀ id e, findCmd s id = some e → e.job = none → e.phase = .moving → e.pend = 0 →
        (s.power.fence = false →
            ∃ u, exec (.etchDataAck id) s = .next u ∧ findCmd u id = some { e with phase := .built, blocks := [] }
              ∧ u.etch.moving = s.etch.moving.filter (fun b => b.cmd != some id)
              ∧ u.etch.built = s.etch.built ++ (s.etch.moving.filter (fun b => b.cmd == some id)).map (fun b =>
                  { b with entries := b.entries.map (fun x => { x with old := entryAt s (jUnit x.key) }) })
              ∧ (∀ k, entryAt u k = entryAt s k))
          ∧ (s.power.fence = true → exec (.etchDataAck id) s = .next s))
      ∧ (canRecord s = false → exec .journalCommit s = .next s)
      ∧ (nextBuilt s = none → exec .journalCommit s = .next s)
      ∧ (∀ b e, canRecord s = true → nextBuilt s = some b → b.entries = [e] → tabWf s.ftl.map = true →
          (b.cmd = none → b.job = none → b.type = 4 ∨ b.type = 5 →
              (entryAt s (jUnit e.key) = e.old →
                  ∃ v, goes .journalCommit v ∧ v.etch.seq = newSeq ∧ entryAt v (jUnit e.key) = e.new
                    ∧ (∀ k, k ≠ jUnit e.key → entryAt v k = entryAt s k))
                ∧ (entryAt s (jUnit e.key) ≠ e.old →
                    ∃ v, goes .journalCommit v ∧ v.etch.seq = s.etch.seq ∧ ∀ k, entryAt v k = entryAt s k))
            ∧ (∀ id x, b.cmd = some id → b.type = 1 → b.last = true → findCmd s id = some x → x.opcode = 1 →
                ∃ v, goes .journalCommit v ∧ v.etch.seq = newSeq ∧ entryAt v (jUnit e.key) = e.new
                  ∧ (∀ k, k ≠ jUnit e.key → entryAt v k = entryAt s k)
                  ∧ ∃ c ∈ v.host.waiting, c.id = id ∧ c.sct = 0 ∧ c.sc = 0))
      ∧ (∀ id e, findCmd s id = some e → e.job = none →
          exec (.admissionResume id) s = .next (resumeCmds (ioTry (settleAdmission s) id)))
      ∧ (s.etch.admitHold = true →
          (occupancyPct s < admitLow s → settleAdmission s = { s with etch := { s.etch with admitHold := false } })
            ∧ (admitLow s ≤ occupancyPct s → settleAdmission s = s))
      ∧ (s.etch.admitHold = false →
          (admitHigh s ≤ occupancyPct s → (settleAdmission s).etch.admitHold = true
              ∧ rsqAt (settleAdmission s) evEtb = rsqSet (rsqAt s evEtb) [2])
            ∧ (occupancyPct s < admitHigh s → settleAdmission s = s))
      ∧ (s.etch.jrnlHold = true →
          (liveBytes s + 16 * 1048576 < liveMax s →
              goes .journalHoldRelease (resumeHeld { s with etch := { s.etch with jrnlHold := false } }))
            ∧ (liveMax s ≤ liveBytes s + 16 * 1048576 → exec .journalHoldRelease s = .next s))

/-- R44, R211, R212, R215, R217, R218, R221, R227: checkpoints, the journal mirror, settings updates and anchor records. While an image or a
copy is written the other one stays as it is; what is written last makes it count. A mirror lies in family 3 swaths, and what needs it
waits until its pages are programmed and verified.
R34, R201, R226, R227, R263, R613: an uncorrectable line and a lost Etch die. -/
def Obligations.CheckpointsSettingsAndLostEtchParts : Prop :=
  (∀ s : State,
      let image : State → Bool → RootImg := fun u b => if b then u.etch.rootB else u.etch.rootA
      let copy : State → Bool → SetCopy := fun u b => if b then u.etch.setB else u.etch.setA
      let act := s.etch.rootActive
      let inForce := s.etch.setActive
      let onlyEtch : State → Prop := fun u => u = { s with etch := u.etch }
      let whole : Prop := s.etch.lost0 = false ∧ s.etch.lost1 = false
      (canRecord s = true → s.power.started = true → s.etch.cpOpen = none → whole → s.etch.cpAt + cpPeriod s ≤ now s →
          ∃ u r, exec .rootCheckpoint s = .next u ∧ onlyEtch u ∧ u.etch.cpOpen = some r ∧ r.ok = true ∧ u.etch.cpAt = now s
            ∧ (image s act).cpSeq ≤ r.cpSeq
            ∧ (∀ e ∈ s.ftl.dirty, (image s act).cpSeq < e.2 → r.cpSeq < e.2)
            ∧ r.blocks = s.ftl.blocks ∧ r.swaths = s.ftl.swaths
            ∧ r.mapLoc = s.ftl.mapLoc.filter (fun e => !isLeafPage e.1)
            ∧ s.etch.rootA.seq < r.seq ∧ s.etch.rootB.seq < r.seq
            ∧ image u act = image s act ∧ (image u (!act)).ok = false)
        ∧ (now s < s.etch.cpAt + cpPeriod s → exec .rootCheckpoint s = .next s)
        ∧ (∀ r, canRecord s = true → s.etch.cpOpen = some r → whole →
            ∃ u, exec .rootCheckpointDone s = .next u ∧ onlyEtch u ∧ u.etch.cpOpen = none ∧ u.etch.rootActive = !act
              ∧ image u (!act) = r ∧ image u act = image s act ∧ ∃ n, u.etch.live = s.etch.live.drop n)
        ∧ (s.etch.cpOpen = none → exec .rootCheckpointDone s = .next s)
        ∧ (canProgram s = true →
            let copied := (unmirrored s).foldl (fun a r => a + r.len) 0
            let bytes := ((unmirrored s).map recordBytes).flatten
            let newest := ((s.etch.mirrorRoots.getLast?).map (·.img.seq)).getD 0
            (∃ u, exec .journalMirrorCopy s = .next u ∧ u.etch.live = s.etch.live)
              ∧ (∀ t ws, unmirrored s ≠ [] → placeMirror s 2 copied bytes = some (t, ws) → (image s act).ok = false →
                  exec .journalMirrorCopy s = .next { t with etch := { t.etch with
                    mirrorLog := t.etch.mirrorLog ++ [{ recs := unmirrored s, words := ws }] } })
              ∧ (∀ t m, unmirrored s = [] → (image s act).ok = true → newest < (image s act).seq →
                  placeRoot s (image s act) = some (t, m) →
                  ∃ u a, exec .journalMirrorCopy s = .next u ∧ u.etch.mirrorRoots.getLast? = some m
                    ∧ u.etch.mirrorRoots.length ≤ 2 ∧ m.img = image s act
                    ∧ u.etch.anchorsDue = t.etch.anchorsDue ++ [a] ∧ a.root = true ∧ a.cur = nameOf m.img.seq m.words))
        ∧ (canProgram s = false → exec .journalMirrorCopy s = .next s)
        ∧ (∀ w, s.etch.wanted = some w → s.etch.update = none → canRecord s = true → s.power.settingsIn = true →
            (∀ t m, placeStore s (newStore s w) = some (t, m) →
                ∃ u, exec .settingsUpdateStart s = .next u ∧ u.etch.update = some w ∧ u.etch.wanted = none
                  ∧ copy u inForce = copy s inForce ∧ (copy u (!inForce)).ok = false ∧ u.etch.setActive = inForce
                  ∧ m ∈ u.etch.mirrors ∧ m.copy.body = w.body ∧ m.copy.seq = s.etch.setSeq + 1)
              ∧ (placeStore s (newStore s w) = none → exec .settingsUpdateStart s = .next s))
        ∧ (s.etch.update.isSome = true ∨ s.power.settingsIn = false → exec .settingsUpdateStart s = .next s)
        ∧ (∀ w m, s.etch.update = some w → canRecord s = true → mirrorOf s (s.etch.setSeq + 1) = some m →
            (wordsDone s m.words = true → w.events = false → w.acts = [] →
                ∃ u, exec .settingsCommit s = .next u ∧ onlyEtch u ∧ u.etch.update = none ∧ u.etch.setActive = !inForce
                  ∧ u.etch.setSeq = s.etch.setSeq + 1 ∧ copy u inForce = copy s inForce ∧ copy u (!inForce) = m.copy
                  ∧ ∃ a, u.etch.anchorsDue = s.etch.anchorsDue ++ [a] ∧ a.root = false
                    ∧ a.cur = nameOf (s.etch.setSeq + 1) m.words ∧ a.cmds = w.cmds)
              ∧ (m.words ≠ [] → wordsDone s m.words = false → exec .settingsCommit s = .next s))
        ∧ (∀ a rest dies, s.etch.anchorsDue = a :: rest → canProgram s = true → anchorLost s a = false →
            let new := (((anchorDies s).filter (dieWritable s)).take dies).filter (fun d => !(anchoredOn s a).contains d)
            let after := new.foldl (programAnchor a) s
            (anchorReady s a = true →
                (3 ≤ (anchoredOn after a).length →
                    ∃ u, exec (.anchorProgrammed dies) s = .next u ∧ u.etch.anchorsDue = rest
                      ∧ (∀ id e, a.cmds = [id] → findCmd s id = some e →
                          ∃ c, u.host.waiting = s.host.waiting ++ [c] ∧ c.id = id ∧ c.sct = 0 ∧ c.sc = 0))
                  ∧ ((anchoredOn after a).length < 3 →
                      ∃ u, exec (.anchorProgrammed dies) s = .next u ∧ u.etch.anchorsDue = a :: rest ∧ u.host = s.host))
              ∧ (∀ d t k, anchorPlace s d = some (t, k) → (programAnchor a s d).etch.anchors = t.etch.anchors ++ [⟨k, a⟩])
              ∧ (anchorReady s a = false → exec (.anchorProgrammed dies) s = .next s)))
    ∧ (∀ s : State,
        (∀ slot k n, inDataRegion slot = true → slotHolder s slot = some k → etchGone s = false →
            tabGet s.ftl.namespaces (keyNsid k) = some n →
            ∃ u, exec (.etchLineUe slot) s = .next u ∧ rsqAt u evEtb = rsqSet (rsqAt s evEtb) [7]
              ∧ ePoison (entryAt u k) = (if n.coarse then 0xFFFF else 1) ∧ (∀ j, j ≠ k → entryAt u j = entryAt s j)
              ∧ u.etch.defTotal = s.etch.defTotal + 1 ∧ u.ftl.health.deferred = s.ftl.health.deferred + 1
              ∧ ∃ r, u.etch.built = s.etch.built ++ [r] ∧ r.type = 10)
          ∧ (∀ slot, inDataRegion slot = true → slotHolder s slot = none → exec (.etchLineUe slot) s = .next (raise s evEtb 7))
          ∧ (∀ slot, inDataRegion slot = false → slot < 1048576 → s.etch.badLines0 < 64 →
              exec (.etchLineUe slot) s = .next { s with etch := { s.etch with badLines0 := s.etch.badLines0 + 1 } })
          ∧ (∀ slot, inDataRegion slot = false → 1048576 ≤ slot → slot < 2097152 → s.etch.badLines1 < 64 →
              exec (.etchLineUe slot) s = .next { s with etch := { s.etch with badLines1 := s.etch.badLines1 + 1 } })
          ∧ (∀ slot, inDataRegion slot = false → slot < 1048576 → s.etch.badLines0 = 64 → s.etch.lost0 = false →
              ∃ v, exec (.etchLineUe slot) s = .next (wakeOn { s with etch := { s.etch with badLines0 := 65 } } (resumeCmds (resumeJobs v)))
                ∧ v.etch.lost0 = true)
          ∧ (s.etch.lost0 = false → s.etch.lost1 = false →
              ∀ die, die < 2 →
                ∃ v, exec (.etchDieLost die) s = .next (wakeOn s (resumeCmds (resumeJobs v)))
                  ∧ v.etch.lost0 = decide (die = 0) ∧ v.etch.lost1 = decide (die = 1)
                  ∧ v.etch.setActive = decide (die = 0) ∧ v.etch.cpOpen = none
                  ∧ rsqAt v evEtb = rsqSet (rsqAt s evEtb) [8] ∧ v.etch.wanted.isSome = true)
          ∧ (∀ die, (die = 0 ∧ s.etch.lost0 = false ∧ s.etch.lost1 = true) ∨ (die = 1 ∧ s.etch.lost0 = true ∧ s.etch.lost1 = false) →
              ∃ v, exec (.etchDieLost die) s = .next (wakeOn s (resumeCmds (resumeJobs v)))
                ∧ etchGone v = true ∧ v.ftl.stopped = true ∧ v.etch.moving = [] ∧ v.etch.built = [] ∧ v.etch.update = none))

/-! ### Host interface and admin commands -/

/-- R242, R243, R244, R245, R248, R260, R261, R270 and NVMe as R248 names it: doorbells, command fetch, completions, the commands that create
and delete queues, Abort and Asynchronous Event Request. -/
def Obligations.QueuesFetchAndCompletions : Prop :=
  ∀ s : State,
    (∀ fn qid value bad chk (entries : List SqEntry), ∀ q : Sq, s.power.pstate < 3 → value < q.size → q.tail < q.size →
          tabGet (ctrlAt s fn).sqs qid = some q →
          ∃ u, exec (.doorbellWrite fn qid false value entries bad chk) s = .next u
            ∧ tabGet (ctrlAt u fn).sqs qid
                = some { q with entries := q.entries ++ entries.take ((value + q.size - q.tail) % q.size), tail := value }
            ∧ (∀ g, g ≠ fn → ctrlAt u g = ctrlAt s g) ∧ u = { s with host := { s.host with ctrls := u.host.ctrls } })
      ∧ (∀ fn qid value bad chk, ∀ q : Cq, s.power.pstate < 3 → value < q.size → q.head < q.size →
          tabGet (ctrlAt s fn).cqs qid = some q →
          ∃ u, exec (.doorbellWrite fn qid true value [] bad chk) s = .next u
            ∧ tabGet (ctrlAt u fn).cqs qid
                = some { q with posted := q.posted.drop ((value + q.size - q.head) % q.size), head := value }
            ∧ (∀ g, g ≠ fn → ctrlAt u g = ctrlAt s g) ∧ u = { s with host := { s.host with ctrls := u.host.ctrls } })
      ∧ (∀ fn qid q e rest, s.power.started = true → s.power.fence = false → s.power.pstate < 3 → nextTurn s = some fn →
          arbBurst s fn = 1 → nextSq s (ctrlAt s fn) = some (qid, q) → tabGet (ctrlAt s fn).sqs qid = some q →
          q.entries = e :: rest → findCmd s { fn := fn, qid := qid, cid := e.cid } = none →
          ∃ u, exec (.commandFetch fn) s = .next u ∧ tabGet (ctrlAt u fn).sqs qid = some { q with entries := rest }
            ∧ u.host.lastFn = fn ∧ u.power.cleanRecord = false
            ∧ (∃ x, u.host.exec = s.host.exec ++ [x] ∧ x.cmd.id = { fn := fn, qid := qid, cid := e.cid }
                ∧ x.opcode = e.opcode.toNat ∧ x.order = s.host.order
                ∧ ((if qid = 0 then adminOpcodes else ioOpcodes).contains e.opcode.toNat = true → x.phase = .fetched)
                ∧ ((if qid = 0 then adminOpcodes else ioOpcodes).contains e.opcode.toNat = false →
                    completed u x.cmd.id (if s.power.settingsRecovery then stNotReady else stInvalidOpcode) 0)))
      ∧ (∀ fn, s.power.fence = true → exec (.commandFetch fn) s = .next s)
      ∧ (∀ c rest q, s.host.waiting = c :: rest → strictOn s = false → abortWaits s c = false →
          let cqid := cqOf s c.id.fn c.id.qid
          tabGet (ctrlAt s c.id.fn).cqs cqid = some q →
          (q.posted.length + 1 < q.size →
              ∃ u, exec (.completionPost c.id.fn cqid) s = .next u ∧ u.host.waiting = rest ∧ findCmd u c.id = none
                ∧ tabGet (ctrlAt u c.id.fn).cqs cqid = some { q with posted := q.posted ++ [c] }
                ∧ (∀ g, g ≠ c.id.fn → ctrlAt u g = ctrlAt s g))
            ∧ (q.size ≤ q.posted.length + 1 → exec (.completionPost c.id.fn cqid) s = .next s))
      ∧ (∀ c, fresh s c → adminPlain s c → c.nsid = 0 →
          let fn := c.id.fn
          let qid := fld c.c10 0 16
          let size := fld c.c10 16 16 + 1
          let hi := fld c.c11 16 16
          let k := ctrlAt s fn
          (fld c.c11 0 16 = 1 → 1 ≤ qid → qid ≤ sqsAllowed s fn → tabGet k.sqs qid = none → 2 ≤ size → size ≤ 4096 → 1 ≤ hi →
              (tabGet k.cqs hi).isSome = true →
              ∃ u, exec (.createIoSq c) s = .next u ∧ completed u c.id stSuccess 0
                ∧ tabGet (ctrlAt u fn).sqs qid = some { size := size, cqid := hi, entries := [], tail := 0 }
                ∧ (∀ g, g ≠ fn → ctrlAt u g = ctrlAt s g))
            ∧ (fld c.c11 3 13 = 0 → qid = 0 → ∃ u, exec (.createIoSq c) s = .next u ∧ completed u c.id stInvalidQid 0
                ∧ ∀ g, ctrlAt u g = ctrlAt s g)
            ∧ (fld c.c11 0 1 = 1 → fld c.c11 2 14 = 0 → 1 ≤ qid → qid ≤ cqsAllowed s fn → tabGet k.cqs qid = none → 2 ≤ size →
                size ≤ 4096 → hi < vectorsOf s fn →
                ∃ u, exec (.createIoCq c) s = .next u ∧ completed u c.id stSuccess 0
                  ∧ tabGet (ctrlAt u fn).cqs qid
                      = some { size := size, head := 0, vector := hi, ien := decide (fld c.c11 1 1 = 1), posted := [] }
                  ∧ (∀ g, g ≠ fn → ctrlAt u g = ctrlAt s g))
            ∧ (size = 1 → c.c11 = 0 → 1 ≤ qid → (tabGet k.cqs qid).isSome = true →
                ((∀ e ∈ k.sqs, e.2.cqid ≠ qid) → tabWf k.cqs = true →
                    ∃ u, exec (.deleteIoCq c) s = .next u ∧ completed u c.id stSuccess 0 ∧ tabGet (ctrlAt u fn).cqs qid = none
                      ∧ (∀ g, g ≠ fn → ctrlAt u g = ctrlAt s g))
                  ∧ ((∃ e ∈ k.sqs, e.2.cqid = qid) →
                      ∃ u, exec (.deleteIoCq c) s = .next u ∧ completed u c.id stQueueDeletion 0 ∧ ∀ g, ctrlAt u g = ctrlAt s g))
            ∧ (size = 1 → c.c11 = 0 → 1 ≤ qid → (tabGet k.sqs qid).isSome = true → c.id.qid = 0 →
                ∃ v, exec (.deleteIoSq c) s = .next (resumeJobs (resumeCmds v)) ∧ completed v c.id stSuccess 0
                  ∧ ∀ e ∈ v.host.exec, e.cmd.id.fn = fn → e.cmd.id.qid ≠ qid))
      ∧ (∀ c, fresh s c → adminPlain s c → c.nsid = 0 → c.c11 = 0 → (∀ e ∈ s.host.exec, e.opcode = 0x08 → e.cmd.id = c.id) →
          let target : CmdId := { fn := c.id.fn, qid := fld c.c10 0 16, cid := fld c.c10 16 16 }
          target ≠ c.id →
          (∀ e, findCmd s target = some e → abortable s e = false →
              ∃ v, exec (.abort c) s = .next (resumeJobs (resumeCmds v)) ∧ completed v c.id stSuccess 1)
            ∧ (∀ e, findCmd s target = some e → e.job = none → abortable s e = true →
                ∃ v, exec (.abort c) s = .next (resumeJobs (resumeCmds v)) ∧ completed v c.id stSuccess 0
                  ∧ completed v target stAbortRequested 0
                  ∧ (findCmd v target).map (·.status) = some (some stAbortRequested)))
      ∧ (∀ c, fresh s c → adminPlain s c → c.nsid = 0 → c.c10 = 0 → c.c11 = 0 → (ctrlAt s c.id.fn).aers.length < 16 →
          (eventFor s c.id.fn = none →
              ∃ u, exec (.asyncEventRequest c) s = .next u ∧ (findCmd u c.id).map (·.phase) = some .held
                ∧ (ctrlAt u c.id.fn).aers = (ctrlAt s c.id.fn).aers ++ [c.id] ∧ u.host.waiting = s.host.waiting)
            ∧ (∀ e, eventFor s c.id.fn = some e →
                ∃ u, exec (.asyncEventRequest c) s = .next u ∧ completed u c.id stSuccess e.2
                  ∧ fld e.2 0 3 ∈ (ctrlAt u c.id.fn).masked))

/-- R41, R44, R54, R188, R198, R236, R241, R242, R247, R248, R250, R251, R252, R253, R254, R266, R271, R272, R273, R519: the other admin commands
and the SMBus commands. A change that a settings update saves holds its command until the commit (`heldForCommit`); a deletion, a format
and a sanitize take effect with that commit (log 138): a namespace deleted or formatted is then empty in the map, where no command or job
waits on it; a sanitize begun is reported until the update that ends it commits. SANITIZE_COMPLETE asks for that update, of a block
erase once no data is left. The places of fields in structures of NVMe are the model's (log 13). -/
def Obligations.AdminCommandsAnswerAndConfigure : Prop :=
  (∀ (s : State) (c : NvCmd), fresh s c → adminPlain s c →
    let fn := c.id.fn
    let nsid := c.nsid.toNat
    let sameNs : State → Prop := fun u => ∀ n, n ≠ nsid → tabGet u.ftl.namespaces n = tabGet s.ftl.namespaces n
    let recording : Prop := s.power.fence = false ∧ s.etch.jrnlHold = false ∧ liveBytes s < liveMax s
    let asks : State → SavedAct → Prop := fun u a => heldForCommit u c.id ∧ u.ftl.namespaces = s.ftl.namespaces
      ∧ (∀ k, entryAt u k = entryAt s k) ∧ u.host.sanitizing = s.host.sanitizing ∧ u.etch.deferred = s.etch.deferred
      ∧ ∃ w, u.etch.wanted = some w ∧ a ∈ w.acts
    (c.nsid = 0 → c.c11 = 0 → c.c10 = 1 →
        (∃ k u, exec (.identify c) s = .next u ∧ completed u c.id stSuccess 0 ∧ k ∈ u.host.waiting ∧ k.id = c.id
          ∧ k.data = identData s c 1 ∧ leAt k.data 77 1 = 9 ∧ leAt k.data 516 4 = 4096))
      ∧ (c.nsid = 0 → c.c11 = 0 → c.c10 = 0x7F80C0 →
          (fnTenant s fn = 1 →
              ∃ k u, exec (.getLogPage c) s = .next u ∧ completed u c.id stSuccess 0 ∧ k ∈ u.host.waiting ∧ k.id = c.id
                ∧ k.data = pageC0 s ∧ leAt k.data 4 2 = s.ftl.spareLeft % 65536)
            ∧ (fnTenant s fn ≠ 1 → ∃ u, exec (.getLogPage c) s = .next u ∧ completed u c.id stAccessDenied 0))
      ∧ (c.nsid = 0 →
          (c.c10 = 0x01 → c.c11.toNat &&& 0xF8 = 0 →
              ∃ u, exec (.setFeatures c) s = .next u ∧ completed u c.id stSuccess 0 ∧ featureAt u fn 0x01 0 = c.c11
                ∧ (∀ g, g ≠ fn → ctrlAt u g = ctrlAt s g))
            ∧ (c.c10 = 0x80000001 → c.c11.toNat &&& 0xF8 = 0 → etchGone s = false →
                ∃ u, exec (.setFeatures c) s = .next u ∧ heldForCommit u c.id ∧ featureAt u fn 0x01 0 = c.c11
                  ∧ tabGet u.host.features (savedKey fn 0x01) = some c.c11)
            ∧ (c.c10 = 0x02 → isPhysical s fn = true → c.c11.toNat ≤ 4 →
                ∃ u, exec (.setFeatures c) s = .next u ∧ completed u c.id stSuccess 0 ∧ u.power.ptarget = c.c11.toNat
                  ∧ u.power.changing = decide (c.c11.toNat ≠ s.power.pstate) ∧ u.power.pstate = s.power.pstate)
            ∧ (c.c10 = 0x02 → isPhysical s fn = false →
                ∃ u, exec (.setFeatures c) s = .next u ∧ completed u c.id stInvalidField 0)
            ∧ (c.c11 = 0 → c.c10 = 0x01 →
                ∃ u, exec (.getFeatures c) s = .next u ∧ completed u c.id stSuccess (featureAt s fn 0x01 0))
            ∧ (c.c11 = 0 → c.c10 = 0x02 →
                ∃ u, exec (.getFeatures c) s = .next u ∧ completed u c.id stSuccess (BitVec.ofNat 32 s.power.pstate)))
      ∧ (c.c11 = 0 → isPhysical s fn = true → s.host.sanitizing = none → etchGone s = false →
          (c.c10 = 0 → createCheck s c = none →
              ∃ u id n, exec (.namespaceManagement c) s = .next u ∧ freeNsid s = some id ∧ heldForCommit u c.id
                ∧ tabGet u.ftl.namespaces id = some n ∧ n.nsze = leAt (padTo 4096 c.data) 0 8
                ∧ n.owner = leAt (padTo 4096 c.data) 3078 2 ∧ n.attach = [] ∧ n.cipher = leAt (padTo 4096 c.data) 3074 1
                ∧ (∀ m, m ≠ id → tabGet u.ftl.namespaces m = tabGet s.ftl.namespaces m))
            ∧ (c.c10 = 1 → (tabGet s.ftl.namespaces nsid).isSome = true → nsid ≤ 4096 → recording →
                tabWf s.ftl.namespaces = true →
                ∃ u w, exec (.namespaceManagement c) s = .next u ∧ asks u (.deleteNs nsid) ∧ u.etch.wanted = some w
                  ∧ tabGet w.body.namespaces nsid = none))
      ∧ (∀ n fns, (c.c10 = 0 ∨ c.c10 = 1) → c.c11 = 0 → isPhysical s fn = true → etchGone s = false →
          attachCheck s c c.c10.toNat = none → tabGet s.ftl.namespaces nsid = some n →
          listedFns s (padTo 4096 c.data) = some fns →
          ∃ u m, exec (.namespaceAttachment c) s = .next u ∧ heldForCommit u c.id ∧ tabGet u.ftl.namespaces nsid = some m
            ∧ (∀ f, f ∈ m.attach ↔ if c.c10 = 0 then f ∈ n.attach ∨ f ∈ fns else f ∈ n.attach ∧ f ∉ fns)
            ∧ { m with attach := n.attach } = n ∧ sameNs u)
      ∧ (∀ n, tabGet s.ftl.namespaces nsid = some n → (c.c10 = 0 ∨ c.c10 = 1) → c.c11 = 0 → isPhysical s fn = true →
          s.host.sanitizing = none → etchGone s = false → n.home = s.cas.pos → recording →
          ∃ u, exec (.formatNvm c) s = .next u ∧ asks u (.formatNs nsid (if c.c10 = 1 then 512 else 4096) none))
      ∧ (c.nsid = 0 → isPhysical s fn = true → etchGone s = false →
          (∀ act, (act = 2 ∨ act = 4) → c.c10 = BitVec.ofNat 32 act → s.host.sanitizing = none →
              (pendingActs s).any isSanitize = false → recording →
              ∃ u, exec (.sanitize c) s = .next u ∧ asks u (.sanitize (act == 4)))
            ∧ (c.c10 = 1 → s.host.sanitizing = none → (pendingActs s).any isSanitize = false →
                ∃ u, exec (.sanitize c) s = .next u ∧ completed u c.id stSuccess 0 ∧ u.host.sanitizing = none)
            ∧ (c.c10 = 2 → s.host.sanitizing.isSome = true →
                ∃ u, exec (.sanitize c) s = .next u ∧ completed u c.id stSanitizing 0)))
  ∧ (∀ (s : State) (w : SetUpdate) (m : SetMirror) (a : SavedAct),
    s.etch.update = some w → canRecord s = true → mirrorOf s (s.etch.setSeq + 1) = some m → wordsDone s m.words = true →
    s.etch.jrnlHold = false → w.events = false → w.acts = [a] →
    let quietHost : Prop := s.host.exec = [] ∧ s.chn.jobs = []
    let tables : Prop := tabWf s.ftl.namespaces = true ∧ tabWf s.ftl.map = true ∧ tabWf s.ftl.overlay = true
    let emptied : State → Nat → Prop := fun v nsid =>
      (∀ n, n ≠ nsid → tabGet v.ftl.namespaces n = tabGet s.ftl.namespaces n)
        ∧ (∀ k, keyNsid k = nsid → entryAt v k = 0) ∧ (∀ k, keyNsid k ≠ nsid → entryAt v k = entryAt s k)
    ∃ v, exec .settingsCommit s = .next (resumeJobs (resumeCmds v)) ∧ v.etch.setSeq = s.etch.setSeq + 1
      ∧ (∀ nsid n, a = .deleteNs nsid → tabGet s.ftl.namespaces nsid = some n → 1 ≤ nsid → nsid ≤ 4096 → n.home = s.cas.pos →
          quietHost → tables → tabGet v.ftl.namespaces nsid = none ∧ emptied v nsid)
      ∧ (∀ nsid n size, a = .formatNs nsid size none → tabGet s.ftl.namespaces nsid = some n → 1 ≤ nsid → nsid ≤ 4096 →
          n.home = s.cas.pos → quietHost → tables →
          tabGet v.ftl.namespaces nsid = some { n with lbaSize := size, nsze := n.nsze * n.lbaSize / size } ∧ emptied v nsid)
      ∧ (∀ crypto, a = .sanitize crypto → v.host.sanitizing = some crypto ∧ v.host.sanitized = false ∧ v.etch.deferred = [])
      ∧ (a = .sanitizeEnd → v.host.sanitizing = none ∧ v.host.sanitized = true))
  ∧ (∀ (s : State) (crypto : Bool), s.host.sanitizing = some crypto → canRecord s = true → s.power.started = true →
      (pendingActs s).contains .sanitizeEnd = false →
      (crypto = true ∨ dataErased s = true →
          ∃ u w, exec .sanitizeComplete s = .next u ∧ u.host.sanitizing = some crypto ∧ u.etch.wanted = some w
            ∧ .sanitizeEnd ∈ w.acts ∧ w.body.sanitize = none ∧ w.body.sanitized = true)
        ∧ (crypto = false → dataErased s = false → exec .sanitizeComplete s = .next s))

/-- R41, R54, R242, R248, R271, R272, R273, R564: firmware images, secondary controllers, and the answers over SMBus. -/
def Obligations.FirmwareSecondaryControllersAndSmbus : Prop :=
  ∀ s : State,
    (∀ c, fresh s c → adminPlain s c → c.nsid = 0 → isPhysical s c.id.fn = true →
        let len := (c.c10.toNat + 1) * 4
        let off := c.c11.toNat * 4
        let g := fld c.c10 16 16 - 1
        (len % 4096 = 0 → off % 4096 = 0 → off + len ≤ 33554432 → len ≤ 2097152 →
            ∃ u, exec (.firmwareImageDownload c) s = .next u ∧ completed u c.id stSuccess 0
              ∧ (u.host.fwImage.drop off).take len = padTo len c.data
              ∧ (off ≤ s.host.fwImage.length → u.host.fwImage.take off = s.host.fwImage.take off))
          ∧ (c.c11 = 0 → ∀ signed,
              (c.c10.toNat < 16 → (fld c.c10 0 3 = 1 ∨ fld c.c10 0 3 = 2) →
                  (signed = true → s.host.fwImage ≠ [] →
                      ∃ u, exec (.firmwareCommit c signed) s = .next u ∧ completed u c.id stSuccess 0
                        ∧ (tabGet u.host.fwSlots (fld c.c10 0 3)).isSome = true
                        ∧ u.host.fwNext = (if fld c.c10 3 3 = 0 then s.host.fwNext else some (fld c.c10 0 3))
                        ∧ u.power.fwVersion = s.power.fwVersion)
                    ∧ (signed = false → ∃ u, exec (.firmwareCommit c signed) s = .next u ∧ completed u c.id stInvalidImage 0
                        ∧ u.host.fwSlots = s.host.fwSlots ∧ u.host.fwNext = s.host.fwNext))
                ∧ (16 ≤ c.c10.toNat → c.c10.toNat < 24 → (tabGet s.host.fwSlots (fld c.c10 0 3)).isSome = true →
                    (fld c.c10 0 3 = 1 ∨ fld c.c10 0 3 = 2) →
                    ∃ u, exec (.firmwareCommit c signed) s = .next u ∧ completed u c.id stSuccess 0
                      ∧ u.host.fwNext = some (fld c.c10 0 3) ∧ u.host.fwSlots = s.host.fwSlots))
          ∧ (1 ≤ fld c.c10 16 16 → fnPort s g = fnPort s c.id.fn → isPhysical s g = false → g ≠ c.id.fn → c.c11.toNat < 65536 →
              let n := c.c11.toNat
              (fld c.c10 0 16 = 0x108 → (ctrlAt s g).online = false → n ≤ 64 →
                  ∃ u, exec (.virtualizationManagement c) s = .next u ∧ completed u c.id stSuccess (BitVec.ofNat 32 n)
                    ∧ ctrlAt u g = { ctrlAt s g with flexI := n } ∧ (∀ f, f ≠ g → ctrlAt u f = ctrlAt s f))
                ∧ (fld c.c10 0 16 = 0x008 → (ctrlAt s g).online = false → n ≤ 1024 →
                    flexAssigned s (fnPort s g) - (ctrlAt s g).flexQ + n ≤ flexPool s →
                    ∃ u, exec (.virtualizationManagement c) s = .next u ∧ completed u c.id stSuccess (BitVec.ofNat 32 n)
                      ∧ ctrlAt u g = { ctrlAt s g with flexQ := n } ∧ (∀ f, f ≠ g → ctrlAt u f = ctrlAt s f))
                ∧ (fld c.c10 0 16 = 0x008 → (ctrlAt s g).online = true →
                    ∃ u, exec (.virtualizationManagement c) s = .next u ∧ completed u c.id stSecState 0)
                ∧ (fld c.c10 0 16 = 0x009 → 1 ≤ (ctrlAt s g).flexQ → 1 ≤ (ctrlAt s g).flexI →
                    ∃ u, exec (.virtualizationManagement c) s = .next u ∧ completed u c.id stSuccess 0
                      ∧ ctrlAt u g = { ctrlAt s g with online := true } ∧ (∀ f, f ≠ g → ctrlAt u f = ctrlAt s f))
                ∧ (fld c.c10 0 16 = 0x007 →
                    ∃ u, exec (.virtualizationManagement c) s = .next u ∧ completed u c.id stSuccess 0
                      ∧ (ctrlAt u g).online = false ∧ (ctrlAt u g).flexQ = 0 ∧ (ctrlAt u g).flexI = 0)))
      ∧ (s.power.pwrOk = true → s.power.casRole = true → s.power.shutdown = false →
          let bit : State → Nat → Nat → Bool := fun u i b => ((u.host.smbus[i]?).getD 0).toNat.testBit b
          (∃ u, exec .smbusBasicStatus s = .next u ∧ u.host.smbus.length = 7 ∧ u.host.smbus[0]? = some 6
              ∧ bit u 1 6 = !s.power.ready
              ∧ bit u 1 5 = (!s.power.settingsRecovery && !s.power.noImage && decide (s.cas.roleCode ≠ 3))
              ∧ (s.power.noImage = true → u.host.smbus[2]? = some 0)
              ∧ u = { s with host := { s.host with smbus := u.host.smbus }, freeCount := u.freeCount })
            ∧ (∃ u, exec .smbusVendorSerial s = .next u ∧ u.host.smbus.length = 23 ∧ u.host.smbus[0]? = some 22
              ∧ u = { s with host := { s.host with smbus := u.host.smbus }, freeCount := u.freeCount }))
      ∧ (s.power.casRole = false → exec .smbusBasicStatus s = .next s ∧ exec .smbusVendorSerial s = .next s)

/-! ### I/O commands -/

/-- R32, R155, R157, R186, R187, R203, R249, R255, R257, R258: one block of a 4 KiB namespace, with no other command in execution. A Write
moves its data into a free extent and its record waits to be built; the map still names the old place. A Read, Compare or Verify
of a unit in the Etch buffer, or of one that is not mapped, completes at once; one on flash waits for its codeword. Zeroing and
deallocating a whole unit queue their records. -/
def Obligations.BlockWritesReadsAndDeallocations : Prop :=
  ∀ (s : State) (c : NvCmd) (n : Namespace), s.host.exec = [] → tabGet s.ftl.namespaces c.nsid.toNat = some n → n.coarse = false →
    n.lbaSize = 4096 → n.cipher = 0 → n.home = s.cas.pos → strictOn s = false → nlbOf c = 1 → c.memOk = true →
    let a := slbaOf c
    let k := unitKey c.nsid.toNat a
    let en := entryAt s k
    let tenant := fnTenant s c.id.fn
    let range := [(a, 1)]
    let mapSame : State → Prop := fun u => ∀ j, entryAt u j = entryAt s j
    let writable : Prop := s.power.fence = false ∧ pagesWanted s k = [] ∧ k ∉ busyUnits s ∧ s.etch.jrnlHold = false
    let readable : Prop := pagesWanted s k = [] ∧ (eKind en = 2 → slotLost s (eSlot en) = false) ∧ (ePoison en).testBit 0 = false
    let plain : List Byte := unitPlain s c.nsid.toNat a n en
    (∀ slot, writable → ioChecks s c (reservedWrite c) range (some (true, 4096)) true = none → s.etch.admitHold = false →
        tenantSlots s tenant + 1 ≤ etchShare s tenant → freeExtent s 1 = some slot → Memory.wf s.etch.mem = true →
        ∃ u b e, exec (.write c) s = .next u ∧ (findCmd u c.id).map (·.phase) = some .moving ∧ mapSame u
          ∧ u.etch.moving = s.etch.moving ++ [b] ∧ b.type = 1 ∧ b.cmd = some c.id ∧ b.last = true ∧ b.entries = [e]
          ∧ e.key = jUnitKey k ∧ e.old = en ∧ eKind e.new = 2 ∧ eSlot e.new = slot ∧ ePoison e.new = 0
          ∧ extentBytes u slot 1 = padTo 4096 c.data ∧ u.etch.built = s.etch.built)
      ∧ (readable → ioChecks s c (reservedRead c) range (some (false, 4096)) false = none →
          (eKind en ≠ 1 → ∃ r u, exec (.read c) s = .next u ∧ completed u c.id stSuccess 0 ∧ r ∈ u.host.waiting ∧ r.id = c.id
              ∧ r.data = plain ∧ (eKind en = 2 → plain = extentBytes s (eSlot en) 1)
              ∧ (eKind en = 0 ∨ eKind en = 3 → plain = zeros 4096) ∧ mapSame u)
            ∧ (eKind en = 1 → eComp en = false →
                ∃ x u, exec (.read c) s = .next u ∧ findCmd u c.id = some x ∧ x.phase = .reading ∧ x.pend = 1
                  ∧ x.blocks = [blockKey (eDie en) (eBlock en)]
                  ∧ tabAt 0 u.ftl.readHolds (blockKey (eDie en) (eBlock en))
                      = tabAt 0 s.ftl.readHolds (blockKey (eDie en) (eBlock en)) + 1 ∧ mapSame u))
      ∧ (readable → ioChecks s c (reservedRead c) range (some (true, 4096)) false = none → eKind en ≠ 1 →
          ∃ u, exec (.compare c) s = .next u ∧ mapSame u
            ∧ completed u c.id (if plain = padTo 4096 c.data then stSuccess else stCompareFail) 0)
      ∧ (readable → ioChecks s c (reservedVerify c) range none false = none → eKind en ≠ 1 →
          ∃ u, exec (.verify c) s = .next u ∧ mapSame u ∧ completed u c.id stSuccess 0)
      ∧ (writable → ioChecks s c (reservedZeroes c) range none true = none →
          ∃ u b e, exec (.writeZeroes c) s = .next u ∧ (findCmd u c.id).map (·.phase) = some .built ∧ mapSame u
            ∧ u.etch.built = s.etch.built ++ [b] ∧ b.type = 2 ∧ b.cmd = some c.id ∧ b.entries = [e] ∧ e.key = jUnitKey k
            ∧ eKind e.new = 3)
      ∧ (∀ slba, c.c10 = 0 → c.c11 = 4 → dsmRanges c = [(slba, 1)] → s.power.fence = false → s.etch.jrnlHold = false →
          pagesWanted s (unitKey c.nsid.toNat slba) = [] →
          ioChecks s c (reservedDsm c) [(slba, 1)] (some (true, 16)) true = none →
          ∃ u b e, exec (.datasetManagement c) s = .next u ∧ completed u c.id stSuccess 0 ∧ mapSame u
            ∧ u.etch.built = s.etch.built ++ [b] ∧ b.type = 3 ∧ b.entries = [e] ∧ e.key = jUnitKey (unitKey c.nsid.toNat slba)
            ∧ e.old = entryAt s (unitKey c.nsid.toNat slba) ∧ e.new = unmappedEntry)
      ∧ (c.c11 = 0 → ioChecks s c (reservedDsm c) (dsmRanges c) (some (true, 16 * (dsmRanges c).length)) true = none →
          ∃ u, exec (.datasetManagement c) s = .next u ∧ completed u c.id stSuccess 0 ∧ mapSame u ∧ u.etch = s.etch)
      ∧ (reservedOk (reservedAll c) = true → s.power.settingsRecovery = false → c.id.fn ∈ n.attach → s.etch.deliveries = [] →
          ∃ u, exec (.flush c) s = .next u ∧ completed u c.id stSuccess 0 ∧ u = { s with host := u.host, bus := u.bus })

/-- R134, R156, R223, R249, R256, R262, R615: where I/O commands wait or fail. -/
def Obligations.IoCommandsFailOrWaitAsStated : Prop :=
  ∀ (s : State) (c : NvCmd), s.host.exec = [] →
    let len := nlbOf c * lbaSizeOf s c
    let nsid := c.nsid.toNat
    (∀ st, ioChecks s c (reservedWrite c) [(slbaOf c, nlbOf c)] (some (true, len)) true = some st → st ≠ stDeferred →
        ∃ u, exec (.write c) s = .next u ∧ completed u c.id st 0 ∧ u.etch = s.etch ∧ u.ftl = s.ftl)
      ∧ (s.power.settingsRecovery = false → reservedOk (reservedRead c) = true → nsFor s c.id.fn nsid = none →
          ∃ u, exec (.read c) s = .next u ∧ completed u c.id stInvalidNs 0 ∧ u.etch = s.etch ∧ u.ftl = s.ftl)
      ∧ (∀ n, s.power.settingsRecovery = false → reservedOk (reservedRead c) = true → nsFor s c.id.fn nsid = some n →
          n.nsze < slbaOf c + nlbOf c →
          ∃ u, exec (.read c) s = .next u ∧ completed u c.id stLbaRange 0 ∧ u.etch = s.etch ∧ u.ftl = s.ftl)
      ∧ (∀ n, tabGet s.ftl.namespaces nsid = some n → n.home = s.cas.pos → strictOn s = false → s.power.fence = true →
          ioChecks s c (reservedWrite c) [(slbaOf c, nlbOf c)] (some (true, len)) true = none →
          ∃ v, exec (.write c) s = .next (resumeCmds v) ∧ (findCmd v c.id).map (·.phase) = some .waitOrder ∧ v.etch = s.etch
            ∧ v.ftl = s.ftl)
      ∧ (ioChecks s c (reservedRead c) [(slbaOf c, nlbOf c)] (some (false, len)) false = some stDeferred →
          ∃ u, exec (.read c) s = .next u
            ∧ completed u c.id stDeferred (BitVec.ofNat 32 ((s.etch.deferred.filter (fun d => d.nsid == nsid)).length))
            ∧ (∀ d ∈ u.etch.deliveries, ¬ (d.1 = c.id.fn ∧ d.2.1 = nsid)))

/-- R249: reservations. -/
def Obligations.ReservationsRegisterHoldAndRelease : Prop :=
  ∀ (s : State) (c : NvCmd) (n : Namespace), fresh s c → c.c0 = 0 → c.c2 = 0 → c.c3 = 0 → c.c11 = 0 → c.c12 = 0 → c.c13 = 0 →
    c.c14 = 0 → c.c15 = 0 → c.ptr = .prp → c.memOk = true →
    s.power.settingsRecovery = false → tabGet s.ftl.namespaces c.nsid.toNat = some n → c.id.fn ∈ n.attach →
    s.etch.deliveries = [] →
    let fn := c.id.fn
    let nsid := c.nsid.toNat
    let r := reservationAt s nsid
    let rt := fld c.c10 8 8
    let others : State → Prop := fun u => ∀ m, m ≠ nsid → reservationAt u m = reservationAt s m
    (c.c10 = 0 → tabGet r.regs fn = none →
        ∃ u, exec (.reservationRegister c) s = .next u ∧ completed u c.id stSuccess 0 ∧ others u
          ∧ tabGet (reservationAt u nsid).regs fn = some (BitVec.ofNat 64 (leAt c.data 8 8))
          ∧ (reservationAt u nsid).gen = (r.gen + 1) % 2 ^ 32 ∧ (reservationAt u nsid).holder = r.holder)
      ∧ (∀ key : Qword, tabGet r.regs fn = some key → key.toNat = leAt c.data 0 8 →
          (fld c.c10 0 8 = 0 → fld c.c10 16 16 = 0 → 1 ≤ rt → rt ≤ 6 →
              (r.holder = none →
                  ∃ u, exec (.reservationAcquire c) s = .next u ∧ completed u c.id stSuccess 0 ∧ others u
                    ∧ reservationAt u nsid = { r with holder := some fn, rtype := rt })
                ∧ (∀ h, r.holder = some h → h ≠ fn → r.rtype ≠ 5 → r.rtype ≠ 6 →
                    ∃ u, exec (.reservationAcquire c) s = .next u ∧ completed u c.id stReservation 0
                      ∧ reservationAt u nsid = r)
                ∧ (r.holder = some fn → r.rtype = rt →
                    ∃ u, exec (.reservationRelease c) s = .next u ∧ completed u c.id stSuccess 0 ∧ others u
                      ∧ reservationAt u nsid = { r with holder := none, rtype := 0 }))
            ∧ (c.c10 = 1 →
                ∃ u, exec (.reservationRelease c) s = .next u ∧ completed u c.id stSuccess 0 ∧ others u
                  ∧ (reservationAt u nsid).regs = [] ∧ (reservationAt u nsid).holder = none))
      ∧ (tabGet r.regs fn = none → c.c10 = 0x100 →
          ∃ u, exec (.reservationAcquire c) s = .next u ∧ completed u c.id stReservation 0 ∧ reservationAt u nsid = r)
      ∧ (∃ k u, exec (.reservationReport c) s = .next u ∧ completed u c.id stSuccess 0 ∧ k ∈ u.host.waiting ∧ k.id = c.id
          ∧ k.data.length = (c.c10.toNat + 1) * 4 ∧ leAt k.data 0 4 = r.gen % 2 ^ 32
          ∧ (c.c10.toNat ≥ 1 → leAt k.data 4 1 = r.rtype % 256) ∧ u = { s with host := u.host, bus := u.bus })

/-! ### Oreozer commands -/

/-- R282, R283, R285 to R293, R308, R310, R343, R477, R510, R616: programs and channels. A loaded program and a new channel have an identifier that
names them; a destroyed one's names them no more. -/
def Obligations.ProgramsAndChannelsLiveByTheirHandles : Prop :=
  ∀ (s : State) (c : NvCmd), fresh s c → s.power.settingsRecovery = false → c.ptr = .prp → c.memOk = true → c.nsid = 0 →
    c.c0 = 0 → c.c2 = 0 → c.c3 = 0 →
    let tenant := fnTenant s c.id.fn
    let args : Prop := c.c12 = 0 ∧ c.c13 = 0 ∧ c.c14 = 0 ∧ c.c15 = 0
    let goes : Instr → State → Prop := fun i v => exec i s = .next (resumeCmds v)
    (args → c.c11.toNat ≤ 1 → c.c10.toNat % 4 = 0 → 64 ≤ c.c10.toNat → c.c10.toNat ≤ 1048576 →
        let im := padTo c.c10.toNat c.data
        let i := s.chn.pused
        (programOk c.c11.toNat im = true → programsUsed s tenant < (tenantAt s tenant).programs → i < 4096 →
            tabGet s.chn.pgens i = none →
            ∃ u id p, exec (.programLoad c) s = .next u ∧ completed u c.id stSuccess (BitVec.ofNat 32 id)
              ∧ id % 4096 = i ∧ 1 ≤ id / 4096 ∧ id / 4096 ≤ 15 ∧ progFor u tenant id = some p ∧ p.kind = c.c11.toNat ∧ p.image = im
              ∧ p.runs = 0 ∧ (∀ k, k ≠ id → tabGet u.chn.programs k = tabGet s.chn.programs k))
          ∧ (programOk c.c11.toNat im = false →
              ∃ u, exec (.programLoad c) s = .next u ∧ completed u c.id stInvalidField 0 ∧ u.chn = s.chn)
          ∧ (programOk c.c11.toNat im = true → (tenantAt s tenant).programs ≤ programsUsed s tenant →
              ∃ u, exec (.programLoad c) s = .next u ∧ completed u c.id stQuota 0 ∧ u.chn = s.chn
                ∧ rsqAt u evTnt = rsqSet (rsqAt s evTnt) [4]))
      ∧ (args → c.c11 = 0 → c.c10.toNat < 65536 →
          let id := c.c10.toNat
          (∀ p, progFor s tenant id = some p → progNamed s id = false → tabWf s.chn.programs = true →
              ∃ u, exec (.programUnload c) s = .next u ∧ completed u c.id stSuccess 0 ∧ tabGet u.chn.programs id = none
                ∧ tabGet u.chn.pgens (id % 4096) = some (if id / 4096 = 15 then 1 else id / 4096 + 1))
            ∧ (progFor s tenant id = none →
                ∃ u, exec (.programUnload c) s = .next u ∧ completed u c.id stInvalidHandle 0 ∧ u.chn = s.chn)
            ∧ ((progFor s tenant id).isSome = true → progNamed s id = true →
                ∃ u, exec (.programUnload c) s = .next u ∧ completed u c.id stSequence 0 ∧ u.chn = s.chn))
      ∧ (let ch := specCreate s c
         let slot := s.chn.used
         listChecks false ch c.c10 c.c11 [c.c12, c.c13, c.c14, c.c15] = true → upstreamCheck s ch = none → nsCheck s ch = none →
         ch.stages.all (stageKeyOk s tenant) = true → ch.stages.all (stageProgOk s tenant false) = true →
         pairOk s [] ch.stages = true →
         (channelsUsed s tenant < (tenantAt s tenant).channels → dramFits s tenant (regionBytes (channelBytes ch)) = true →
            slot < 16384 → tabGet s.chn.gens slot = none → channelAt s slot = none → (∀ b ∈ channelBytes ch, b = 0) →
            ∃ u h x, exec (.channelCreate c) s = .next u ∧ completed u c.id stSuccess h ∧ resolve u tenant h = some slot
              ∧ channelAt u slot = some x ∧ x.src = ch.src ∧ x.srcParam = ch.srcParam ∧ x.snk = ch.snk ∧ x.snkParam = ch.snkParam
              ∧ x.stages = ch.stages ∧ x.qdepth = ch.qdepth ∧ x.jobs = [] ∧ u.chn.jobs = s.chn.jobs)
          ∧ ((tenantAt s tenant).channels ≤ channelsUsed s tenant →
              ∃ u, exec (.channelCreate c) s = .next u ∧ completed u c.id stQuota 0 ∧ u.chn = s.chn
                ∧ rsqAt u evTnt = rsqSet (rsqAt s evTnt) [4]))
      ∧ (args → c.c10 = 1 → c.c11.toNat ≤ 1 →
          let h := BitVec.ofNat 32 (leAt c.data 0 4)
          (∀ slot, resolve s tenant h = some slot → s.chn.jobs = [] →
              ∃ v, goes (.channelDestroy c) v ∧ (channelAt v slot).bind (·.dying) = some (decide (c.c11 = 1))
                ∧ resolve v tenant h = none ∧ (findCmd v c.id).map (·.phase) = some .held
                ∧ ∃ d, v.chn.destroys = s.chn.destroys ++ [d] ∧ d.id = c.id ∧ d.slots = [slot] ∧ d.bad = false)
            ∧ (resolve s tenant h = none → ∃ v, goes (.channelDestroy c) v ∧ completed v c.id stInvalidHandle 0))
      ∧ (∀ slot x w id n, channelAt s slot = some x → x.dying = some w → tabWf s.chn.slots = true →
          s.chn.destroys = [{ id := id, slots := [slot], done := n, bad := false }] →
          (jobsOn s slot = [] → (∀ d ∈ s.chn.drains, d.slot ≠ slot) →
              ∃ u, exec (.destroyComplete slot) s = .next u ∧ channelAt u slot = none
                ∧ completed u id stSuccess (BitVec.ofNat 32 (n + 1)) ∧ u.chn.destroys = []
                ∧ genOf u slot = (if genOf s slot = 16383 then 1 else genOf s slot + 1))
            ∧ (jobsOn s slot ≠ [] → exec (.destroyComplete slot) s = .next s))
      ∧ (c.c11 = 0 → c.c12 = 0 → c.c13 = 0 → c.c14 = 0 → c.c15 = 0 →
          (∀ slot x, resolve s tenant c.c10 = some slot → channelAt s slot = some x →
              ∃ u d, exec (.channelDrain c) s = .next u ∧ (findCmd u c.id).map (·.phase) = some .running
                ∧ u.chn.drains = s.chn.drains ++ [d] ∧ d.id = c.id ∧ d.slot = slot ∧ d.jobs = x.jobs)
            ∧ (resolve s tenant c.c10 = none →
                ∃ u, exec (.channelDrain c) s = .next u ∧ completed u c.id stInvalidHandle 0 ∧ u.chn = s.chn))
      ∧ (∀ d x, s.chn.drains.find? (fun e => e.id == c.id) = some d → channelAt s d.slot = some x →
          ((∀ j ∈ d.jobs, tabGet s.chn.jobs j = none) →
              ∃ u, exec (.drainComplete c.id) s = .next u ∧ u.chn.drains = s.chn.drains.erase d
                ∧ (d.exp = none → completed u c.id stSuccess 0)
                ∧ (∀ r i, d.zero = true → x.pool = some r → i < x.snkParam * 1048576 →
                    memByte u.drc.dram (regionBase s r * 4096 + i) = 0))
            ∧ ((∃ j ∈ d.jobs, (tabGet s.chn.jobs j).isSome = true) → exec (.drainComplete c.id) s = .next s))

/-- R294 to R300, R312, R313, R315: jobs are admitted, appends are given their regions, queries run on a channel of their own. -/
def Obligations.JobsAndAppendsAreAdmitted : Prop :=
  ∀ (s : State) (c : NvCmd), fresh s c → s.power.settingsRecovery = false → c.memOk = true → c.c0 = 0 → c.c2 = 0 →
    c.c3 = 0 →
    let tenant := fnTenant s c.id.fn
    let goes : Instr → State → Prop := fun i v => exec i s = .next (resumeCmds v)
    let j := s.chn.nextJob
    (∀ src snk data slot ch, c.ptr = .prp → c.data.length = 128 → c.nsid = 0 → c.c10 = 0 → c.c11 = 0 → c.c12 = 0 → c.c13 = 0 →
        c.c14 = 0 → c.c15 = 0 → resolve s tenant (BitVec.ofNat 32 (leAt c.data 0 4)) = some slot → channelAt s slot = some ch →
        ch.src ≤ 1 →
        let a : JobAsk := { slot := slot, desc := c.data, src := src, snk := snk, append := false, data := data }
        (jobChecks s c a [] = none → jobAway s slot = none →
            ∃ v b, goes (.jobSubmit c src snk data) v ∧ jobAt v j = some b ∧ b.cmd = c.id ∧ b.slot = slot ∧ b.tenant = ch.tenant
              ∧ b.begun = false ∧ b.entered = (ch.waitJobs.isEmpty && decide (ch.jobs.length < ch.qdepth))
              ∧ (b.entered = true → (channelAt v slot).map (·.jobs) = some (ch.jobs ++ [j]))
              ∧ (b.entered = false → (channelAt v slot).map (·.waitJobs) = some (ch.waitJobs ++ [j]))
              ∧ (findCmd v c.id).map (·.job) = some (some j) ∧ v.chn.nextJob = j + 1)
          ∧ (∀ st, jobChecks s c a [] = some st → st ≠ stDeferred → st ≠ stQuota →
              ∃ v, goes (.jobSubmit c src snk data) v ∧ completed v c.id st 0 ∧ v.chn = s.chn)
          ∧ (jobChecks s c a [] = some stQuota →
              ∃ v, goes (.jobSubmit c src snk data) v ∧ completed v c.id stQuota 0 ∧ v.chn = s.chn))
      ∧ (∀ src snk data, c.ptr = .prp → c.data.length = 128 → c.nsid = 0 → c.c10 = 0 → c.c11 = 0 → c.c12 = 0 → c.c13 = 0 →
          c.c14 = 0 → c.c15 = 0 → resolve s tenant (BitVec.ofNat 32 (leAt c.data 0 4)) = none →
          ∃ v, goes (.jobSubmit c src snk data) v ∧ completed v c.id stInvalidHandle 0 ∧ v.chn = s.chn)
      ∧ (∀ n, s.host.exec = [] → c.c12 = 0 → tabGet s.ftl.namespaces c.nsid.toNat = some n → n.home = s.cas.pos → strictOn s = false →
          ioChecks s c (reservedAppend c) [] (some (true, c.c10.toNat)) true = none →
          (c.c10.toNat ≠ 0 → c.c10.toNat % n.lbaSize = 0 →
              ∃ u x, exec (.streamAppend c) s = .next u ∧ findCmd u c.id = some x ∧ x.phase = .waitOrder ∧ x.opcode = 0x85
                ∧ x.assigned = false ∧ u.etch = s.etch ∧ u.ftl = s.ftl)
            ∧ (c.c10.toNat = 0 ∨ c.c10.toNat % n.lbaSize ≠ 0 →
                ∃ u, exec (.streamAppend c) s = .next u ∧ completed u c.id stInvalidField 0 ∧ u.etch = s.etch ∧ u.ftl = s.ftl))
      ∧ (∀ id e n, findCmd s id = some e → e.opcode = 0x85 → e.assigned = false → e.job = none → e.phase = .waitOrder →
          tabGet s.ftl.namespaces e.nsid = some n → n.home = s.cas.pos → heldByOrder s e = false → s.power.fence = false →
          let count := e.cmd.c10.toNat / n.lbaSize
          let need := ceilDiv count (lbasPerUnit n) * unitCws n
          let at_ := appendPoint s e.nsid n
          admission s e.tenant e.nsid n (Nat.min need 256) need true = .pass →
          (at_ + count ≤ n.nsze →
              exec (.appendRegionAssign id) s = .next (resumeCmds
                (ioTry (updCmd s id (fun x => { x with assigned := true, slba := at_, nlb := count })) id)))
            ∧ (n.nsze < at_ + count → ∃ v, exec (.appendRegionAssign id) s = .next (resumeCmds v) ∧ completed v id stCapacity 0))
      ∧ (∀ nsid n k, keyNsid k = nsid → eKind (entryAt s k) ≠ 0 → (keyUnit k + 1) * lbasPerUnit n ≤ appendPoint s nsid n)
      ∧ (∀ src snk data, queryChecks c s = none → queryProgLen c = 0 →
          let t := intake s c 0x89 true
          let r := createChannel t (querySpec t c) true []
          (r.slot = none → ∃ v, goes (.query c src snk data) v ∧ completed v c.id r.st 0)
            ∧ (∀ slot ch, r.slot = some slot → channelAt r.s slot = some ch →
                jobChecks r.s c { slot := slot, desc := sliceOf c.data 32 128, src := src, snk := snk, append := false, data := data } []
                  = none → jobAway r.s slot = none →
                ∃ v b x, goes (.query c src snk data) v ∧ jobAt v r.s.chn.nextJob = some b ∧ b.cmd = c.id ∧ b.slot = slot
                  ∧ channelAt v slot = some x ∧ x.temp = true ∧ ∀ h, resolve v tenant h ≠ some slot))

/-- R411, R415, R417, R420 to R423, R504 to R515: Tenant Configure and Key Import. A change that a settings update saves holds its command until the
commit. -/
def Obligations.TenantsAndKeySlotsAreConfigured : Prop :=
  ∀ (s : State) (c : NvCmd), fresh s c → s.power.settingsRecovery = false → c.ptr = .prp → c.memOk = true → c.c0 = 0 → c.c2 = 0 →
    c.c3 = 0 → c.nsid = 0 →
    let fn := c.id.fn
    (∀ tn act : Nat, 1 ≤ tn → tn ≤ 1024 → act ≤ 6 → c.c10 = BitVec.ofNat 32 (tn + act * 65536) →
        let noArgs : Prop := c.c11 = 0 ∧ c.c12 = 0 ∧ c.c13 = 0 ∧ c.c14 = 0 ∧ c.c15 = 0
        let g := fld c.c11 0 10
        let on_ : Prop := (tenantAt s tn).enabled = true
        let units := c.c12.toNat * 256
        let others : State → Prop := fun u => ∀ t, t ≠ tn → tenantAt u t = tenantAt s t
        (isPhysical s fn = true →
            (act = 0 → noArgs → ∃ k u, exec (.tenantConfigure c) s = .next u ∧ completed u c.id stSuccess 0 ∧ k ∈ u.host.waiting
                ∧ k.id = c.id ∧ k.data = tenantRecord s tn ∧ leAt k.data 0 2 = tn ∧ k.data.length = 256
                ∧ u = { s with host := u.host, bus := u.bus })
              ∧ (act = 1 → noArgs →
                  (¬ on_ → etchGone s = false → ∃ u, exec (.tenantConfigure c) s = .next u ∧ heldForCommit u c.id
                      ∧ tenantAt u tn = {} ∧ others u)
                    ∧ (on_ → ∃ u, exec (.tenantConfigure c) s = .next u ∧ completed u c.id stSequence 0 ∧ u.tenants = s.tenants))
              ∧ (act = 2 → noArgs → tn ≠ 1 → etchGone s = false → (∀ f, f < 1024 → fnTenant s f ≠ tn) →
                  (∀ e ∈ s.ftl.namespaces, e.2.owner ≠ tn) → tabWf s.chn.programs = true →
                  ∃ u, exec (.tenantConfigure c) s = .next u ∧ heldForCommit u c.id
                    ∧ tenantAt u tn = { tenantAt s tn with enabled := false } ∧ others u
                    ∧ (∀ i p, tabGet u.chn.programs i = some p → p.tenant ≠ tn) ∧ (∀ k, (slotAt u k).owner ≠ tn)
                    ∧ (∀ k, (slotAt s k).owner ≠ tn → slotAt u k = slotAt s k))
              ∧ (act = 3 → c.c11.toNat < 1024 → c.c12 = 0 → c.c13 = 0 → c.c14 = 0 → c.c15 = 0 → isPhysical s g = false →
                  fnPort s g = fnPort s fn → (ctrlAt s g).en = false → on_ → etchGone s = false →
                  (∀ e ∈ s.chn.slots, e.2.fn ≠ g) →
                  ∃ u, exec (.tenantConfigure c) s = .next u ∧ heldForCommit u c.id ∧ fnTenant u g = tn
                    ∧ (∀ f, f ≠ g → fnTenant u f = fnTenant s f) ∧ ∀ t, tenantAt u t = tenantAt s t)
              ∧ (∀ ch pr mib ks pct prio jobs : Nat, act = 4 → on_ → etchGone s = false → ch ≤ 16384 → pr ≤ 4096 → mib ≤ 524288 →
                  ks ≤ 4096 → pct ≤ 100 → prio < 64 → jobs < 65536 → c.c11 = BitVec.ofNat 32 (ch + pr * 65536) →
                  c.c12 = BitVec.ofNat 32 mib → c.c13 = BitVec.ofNat 32 (ks + pct * 65536 + prio * 16777216) →
                  c.c14 = BitVec.ofNat 32 jobs → c.c15 = 0 →
                  ∃ u, exec (.tenantConfigure c) s = .next u ∧ heldForCommit u c.id ∧ others u
                    ∧ tenantAt u tn = { enabled := true, prio := prio, channels := ch, programs := pr, keySlots := ks,
                                        dramMib := mib, jobs := jobs, etchPct := pct })
              ∧ (act = 5 → c.c11.toNat < 1024 → 1 ≤ c.c12.toNat → c.c12.toNat ≤ 65536 → c.c13.toNat ≤ 1 → c.c14 = 0 → c.c15 = 0 →
                  tabGet s.tenants.regions g = none → on_ →
                  (∀ b, placeRegion s 0 units = some b → dramFits s tn (units * 4096) = true →
                      ∃ u, exec (.tenantConfigure c) s = .next u ∧ completed u c.id stSuccess 0
                        ∧ tabGet u.tenants.regions g = some (⟨b, b + units - 1, tn, true, decide (c.c13 = 1), false, 0, true⟩ : Region)
                        ∧ (∀ i, i ≠ g → tabGet u.tenants.regions i = tabGet s.tenants.regions i)
                        ∧ (∀ a, memByte u.drc.dram a
                            = if b * 4096 ≤ a ∧ a < (b + units) * 4096 then 0 else memByte s.drc.dram a))
                    ∧ ((placeRegion s 0 units = none ∨ dramFits s tn (units * 4096) = false) →
                      ∃ u, exec (.tenantConfigure c) s = .next u ∧ completed u c.id stQuota 0 ∧ u.tenants = s.tenants
                        ∧ rsqAt u evTnt = rsqSet (rsqAt s evTnt) [4]))
              ∧ (∀ r, act = 6 → c.c11.toNat < 1024 → c.c12 = 0 → c.c13 = 0 → c.c14 = 0 → c.c15 = 0 →
                  tabGet s.tenants.regions g = some r → r.tenant = tn → r.space = 0 → windowBound s g = false →
                  tabWf s.tenants.regions = true →
                  ∃ u, exec (.tenantConfigure c) s = .next u ∧ completed u c.id stSuccess 0 ∧ tabGet u.tenants.regions g = none
                    ∧ ∀ a, memByte u.drc.dram a
                        = if r.base * 4096 ≤ a ∧ a < (r.base + (r.last + 1 - r.base)) * 4096 then 0 else memByte s.drc.dram a))
          ∧ (isPhysical s fn = false → noArgs →
              ∃ u, exec (.tenantConfigure c) s = .next u ∧ completed u c.id stInvalidField 0 ∧ u.tenants = s.tenants))
      ∧ (∀ slot part last : Nat, slot < 4096 → part < 8 → last ≤ 1 → c.c11 = 0 →
          c.c10 = BitVec.ofNat 32 (slot + part * 65536 + last * 524288) →
          let bs := partBytes c
          let tenant := fnTenant s fn
          let old := slotAt s slot
          let slotsSame : State → Prop := fun u => u.cry.slots = s.cry.slots
          (last = 0 → part = 0 →
              ∃ u, exec (.keyImport c) s = .next u ∧ completed u c.id stSuccess 0 ∧ slotsSame u
                ∧ tabGet u.cry.assemblies fn = some { slot := slot, bytes := bs, parts := 1, at_ := now s })
            ∧ (∀ a : Assembly, last = 0 → 1 ≤ part → tabGet s.cry.assemblies fn = some a →
                (a.slot = slot → a.parts = part → now s ≤ a.at_ + 1000000000 →
                    ∃ u, exec (.keyImport c) s = .next u ∧ completed u c.id stSuccess 0 ∧ slotsSame u
                      ∧ tabGet u.cry.assemblies fn
                          = some { slot := slot, bytes := a.bytes ++ bs, parts := part + 1, at_ := now s })
                  ∧ ((a.slot ≠ slot ∨ a.parts ≠ part ∨ a.at_ + 1000000000 < now s) → tabWf s.cry.assemblies = true →
                    ∃ u, exec (.keyImport c) s = .next u ∧ completed u c.id stSequence 0 ∧ slotsSame u
                      ∧ tabGet u.cry.assemblies fn = none))
            ∧ (∀ a b, last = 1 → nextAssembly s fn slot part bs = some a → b = a.bytes → slotNamed s slot = false →
                (old.st = 0 ∨ old.owner = tenant) → etchGone s = false →
                (leAt b 1 1 = 0 → blobFieldsOk b = true →
                    ∃ u, exec (.keyImport c) s = .next u ∧ heldForCommit u c.id ∧ slotAt u slot = {}
                      ∧ ∀ k, k ≠ slot → slotAt u k = slotAt s k)
                  ∧ (∀ key, leAt b 1 1 ≠ 0 → blobFieldsOk b = true → blobKey s tenant slot b = some key →
                      (old.st ≠ 0 ∨ keySlotsUsed s tenant < (tenantAt s tenant).keySlots) →
                      ∃ u, exec (.keyImport c) s = .next u ∧ heldForCommit u c.id ∧ (∀ k, k ≠ slot → slotAt u k = slotAt s k)
                        ∧ (slotAt u slot).st = 1 ∧ (slotAt u slot).kind = (if leAt b 1 1 = 1 then 1 else 2)
                        ∧ (slotAt u slot).origin = 1 ∧ (slotAt u slot).owner = tenant ∧ (slotAt u slot).key = key
                        ∧ (slotAt u slot).used = 0
                        ∧ (slotAt u slot).limit = (if leAt b 2 1 ≠ 0 then 2 ^ leAt b 2 1
                            else if leAt b 1 1 = 1 then 2 ^ 32 else 2 ^ 54))
                  ∧ ((blobFieldsOk b = false ∨ (leAt b 1 1 ≠ 0 ∧ blobKey s tenant slot b = none)) →
                      ∃ u, exec (.keyImport c) s = .next u ∧ completed u c.id stInvalidField 0 ∧ slotsSame u))
            ∧ (∀ a, last = 1 → nextAssembly s fn slot part bs = some a → leAt a.bytes 1 1 = 0 → blobFieldsOk a.bytes = true →
                slotNamed s slot = true → (old.st = 0 ∨ old.owner = tenant) →
                ∃ u, exec (.keyImport c) s = .next u ∧ completed u c.id stSequence 0 ∧ slotsSame u))

/-- R300, R301, R303 to R307, R320, R348, R426, R489: a job enters its channel in order, its stages begin, end, fail, and are rerun once on an engine
fault; a program stage ends at its time limit. -/
def Obligations.JobsPassTheirStagesInOrder : Prop :=
  ∀ (s : State) (job : Nat) (b : Job) (c : Channel), jobAt s job = some b → channelAt s b.slot = some c →
    let k := b.stage
    let d := stageOf c k
    let n := b.input.length
    let r := stageOut s job b d
    let ending : Instr → State → Job → Prop := fun i v y =>
      exec i s = .next (resumeCmds (settleChannel (returnFlows v b.slot) b.slot)) ∧ jobAt v job = some y ∧ y.running = false
        ∧ y.ended = true ∧ y.stage = k ∧ y.im = none ∧ y.cipher = none ∧ y.regions = []
    (∀ rest, c.waitJobs = job :: rest → c.jobs.length < c.qdepth →
        ∃ u, exec (.jobEnter job) s = .next u ∧ jobAt u job = some { b with entered := true, item := c.items }
          ∧ channelAt u b.slot
              = some { c with jobs := c.jobs ++ [job], waitJobs := rest, items := (c.items + 1) % 2 ^ 32 }
          ∧ (∀ i, i ≠ job → jobAt u i = jobAt s i) ∧ (∀ i, i ≠ b.slot → channelAt u i = channelAt s i)
          ∧ u = { s with chn := u.chn })
      ∧ (c.qdepth ≤ c.jobs.length → exec (.jobEnter job) s = .next s)
      ∧ (b.entered = true → b.running = false → b.ended = false → b.sinking = false →
          (stageTurn s c job k = false → exec (.stageBegin job k) s = .next (resumeCmds s))
            ∧ (stageTurn s c job k = true → b.begun = true → 0 < b.pend → d.kind ≠ 5 →
                exec (.stageBegin job k) s = .next (resumeCmds s))
            ∧ (stageTurn s c job k = true → b.begun = true → b.pend = 0 → b.failed = none → d.kind ≠ 5 → inTooLong b k n = true →
                c.stages ≠ [] →
                ∃ v, exec (.stageBegin job k) s = .next (resumeCmds v)
                  ∧ jobAt v job = some { b with failed := some stLengthMismatch, failStage := k, running := true })
            ∧ (stageTurn s c job k = true → b.begun = true → b.pend = 0 → b.failed = none → inTooLong b k n = false →
                (d.kind = 7 → ∃ v m, exec (.stageBegin job k) s = .next (resumeCmds v)
                    ∧ jobAt v job = some { b with running := true } ∧ msgOf v (.stage job k) = some m ∧ m.bytes = b.input
                    ∧ m.finished = true ∧ m.done = false ∧ m.alg = BitVec.ofNat 2 d.param ∧ m.tenant = b.tenant)
                  ∧ (d.kind = 2 ∨ d.kind = 6 →
                      let pieces : State → Nat := fun t => (t.codec.uses.filter (fun x => x.job == job && x.stage == k)).length
                      ∃ v, exec (.stageBegin job k) s = .next (resumeCmds v) ∧ jobAt v job = some { b with running := true }
                        ∧ pieces v = pieces s + (codecWants s d b.input).2)
                  ∧ (d.kind = 3 → (parseLane (laneImage s b d).1).output ≠ 1 →
                      ∃ v ps, exec (.stageBegin job k) s = .next (resumeCmds v) ∧ jobAt v job = some { b with running := true }
                        ∧ v.lanes.queue = s.lanes.queue ++ ps ∧ (∀ p ∈ ps, p.job = job ∧ p.tenant = b.tenant)
                        ∧ ps.map (fun p => (p.base, p.bytes)) = cutPieces (parseLane (laneImage s b d).1) b.input
                        ∧ ps.map (·.index) = List.range ps.length
                        ∧ (tabGet v.lanes.jobs job).map (·.left) = some ps.length)))
      ∧ (b.running = true → b.failed = none →
          (r.ok = true → b.pend = 0 → c.stages ≠ [] →
              (∀ st, r.err = some st → ∃ v y, ending (.stageEnd job k .normal) v y ∧ y.failed = some st ∧ y.failStage = k)
                ∧ (r.err = none → inMax b k = false → n < inLen b k →
                    ∃ v y, ending (.stageEnd job k .normal) v y ∧ y.failed = some stLengthMismatch ∧ y.failStage = k)
                ∧ (r.err = none → (inMax b k = true ∨ inLen b k ≤ n) →
                    (outMax b k = false → outLen b k ≠ r.out.length →
                        ∃ v y, ending (.stageEnd job k .normal) v y ∧ y.failed = some stLengthMismatch)
                      ∧ (outMax b k = true → outLen b k ≠ 0xFFFFFFFF → outLen b k < r.out.length →
                        ∃ v y, ending (.stageEnd job k .normal) v y ∧ y.failed = some stOutputSpace)
                      ∧ ((if outMax b k then outLen b k = 0xFFFFFFFF ∨ r.out.length ≤ outLen b k else outLen b k = r.out.length) →
                        (∀ cap, b.cap = some cap → k + 1 = stageSteps c → c.snk ≠ snkChannel → r.out.length ≤ cap) →
                        ∃ v y, ending (.stageEnd job k .normal) v y ∧ y.failed = none ∧ y.output = r.out)))
            ∧ (b.rerun = false →
                ∃ v x, exec (.stageEnd job k .engineFault) s = .next (resumeCmds (beginStage v job x d)) ∧ jobAt v job = some x
                  ∧ x.rerun = true ∧ x.running = false ∧ x.output = [] ∧ x.input = b.input ∧ x.failed = none
                  ∧ rsqAt v evChn = rsqSet (rsqAt s evChn) [1])
            ∧ (b.rerun = true →
                ∃ v y, ending (.stageEnd job k .engineFault) v y ∧ y.failed = some stEngineFault ∧ y.output = []))
      ∧ (b.running = false → exec (.stageEnd job k .normal) s = .next (resumeCmds s))
      ∧ (∀ m p d0 rest, b.im = some m → m.done = false → b.failed = none → m.descs = d0 :: rest →
          (descAt s d0).job = some job → tabGet s.chn.programs m.prog = some p →
          (m.limitMs * 1000 ≤ stageTime s m →
              ∃ u y, exec (.timeLimit job) s = .next u ∧ jobAt u job = some y ∧ y.failed = some stProgramFault ∧ y.output = []
                ∧ y.im.map (·.done) = some true ∧ tabGet u.chn.programs m.prog = some { p with faults := p.faults + 1 }
                ∧ rsqAt u evSch = rsqSet (rsqAt s evSch) [3]
                ∧ (s.sch.queues = [] → tabWf s.sch.descs = true → ∀ e ∈ m.descs, (descAt u e).st = dsFree))
            ∧ (stageTime s m < m.limitMs * 1000 → exec (.timeLimit job) s = .next s))

/-- R320, R321, R322, R337, R371, R372: lanes take pieces and give their results; codec units are preempted and resumed. -/
def Obligations.LanesAndCodecUnitsServePieces : Prop :=
  ∀ s : State,
    (∀ lane p, (activeLanes s).contains lane = true → (laneAt s lane).piece = none → s.lanes.queue.find? (pieceMayRun s) = some p →
        let prog := ((tabGet s.lanes.jobs p.job).map (·.prog)).getD 0
        ∃ u, exec (.lanePieceStart lane) s = .next u ∧ (laneAt u lane).piece = some p ∧ (laneAt u lane).prog = prog
          ∧ u.lanes.queue = s.lanes.queue.erase p ∧ u.lanes.jobs = s.lanes.jobs ∧ (∀ l, l ≠ lane → laneAt u l = laneAt s l)
          ∧ (prog ≠ 0 → prog ∈ (laneAt u lane).residents) ∧ u = { s with lanes := u.lanes }
          ∧ ((laneAt s lane).residents.length ≤ 8 → (laneAt u lane).residents.length ≤ 8))
      ∧ (∀ lane, (laneAt s lane).piece.isSome = true → exec (.lanePieceStart lane) s = .next s)
      ∧ (∀ lane p l f, (laneAt s lane).piece = some p → tabGet s.lanes.jobs p.job = some l → (parseLane l.image).output ≠ 1 →
          let t := updLane (meetFaults s f) lane (fun x => { x with piece := none, prog := 0 })
          let x : LaneCtx := ⟨parseLane l.image, p.tenant, lanePlate t p.tenant, l.skip, aggFreeNow t, f.badWords⟩
          let r := runPiece x t p.base p.bytes
          (r.err = none →
              ∃ u, exec (.lanePieceEnd lane f) s = .next u ∧ (laneAt u lane).piece = none ∧ u.lanes.queue = s.lanes.queue
                ∧ tabGet u.lanes.jobs p.job
                    = some { l with outs := tabPut l.outs p.index (r.out.foldl (· ++ ·) []), left := l.left - 1 })
            ∧ (∀ st, r.err = some st →
                ∃ u, exec (.lanePieceEnd lane f) s = .next u ∧ (laneAt u lane).piece = none
                  ∧ (tabGet u.lanes.jobs p.job).map (·.failed)
                      = some (if l.failed = none ∨ p.index < l.failAt then some st else l.failed)
                  ∧ ∀ q ∈ u.lanes.queue, q.job = p.job → q.index ≤ p.index))
      ∧ (∀ lane f, (laneAt s lane).piece = none → exec (.lanePieceEnd lane f) s = .next s)
      ∧ (∀ pool unit x, s.codec.uses.find? (fun y => y.pool == pool && y.unit == some unit) = some x → isCodecPool pool = true →
          (codecDue s x = true →
              ∃ v, exec (.codecPreempt pool unit) s = .next (fillCodec v pool) ∧ v = { s with codec := v.codec }
                ∧ v.codec.uses = s.codec.uses.erase x ++ [{ x with unit := none, saved := true }]
                ∧ v.codec.saves = Nat.min 65535 (s.codec.saves + 1))
            ∧ (codecDue s x = false → exec (.codecPreempt pool unit) s = .next s))
      ∧ (∀ pool unit l x rest, isCodecPool pool = true → (freeCodec s pool).contains unit = true → s.codec.uses = l ++ x :: rest →
          (∀ y ∈ l, codecWaits s pool true y = false) → codecWaits s pool true x = true →
          exec (.codecResume pool unit) s
            = .next { s with codec := { s.codec with
                uses := l ++ { x with unit := some unit, since := now s, saved := false } :: rest } })

/-! ### Search -/

/-- R376, R378, R379, R383 to R386, R389 to R392, R397, R399 to R401: update steps of the search table, lookups, the background check, the match
chain. `apply1` names what a granted step leaves in CAM_UPD_STATUS; `rowsAs` the two tables after a step on a spread plate. -/
def Obligations.SearchTableUpdatesAndLookups : Prop :=
  ∀ s : State, tabWf s.bus.active = true →
    let listed : State → Path → Nat → Nat → Prop := fun u p op i =>
      u.cam.steps = s.cam.steps ++ [{ path := p, op := op, index := i, tag := pathTenant p }] ∧ fld (regAt u (updKey 0x24 p)) 0 1 = 1
        ∧ u.cam = { s.cam with steps := u.cam.steps }
    let apply1 : State → Path → Nat → Prop := fun u p result =>
      exec (.camStepApply p) s = .next u ∧ (∀ e ∈ u.cam.steps, e.path ≠ p) ∧ fld (regAt u (updKey 0x24 p)) 0 1 = 0
        ∧ fld (regAt u (updKey 0x24 p)) 4 4 = result
    let rowsAs : State → (Nat → CamEntry → CamEntry) → Prop := fun u g =>
      (∀ r, tabGet u.cam.copy r = (tabGet s.cam.copy r).map (g r)) ∧ ∀ r, tabGet u.cam.array r = (tabGet s.cam.array r).map (g r)
    (∀ p i,
        (camBusy s p = false →
            (∃ u, exec (.camInvalidate p i) s = .next u ∧ listed u p 1 i) ∧ (∃ u, exec (.camWrite p i) s = .next u ∧ listed u p 2 i)
              ∧ (∃ u, exec (.camValidate p i) s = .next u ∧ listed u p 3 i) ∧ (∃ u, exec (.camRead p i) s = .next u ∧ listed u p 4 i)
              ∧ (∃ u, exec (.camPairedWrite p i) s = .next u ∧ listed u p 5 i))
          ∧ (camBusy s p = true → exec (.camInvalidate p i) s = .next s ∧ exec (.camWrite p i) s = .next s
              ∧ exec (.camValidate p i) s = .next s ∧ exec (.camRead p i) s = .next s ∧ exec (.camPairedWrite p i) s = .next s))
      ∧ (∀ path x pl, (path = .host ∨ path = .fw) → s.cam.steps.find? (fun e => e.path == path) = some x →
          let i := x.index
          let e := camCopy s i
          let w := e.width.toNat + 1
          let g := stagedOf s path
          let inChain : Nat → Prop := fun r => i ≤ r ∧ r < i + w
          (plateWith s i = some pl → pathMay path pl.tenant = true → pl.mirror = false → (∀ b ∈ plateBanks pl, bankOk s b = true) →
              (x.op = 1 → isHead s pl i = true → ∃ u, apply1 u path 0
                  ∧ rowsAs u (fun r y => if inChain r then { y with valid := false } else y))
                ∧ (x.op = 3 → isHead s pl i = true → chainConsistent s pl i = true → ∃ u, apply1 u path 0
                  ∧ rowsAs u (fun r y => if inChain r then { y with valid := true } else y))
                ∧ (x.op = 3 → isHead s pl i = true → chainConsistent s pl i = false → ∃ u, apply1 u path 3 ∧ rowsAs u (fun _ y => y))
                ∧ (x.op = 2 → e.valid = false → g.pos ≤ g.width → g.pos ≤ i % 16384 →
                    (i % 16384 - g.pos) % chainAlign (g.width + 1) = 0 → g.prio ≠ 0xFFFF →
                    ∃ u, apply1 u path 0
                      ∧ (let y : CamEntry := ⟨g.value, g.care, pl.tenant, BitVec.ofNat 16 g.prio, false, BitVec.ofNat 2 g.width,
                           BitVec.ofNat 2 g.pos⟩
                         tabGet u.cam.copy i = some y ∧ tabGet u.cam.array i = some y)
                      ∧ ∀ r, r ≠ i → tabGet u.cam.copy r = tabGet s.cam.copy r ∧ tabGet u.cam.array r = tabGet s.cam.array r)
                ∧ (x.op = 2 → e.valid = true → ∃ u, apply1 u path 2 ∧ rowsAs u (fun _ y => y)
                    ∧ rsqAt u evCam = rsqSet (rsqAt s evCam) [4])
                ∧ (x.op = 4 → ∃ u, apply1 u path 0 ∧ rowsAs u (fun _ y => y) ∧ fld (regAt u (updKey 0x24 path)) 1 1 = bitNat e.valid
                    ∧ staged144 u path 0x40 = e.value ∧ staged144 u path 0x60 = e.care
                    ∧ fld (regAt u (updKey 0x28 path)) 0 16 = e.prio.toNat ∧ fld (regAt u (updKey 0x28 path)) 16 2 = e.width.toNat
                    ∧ fld (regAt u (updKey 0x28 path)) 18 2 = e.pos.toNat)
                ∧ (x.op = 5 → path = .fw → g.width = 0 → g.pos = 0 → e.valid = false → g.prio ≠ 0xFFFF → g.indexB ≠ i →
                    plateWith s g.indexB = some pl →
                    ∃ u, apply1 u path 0
                      ∧ tabGet u.cam.copy i = some ⟨g.value, g.care, pl.tenant, BitVec.ofNat 16 g.prio, true, 0, 0⟩
                      ∧ tabGet u.cam.copy g.indexB = (tabGet s.cam.copy g.indexB).map (fun y => { y with valid := false })
                      ∧ ∀ r, r ≠ i → r ≠ g.indexB → tabGet u.cam.copy r = tabGet s.cam.copy r))
            ∧ (x.op = 5 → path = .host → ∃ u, apply1 u path 6 ∧ rowsAs u (fun _ y => y))
            ∧ (1 ≤ x.op → x.op ≤ 4 → (plateWith s i = none ∨ (plateWith s i).any (fun q => !pathMay path q.tenant) = true) →
                ∃ u, apply1 u path 1 ∧ rowsAs u (fun _ y => y) ∧ rsqAt u evCam = rsqSet (rsqAt s evCam) [4]))
      ∧ (∀ k badWords, servesTenant s k.tenant = true →
          let p := plateAt s k.plate
          let segs := segmentsOf k.key
          let hits := arrayMatches s p k.tenant segs
          let tables : State → Prop := fun u => u.cam.array = s.cam.array ∧ u.cam.copy = s.cam.copy
          ((p.en = false ∨ p.tenant ≠ k.tenant) →
              ∃ u, exec (.camLookup k ⟨[], badWords, []⟩) s = .next u ∧ u.cam.answer = none ∧ u.cam.answerBad = false ∧ tables u)
            ∧ (p.en = true → p.tenant = k.tenant → p.mirror = false → p.cascade = false → searchBanks s p ≠ [] →
                ((∃ b ∈ plateBanks p, bankOk s b = false) →
                    ∃ u, exec (.camLookup k ⟨[], badWords, []⟩) s = .next u ∧ u.cam.answer = none ∧ u.cam.answerBad = true ∧ tables u)
                  ∧ ((∀ b ∈ plateBanks p, bankOk s b = true) →
                      (hits = [] →
                          ∃ u, exec (.camLookup k ⟨[], badWords, []⟩) s = .next u ∧ u.cam.answer = none ∧ u.cam.answerBad = false ∧ tables u)
                        ∧ (∀ h ∈ hits, (∀ i ∈ hits, i ≠ h → stronger s h i = true) →
                            (h ∉ badWords → chainMatches s true h k.tenant segs = true →
                                ∃ u, exec (.camLookup k ⟨[], badWords, []⟩) s = .next u ∧ u.cam.answer = some (fullIndex s h)
                                  ∧ u.cam.answerBad = false ∧ tables u)
                              ∧ (h ∈ badWords → ∃ u, exec (.camLookup k ⟨[], badWords, []⟩) s = .next u ∧ u.cam.answer = none
                                  ∧ u.cam.answerBad = true ∧ rsqAt u evCam = rsqSet (rsqAt s evCam) [1]
                                  ∧ rowsAs u (fun r y => if h ≤ r ∧ r < h + segs.length then { y with valid := false } else y))))))
      ∧ (∀ k f, servesTenant s k.tenant = true →
          exec (.camLookup k f) s = exec (.camLookup k ⟨[], f.badWords, []⟩) (meetFaults s f)
            ∧ (meetFaults s f).cam.copy = s.cam.copy
            ∧ (∀ b ∈ f.dead, bankOk (meetFaults s f) b = false)
            ∧ (∀ b, b < 8 → b ∉ f.dead → bankOk (meetFaults s f) b = bankOk s b)
            ∧ (f.upsets = [] → (meetFaults s f).cam.array = s.cam.array))
      ∧ (∀ bank, bank < 8 → tabWf s.cam.array = true →
          let rows := differingRows s bank
          let due := isDue s (tabAt 0 s.cam.checkedAt bank) (checkPeriod s) = true
          (bankOk s bank = true →
              (∀ answers, (answers = false ∨ (due ∧ 64 < rows.length)) →
                  ∃ u, exec (.camArrayCheck bank answers []) s = .next u ∧ bankOk u bank = false
                    ∧ (∀ b, b < 8 → b ≠ bank → bankOk u b = bankOk s b) ∧ u.cam.array = s.cam.array
                    ∧ rsqAt u evCam = rsqSet (rsqAt s evCam) [3])
                ∧ (due → rows ≠ [] → rows.length ≤ 64 →
                    ∃ u, exec (.camArrayCheck bank true []) s = .next u ∧ u.cam.copy = s.cam.copy
                      ∧ (∀ i, tabGet u.cam.array i = if i ∈ rows then tabGet s.cam.copy i else tabGet s.cam.array i)
                      ∧ rsqAt u evCam = rsqSet (rsqAt s evCam) [2])
                ∧ (due → rows = [] → exec (.camArrayCheck bank true []) s
                    = .next { s with cam := { s.cam with checkedAt := tabPut s.cam.checkedAt bank (now s) } })
                ∧ (¬ due → ∀ bad, exec (.camArrayCheck bank true bad) s = .next s))
            ∧ (bankOk s bank = false → ∀ answers, exec (.camArrayCheck bank answers []) s = .next s))
      ∧ (∀ k (matchIn : BitVec 16),
          let p := plateAt s k.plate
          let r := camSearch s k.tenant k.plate k.key []
          (p.cascade = false → ∃ u, exec (.matchRound k matchIn) s = .next u ∧ u.cam.matchOut = matchIn ∧ u.cam.winner = none)
            ∧ (∀ h, p.cascade = true → r.head = some h →
                let own := (camCopy r.s (readIndex r.s p h)).prio
                (own < matchIn → ∃ u, exec (.matchRound k matchIn) s = .next u ∧ u.cam.matchOut = own
                    ∧ u.cam.winner = some (own.toNat, fullIndex r.s h))
                  ∧ (matchIn ≤ own → ∃ u, exec (.matchRound k matchIn) s = .next u ∧ u.cam.matchOut = matchIn
                    ∧ u.cam.winner = none)))

/-! ### Cipher and digest -/

/-- R402 to R410, R417, R424 to R433: mask generators, requests of the cipher islands, digest messages and their results. -/
def Obligations.CipherRequestsAndDigestMessages : Prop :=
  ∀ s : State,
    (isDue s s.cry.reseedAt 1000 = true →
        ∃ u, exec (.drbgReseed true) s = .next (if anyStalled s then resumeCmds u else u) ∧ u.cry.drbgOk = true ∧ u.cry.reseedAt = now s
        ∧ (∀ g, burinAt u g = { burinAt s g with stalled := [] }) ∧ u = { s with cry := u.cry })
      ∧ (∃ u, exec (.drbgReseed false) s = .next u ∧ u.cry = { s.cry with drbgOk := false }
          ∧ rsqAt u evCry = rsqSet (rsqAt s evCry) [2])
      ∧ (∀ g unit, g < 8 → unitUsable s .burin g unit = true → unit ∉ (burinAt s g).stalled →
          (s.cry.reseedAt + 1000000 ≤ now s →
              ∃ u, exec (.burinUnitStall g unit) s = .next u
                ∧ burinAt u g = { burinAt s g with stalled := (burinAt s g).stalled ++ [unit] }
                ∧ (∀ i, i ≠ g → burinAt u i = burinAt s i) ∧ u = { s with cry := u.cry })
            ∧ (now s < s.cry.reseedAt + 1000000 → exec (.burinUnitStall g unit) s = .next s))
      ∧ (∀ g d q b r, g < 8 → burinReady s g = true → nextRequest s g = some q → jobAt s q.job = some b → b.cipher = some r →
          let k := slotAt s r.slot
          let answered : Nat → CipherRun → Prop := fun n r2 =>
            ∃ v, exec (.cipherRequest g n) s = .next (pushRequests v q.job requestFuel)
              ∧ jobAt v q.job = some { b with cipher := some { r2 with out := r.out - 1 } }
              ∧ (burinAt v g).queue = (burinAt s g).queue.erase q ∧ r.slot ∈ (burinAt v g).cache
              ∧ (∀ i, i ≠ g → burinAt v i = burinAt s i)
              ∧ rsqAt v evCry = (if n = 1 then rsqSet (rsqAt s evCry) [1] else rsqAt s evCry)
          (d ≤ 1 → r.count = false →
              (r.owner ≠ q.tenant → r.failed = none → answered d { r with failed := some stKeyLimit })
                ∧ (r.owner = q.tenant → r.gcm = false →
                    answered d { r with parts := tabPut r.parts q.index (xtsUnit r.encrypt r.key q.iv.toNat q.data) })
                ∧ (r.owner = q.tenant → r.gcm = true → r.encrypt = true →
                    answered d { r with parts := tabPut r.parts q.index (gcmEncrypt r.key ((leBytes q.iv.toNat 16).take 12) q.data) })
                ∧ (r.owner = q.tenant → r.gcm = true → r.encrypt = false → r.failed = none →
                    (gcmDecrypt r.key ((leBytes q.iv.toNat 16).take 12) q.data = none →
                        answered d { r with failed := some stCheckValue })
                      ∧ (∀ p, gcmDecrypt r.key ((leBytes q.iv.toNat 16).take 12) q.data = some p →
                        answered d { r with parts := tabPut r.parts q.index p })))
            ∧ (r.count = true → k.st = 1 → k.key = r.key → usedMarkOf s r.slot < k.used + 1 →
                ∃ u, exec (.cipherRequest g 0) s = .next u ∧ burinAt u g = burinAt s g ∧ u.etch.wanted.isSome = true
                  ∧ k.used + 1 ≤ (slotAt u r.slot).usedMark)
            ∧ (2 ≤ d → ∃ v n, exec (.cipherRequest g d) s = .next (if burinReady v g then runRequest v g q else v)
                ∧ unitUsable s .burin g n = true ∧ unitUsable v .burin g n = false ∧ v.cry = s.cry))
      ∧ (∀ g d, burinReady s g = false → exec (.cipherRequest g d) s = .next s)
      ∧ (∀ p alg dest,
          (alg ≠ 3 → dest.toNat < 2 →
              ∃ u m, exec (.digestStart p alg dest) s = .next u ∧ msgOf u (.path p) = some m ∧ m.alg = alg ∧ m.dest = dest
                ∧ m.bytes = [] ∧ m.opened = true ∧ m.finished = false ∧ m.done = false ∧ m.tenant = pathTenant p
                ∧ (dest = 1 → verdictOf u (.path p) = 0)
                ∧ u = { s with cry := u.cry, tenants := u.tenants, drc := u.drc, sch := u.sch })
            ∧ (msgOf s (.path p) = none → ∀ v t, exec (.digestDataWrite p v) s = .next s ∧ exec (.digestFinish p t) s = .next s)
            ∧ (∀ m, msgOf s (.path p) = some m →
                (m.finished = false →
                    (∀ v, ∃ u, exec (.digestDataWrite p v) s = .next u
                        ∧ msgOf u (.path p) = some { m with bytes := m.bytes ++ leBytes v.toNat 4 }
                        ∧ (∀ o, o ≠ .path p → msgOf u o = msgOf s o) ∧ u = { s with cry := u.cry })
                      ∧ (∀ t : BitVec 2, ∃ u, exec (.digestFinish p t) s = .next u
                        ∧ msgOf u (.path p) = some { m with
                            finished := true, bytes := m.bytes.take (m.bytes.length - (if t = 0 then 0 else 4 - t.toNat)) }
                        ∧ (∀ o, o ≠ .path p → msgOf u o = msgOf s o) ∧ u = { s with cry := u.cry }))
)
            ∧ (isDone s (.path p) = false → ∀ k, ∃ u, exec (.resultEarlyRead p k) s = .next u
                ∧ tabGet u.bus.readData (pathNo p) = some 0 ∧ msgOf u (.path p) = msgOf s (.path p)
                ∧ .path p ∈ u.cry.early ∧ rsqAt u evCry = rsqSet (rsqAt s evCry) [4])
            ∧ (isDone s (.path p) = true → ∀ k, exec (.resultEarlyRead p k) s = .next s)
            ∧ (∃ u, exec (.digestAbandon p) s = .next u ∧ msgOf u (.path p) = none
                ∧ u = { s with cry := u.cry, tenants := u.tenants, drc := u.drc, sch := u.sch }
                ∧ ((s.cry.msgs.map (·.1)).Nodup → ∀ o, o ≠ .path p → (msgOf u o).map (·.bytes) = (msgOf s o).map (·.bytes))))
      ∧ (∀ o m, msgOf s o = some m →
          (m.finished = true → m.done = false → m.ctxErr = false → m.bytes.length < 2 ^ 61 →
              (m.unit.isSome = true ∨ onGeneral o = false) →
              let digest := digestOf m.alg m.bytes
              (m.dest = 0 → ∀ fault, ∃ u, exec (.digestDone o fault) s = .next u
                  ∧ msgOf u o = some { m with done := true, unit := none, waiting := false, lenErr := false, result := digest })
                ∧ (m.dest = 1 →
                    (∃ u, exec (.digestDone o false) s = .next u ∧ (msgOf u o).map (·.result) = some []
                        ∧ verdictOf u o = (if (expectOf s o).take digest.length = digest then 0x5AA5 else 0xA55A)
                        ∧ expectOf u o = zeros 64)
                      ∧ (∃ u, exec (.digestDone o true) s = .next u ∧ verdictOf u o ≠ 0 ∧ verdictOf u o ≠ 0x5AA5
                        ∧ verdictOf u o ≠ 0xA55A ∧ rsqAt u evCry = rsqSet (rsqAt s evCry) [5])))
            ∧ (m.finished = false → ∀ fault, exec (.digestDone o fault) s = .next s))
      ∧ (∀ o m, longestHolder s = some (o, m) → (oldestWaiter s).isSome = true → freeDgs s = [] →
          (dgsSlice s ≠ 0 → m.since + dgsSlice s * 1000 ≤ now s →
              ∃ v, exec .digestPreempt s = .next (fillDgs v) ∧ v = { s with cry := v.cry }
                ∧ msgOf v o = some { m with unit := none, waiting := true, saved := true, order := s.cry.msgOrder })
            ∧ (dgsSlice s = 0 → exec .digestPreempt s = .next s))
      ∧ (∀ o m x rest, freeDgs s = x :: rest → oldestWaiter s = some (o, m) → m.saved = true →
          (∃ v, exec (.digestRestore true) s = .next (fillDgs v)
              ∧ msgOf v o = some { m with waiting := false, saved := false, unit := some x, since := now s })
            ∧ (∃ v, exec (.digestRestore false) s = .next (fillDgs v)
              ∧ msgOf v o = some { m with waiting := false, saved := false, ctxErr := true }
              ∧ rsqAt v evCry = rsqSet (rsqAt s evCry) [6]))
      ∧ (freeDgs s = [] → ∀ ok, exec (.digestRestore ok) s = .next s)

/-! ### Arbiters, DRAM, engine slots -/

/-- R494, R520 to R523, R529 to R533, R535 to R538, R541 to R545: decisions and emergencies of the arbiters, ageing, refresh, row-disturbance windows,
engine slots and frames. -/
def Obligations.ArbitersRefreshAndEngineSlots : Prop :=
  ∀ s : State,
    (∀ a sub arrivals,
        let t := arrive s a arrivals
        ((arbAt t a).suspended = true → exec (.arbiterDecision a sub arrivals) s = .next t)
          ∧ (8 ≤ a → (∀ q ∈ arrivals, q.requester < arbRequesters a) →
              (arbAt t a).waiting = (arbAt s a).waiting ++ arrivals.map (fun q => { req := q, at_ := now s, aged := false }))
          ∧ (∀ l w r, arbRuns t a = true → (arbAt t a).suspended = false → candidates t a sub = l ++ w :: r →
              (∀ x ∈ l, goesBefore t a w x = true) → (∀ x ∈ r, goesBefore t a x w = false) → (arbAt t a).atPort = [] →
              ∃ u, exec (.arbiterDecision a sub arrivals) s = .next u ∧ (arbAt u a).lastHold = w.req.requester
                ∧ (24 ≤ a → tabGet (arbAt u a).grants sub = some { w.req with beats := within 1 32 w.req.beats })
                ∧ (8 ≤ a → a < 24 → tabGet (arbAt u a).grants sub = some { w.req with beats := 1 })
                ∧ (8 ≤ a → (arbAt u a).waiting = (arbAt t a).waiting.erase w)
                ∧ (∀ i, i ≠ sub → tabGet (arbAt u a).grants i = tabGet (arbAt t a).grants i) ∧ (∀ i, i ≠ a → arbAt u i = arbAt t i)
                ∧ (a < 8 →
                    (∃ n, tabGet (arbAt u a).grants sub = some { w.req with beats := n } ∧ 1 ≤ n ∧ n ≤ 8)
                      ∧ (rhBank u a w.req.bank).count = (rhBank t a w.req.bank).count + 1
                      ∧ (∀ b, b ≠ w.req.bank → rhBank u a b = rhBank t a b)
                      ∧ (actLimit s a ≤ (rhBank t a w.req.bank).count + 1 → (rhBank u a w.req.bank).held.isSome = true)
                      ∧ (2 * actLimit s a ≤ (rhBank t a w.req.bank).count + 1 → (rhBank u a w.req.bank).all = true)))
          ∧ (a < 8 → arbRuns t a = true → (arbAt t a).suspended = false → (arbAt t a).waiting = [] →
              (∀ i, i ≠ sub → tabGet (arbAt t a).grants i = none) → tabWf (arbAt t a).grants = true →
              ∃ u, exec (.arbiterDecision a sub arrivals) s = .next u ∧ (dchanAt u a).postponed = []
                ∧ ∀ rank, tabAt 0 (dchanAt u a).pulled rank ≤ 4))
      ∧ (∀ ch, ∃ u, exec (.dramRequestAge ch) s = .next u ∧ u = { s with drc := u.drc } ∧ (∀ i, i ≠ ch → arbAt u i = arbAt s i)
          ∧ arbAt u ch = { arbAt s ch with
              waiting := (arbAt s ch).waiting.map (fun w => { w with aged := w.aged || decide (w.at_ + ageTicks s ch ≤ now s) }) })
      ∧ (∀ ch rank hot,
          let c := dchanAt s ch
          let busy : Prop := ∃ w ∈ (arbAt s ch).waiting, ownClass w ≤ 2
          let lone : State → Prop := fun u => (dchanAt u ch).twox = hot ∧ u = { s with drc := u.drc, bus := u.bus }
          (c.st = 2 → (rank = 0 ∨ c.ranks2 = true) → refreshFalls s ch rank hot = true →
              (0 < tabAt 0 c.pulled rank → ∃ u, exec (.refreshDue ch rank hot) s = .next u ∧ lone u ∧ u.bus = s.bus
                  ∧ tabAt 0 (dchanAt u ch).pulled rank = tabAt 0 c.pulled rank - 1)
                ∧ (tabAt 0 c.pulled rank = 0 → ¬ busy → ∃ u, exec (.refreshDue ch rank hot) s = .next u ∧ lone u ∧ u.bus = s.bus
                  ∧ (dchanAt u ch).postponed = c.postponed ∧ arbAt u ch = arbAt s ch)
                ∧ (tabAt 0 c.pulled rank = 0 → busy → postponedOf c < 4 → ∃ u, exec (.refreshDue ch rank hot) s = .next u ∧ lone u
                  ∧ u.bus = s.bus ∧ tabAt 0 (dchanAt u ch).postponed rank = tabAt 0 c.postponed rank + 1)
                ∧ (tabAt 0 c.pulled rank = 0 → busy → 4 ≤ postponedOf c → ∃ u, exec (.refreshDue ch rank hot) s = .next u ∧ lone u
                  ∧ arbAt u ch = { arbAt s ch with emergency := some rank } ∧ rsqAt u evDrc = rsqSet (rsqAt s evDrc) [3]))
            ∧ (c.st ≠ 2 ∨ refreshFalls s ch rank hot = false → exec (.refreshDue ch rank hot) s = .next s))
      ∧ (∀ ch, isDue s (dchanAt s ch).windowAt (rhWindow s ch) = true → ∃ u, exec (.rhWindowEnd ch) s = .next u ∧ u = { s with drc := u.drc }
          ∧ (∀ b, rhBank u ch b = { rhBank s ch b with count := 0, pairs := [], held := none, all := false })
          ∧ ∀ i, i ≠ ch → dchanAt u i = dchanAt s i)
      ∧ (∀ a, tabWf s.bus.active = true →
          let x := arbAt s a
          let revokes : State → Nat := fun t => fld (regAt t (revokeKey a)) 16 16
          (emergencyAsks s a = true → x.suspended = false → arbRuns s a = true →
              ∃ u, exec (.emergencyRevoke a) s = .next u ∧ arbAt u a = { x with suspended := true }
                ∧ (∀ i, i ≠ a → arbAt u i = arbAt s i)
                ∧ (x.grants = [] → u.bus = s.bus)
                ∧ (x.grants ≠ [] → revokes u = Nat.min 65535 (revokes s + 1)
                    ∧ (8 ≤ a → rsqAt u evArb = rsqSet (rsqAt s evArb) [1]) ∧ (a < 8 → u.bus.rsq = s.bus.rsq)))
            ∧ (emergencyAsks s a = false → exec (.emergencyRevoke a) s = .next s)
            ∧ (x.suspended = true → ∃ u, exec (.emergencyEnd a) s = .next u
                ∧ arbAt u a = { x with suspended := false, emergency := none } ∧ (∀ i, i ≠ a → arbAt u i = arbAt s i)
                ∧ u = { s with drc := u.drc })
            ∧ (x.suspended = false → exec (.emergencyEnd a) s = .next s))
      ∧ (let k := frameTime s % 128000 / 2000
         let idle : State → Prop := fun v =>
           (∀ l, (laneAt v l).piece = none) ∧ (∀ x ∈ v.codec.uses, x.unit = none)
             ∧ (∀ e ∈ v.cry.msgs, onGeneral e.1 = true → e.2.unit = none)
             ∧ (∀ ch b, ch < 8 → (rhBank v ch b).count = 0 ∧ (rhBank v ch b).held = none ∧ (rhBank v ch b).all = false)
         (clockRuns s isFabric = true → frameTime s / 128000 = s.tenants.frameNo → s.tenants.slot < k →
             (strictOn s = false →
                 exec .engineSlotBoundary s = .next { s with tenants := { s.tenants with slot := k } })
               ∧ (strictOn s = true → slotTenant s (s.tenants.slot + 1) ≠ slotTenant s s.tenants.slot →
                 ∃ v, exec .engineSlotBoundary s = .next (beginRun v) ∧ v.tenants.slot = k ∧ idle v))
           ∧ (k ≤ s.tenants.slot → exec .engineSlotBoundary s = .next s)
           ∧ (clockRuns s isFabric = true → s.tenants.frameNo < frameTime s / 128000 → pendsIn s 0x1E00000 0x2000000 = [] →
               let ended : State → Prop := fun v => v.tenants = { s.tenants with
                 frameNo := frameTime s / 128000, slot := k
                 frames := Nat.min 0xFFFFFF (s.tenants.frames + (frameTime s / 128000 - s.tenants.frameNo)) }
               (strictOn s = false → ∃ u, exec .engineFrameBoundary s = .next u ∧ ended u ∧ u = { s with tenants := u.tenants })
                 ∧ (strictOn s = true → ∃ v, exec .engineFrameBoundary s = .next (beginRun v) ∧ ended v ∧ idle v))
           ∧ (frameTime s / 128000 ≤ s.tenants.frameNo → exec .engineFrameBoundary s = .next s))

/-! ### Statistics and temperature -/

/-- R549, R551, R553 to R558, R560, R562, R563: reports and latches of statistics windows; the sensors, the warning and throttle states, shutdown. -/
def Obligations.StatisticsWindowsAndThermalStates : Prop :=
  ∀ s : State,
    (∀ g,
        let w := groupAt s g
        let p := stwPeriod (applyGroup s g) g
        let others : State → Prop := fun u => ∀ i, i ≠ g → groupAt u i = groupAt s i
        (∀ island counts, g < 16 → w.period ≠ 0 → island ∈ w.sources → island ∉ w.reported →
            (w.boundary ≤ islandTime s island →
                ∃ u, exec (.windowBoundaryReport g island counts) s = .next u ∧ others u ∧ u = { s with stw := u.stw }
                  ∧ (groupAt u g).reported = w.reported ++ [island]
                  ∧ (∀ c, c < 256 → tabAt 0 (groupAt u g).counts c
                      = tabAt 0 w.counts c + ((counts.filter (fun e => e.1 == c)).map (·.2)).sum)
                  ∧ groupAt u g = { w with reported := (groupAt u g).reported, counts := (groupAt u g).counts })
              ∧ (islandTime s island < w.boundary → exec (.windowBoundaryReport g island counts) s = .next s))
          ∧ (∀ island counts, island ∈ w.reported → exec (.windowBoundaryReport g island counts) s = .next s)
          ∧ (g < 16 → w.period ≠ 0 → w.boundary ≤ now s → clockRuns s isFabric = true →
              ((∀ i ∈ w.sources, clockRuns s i = true → i ∈ w.reported) →
                  ∃ u b, exec (.windowLatch g) s = .next u ∧ others u ∧ (groupAt u g).latest = !w.latest ∧ (groupAt u g).valid = true
                    ∧ (if w.latest then (groupAt u g).bank0 = b ∧ (groupAt u g).bank1 = w.bank1
                        else (groupAt u g).bank1 = b ∧ (groupAt u g).bank0 = w.bank0)
                    ∧ b.start = w.openAt ∧ b.stop = w.boundary ∧ b.short = w.short ∧ b.stepped = w.stepped ∧ b.gap = w.gap
                    ∧ (∀ c, tabAt 0 b.ctrs c = Nat.min (tabAt 0 w.counts c) (2 ^ 64 - 1))
                    ∧ (groupAt u g).period = p ∧ (groupAt u g).openAt = w.nextOpen.getD w.boundary ∧ (groupAt u g).reported = []
                    ∧ (groupAt u g).counts = [] ∧ (groupAt u g).short = decide (p ≠ w.period)
                    ∧ (groupAt u g).sources = contributors (applyGroup s g) g
                    ∧ (p ≠ 0 → (groupAt u g).boundary % (p * 1000000) = 0 ∧ (groupAt u g).openAt < (groupAt u g).boundary
                        ∧ (groupAt u g).boundary ≤ (groupAt u g).openAt + p * 1000000))
                ∧ ((∃ i ∈ w.sources, clockRuns s i = true ∧ i ∉ w.reported) → exec (.windowLatch g) s = .next s))
          ∧ (now s < w.boundary → exec (.windowLatch g) s = .next s)
          ∧ (g < 16 → w.period ≠ 0 → w.boundary + 100000 < now s →
              ∃ u, exec (.latchLate g) s = .next u ∧ rsqAt u evStw = rsqSet (rsqAt s evStw) [0] ∧ u = { s with bus := u.bus })
          ∧ (now s ≤ w.boundary + 100000 → exec (.latchLate g) s = .next s))
      ∧ (∀ rs out, s.power.aonOk = true → s.power.shutdown = false → isDue s s.therm.roundAt 1000000 = true →
          let t := takeReadings s rs out
          let hot := if 120 ≤ t.therm.tjMax then s.therm.hot + 1 else 0
          let counts : Nat → Prop := fun k => k < 64 ∧ (sensorAt t k).broken = false ∧ (sensorAt t k).suspect = false
          (∀ k, k < 64 → (sensorAt t k).temp = readingOf rs k ∧ (k ∈ out → (sensorAt t k).broken = true)
              ∧ ((sensorAt s k).broken = true → (sensorAt t k).broken = true))
            ∧ (∀ k, counts k → readingOf rs k ≤ t.therm.tjMax)
            ∧ ((∃ k, counts k) → ∃ k, counts k ∧ readingOf rs k = t.therm.tjMax)
            ∧ (s.power.pwrOk = false → exec (.sensorRound rs out) s = .next t)
            ∧ (s.power.pwrOk = true → hot < 2 →
                ∃ u, exec (.sensorRound rs out) s = .next u ∧ u.therm.tjMax = t.therm.tjMax ∧ u.therm.tjMedian = t.therm.tjMedian
                  ∧ u.therm.hot = hot ∧ u.therm.sensors = t.therm.sensors
                  ∧ u.therm.warning = (if s.therm.warning then decide (95 ≤ t.therm.tjMax) else decide (98 ≤ t.therm.tjMax))
                  ∧ u.therm.throttle = (if s.therm.throttle then decide (100 ≤ t.therm.tjMax) else decide (103 ≤ t.therm.tjMax))
                  ∧ (s.therm.throttle = false → 103 ≤ t.therm.tjMax → u.power.thermN = true)
                  ∧ u.power.shutdown = false)
            ∧ (s.power.pwrOk = true → 2 ≤ hot →
                ∃ u, exec (.sensorRound rs out) s = .next u ∧ u.power.shutdown = true ∧ u.power.thermN = true ∧ u.host.exec = []
                  ∧ u.host.ctrls = [] ∧ u.chn.jobs = [] ∧ u.sch = {} ∧ u.ftl.flash = s.ftl.flash ∧ u.etch.live = s.etch.live
                  ∧ u.therm.tjMax = t.therm.tjMax ∧ ∃ e ∈ u.therm.held, e.kind = 6 ∧ e.temp = t.therm.tjMax))
      ∧ (∀ rs out, s.power.aonOk = false → exec (.sensorRound rs out) s = .next s)
      ∧ (s.therm.throttle = true → s.therm.raising = false → pauseMode s = false → 103 ≤ s.therm.tjMax →
          (s.therm.graceAt + graceTicks s ≤ now s →
              ∃ u, exec .throttleGraceExpiry s = .next u ∧ u.therm.raising = true ∧ rsqAt u evThm = rsqSet (rsqAt s evThm) [2]
                ∧ u.therm.throttle = true ∧ u.therm.level = s.therm.level ∧ u = { s with therm := u.therm, bus := u.bus })
            ∧ (now s < s.therm.graceAt + graceTicks s → exec .throttleGraceExpiry s = .next s))
      ∧ (s.therm.throttle = false → exec .throttleGraceExpiry s = .next s)
      ∧ (s.power.started = true → s.therm.urgent = true ∨ isDue s s.therm.commitAt 600000000000 = true →
          ∃ u w, exec .thermalHistoryCommit s = .next u ∧ u.etch.wanted = some w ∧ w.body.therm = s.therm.log
            ∧ u = { s with
                etch := { s.etch with wanted := some w }, therm := { s.therm with urgent := false, commitAt := now s } })
      ∧ (s.power.started = false → exec .thermalHistoryCommit s = .next s)

/-! ### Cascade -/

/-- R565, R567, R568, R574 to R578, R581, R584: cascade start, frames of the coordination bus, members found ready and lost, synchronization. -/
def Obligations.CascadeRolesFramesAndTime : Prop :=
  ∀ s : State,
    let heard : Nat → Cas → Cas := fun src c => { c with heard := tabPut c.heard src (now s) }
    let readyBit : State → Nat → Bool := fun u p => u.cas.ready.getLsbD p
    let loses : Instr → Nat → Prop := fun i p =>
      ∃ u, exec i s = .next u ∧ p ∈ u.cas.lost ∧ (p < 8 → readyBit u p = false) ∧ (∀ j, j ≠ p → readyBit u j = readyBit s j)
        ∧ (rsqAt u evCas).bits.any (fun e => e.1 == 2) = true
        ∧ ∀ e ∈ s.host.exec, e.phase = .forwarded → e.done = p → completed u e.cmd.id stNotReady 0
    (∀ m : BitVec 4, s.cas.opened = true → s.cas.settled = false → s.cas.startAt + 100000000 ≤ now s →
        s.cas.pos = (if m = 15 then 0 else m.toNat + 1) →
        (m = 15 ∨ m.toNat ≤ 6) →
        let n := (foundPositions s).length
        let masters := (s.cas.roles.filter (fun e => e.2 == 1)).length
        (masters = 1 → s.cas.chainFault = false → s.cas.dupPos = false →
            ∃ u, exec (.cascadeStartEnd m) s = .next u ∧ u.cas.settled = true ∧ u.cas.count = n ∧ u.cas.pos = s.cas.pos
              ∧ u.cas.roleCode = (if n = 1 then 0 else if s.power.casRole then 1 else 2))
          ∧ ((masters ≠ 1 ∨ s.cas.chainFault = true ∨ s.cas.dupPos = true) →
            ∃ u, exec (.cascadeStartEnd m) s = .next u ∧ u.cas.settled = true ∧ u.cas.roleCode = 3
              ∧ u.cas.conflict = (if 2 ≤ masters then 1 else if masters = 0 then 2 else 3) ∧ u.cas.links = [] ∧ u.power.stage = none
              ∧ u.power.ready = false ∧ rsqAt u evCas = rsqSet (rsqAt s evCas) [0]))
      ∧ (∀ m, s.cas.settled = true ∨ now s < s.cas.startAt + 100000000 → exec (.cascadeStartEnd m) s = .next s)
      ∧ (∀ kind f, s.cas.tcbQueue.find? (fun x => x.kind == kind) = some f →
          let q := s.cas.tcbQueue
          (kind ≠ 1 → exec (.tcbFrameSend kind none true) s = .next { s with cas := { s.cas with tcbQueue := q.erase f } })
            ∧ (kind = 1 → exec (.tcbFrameSend kind none true) s
                = .next { s with
                    time := { s.time with syncStamp := now s }
                    cas := { s.cas with tcbQueue := q.erase f ++ [{ kind := 2, data := leBytes (now s) 8, tries := 0 }] } })
            ∧ (kind ≠ 1 → 3 ≤ f.tries →
                exec (.tcbFrameSend kind none false) s = .next { s with cas := { s.cas with tcbQueue := q.erase f } })
            ∧ (kind ≠ 1 → f.tries < 3 → ∃ u, exec (.tcbFrameSend kind none false) s = .next u ∧ u.cas.tcbQueue.length = q.length
                ∧ { f with tries := f.tries + 1 } ∈ u.cas.tcbQueue ∧ u = { s with cas := { s.cas with tcbQueue := u.cas.tcbQueue } })
            ∧ (∀ k src acked, exec (.tcbFrameSend kind (some (k, src)) acked) s
                = .next (if k = kind ∧ src.toNat = s.cas.pos then { s with cas := { s.cas with chainFault := true } } else s)))
      ∧ (∀ src (code : Byte),
          (s.cas.roleCode = 1 → (code = 1 ∨ code = 3) → src ≠ s.cas.pos → src ∉ s.cas.lost → src ∈ foundPositions s →
              loses (.alarm src code) src)
            ∧ (s.cas.roleCode = 2 → code = 3 → masterPos s = some src → ∃ v, exec (.alarm src code) s = .next (resetDevice v 2))
            ∧ (code ≠ 1 → code ≠ 3 → ∃ u, exec (.alarm src code) s = .next u ∧ u = { s with cas := heard src s.cas, bus := u.bus }
                ∧ rsqAt u evCas = rsqSet (rsqAt s evCas) [4]))
      ∧ (∀ p, s.cas.roleCode = 1 → p ≠ s.cas.pos → p ∉ s.cas.lost → p ∈ foundPositions s →
          (tabAt 0 s.cas.heard p + 20000000 ≤ now s → loses (.memberLost p) p)
            ∧ (now s < tabAt 0 s.cas.heard p + 20000000 → exec (.memberLost p) s = .next s))
      ∧ (∀ src (claim : Byte),
          (s.cas.settled = false → exec (.role src claim) s
              = .next { s with cas := heard src { s.cas with roles := tabPut s.cas.roles src claim } })
            ∧ (s.cas.settled = true → claim = 1 → (s.cas.roleCode = 1 ∨ s.cas.roleCode = 2) →
                ∃ u, exec (.role src claim) s = .next u ∧ u = { s with cas := heard src s.cas, bus := u.bus }
                  ∧ rsqAt u evCas = rsqSet (rsqAt s evCas) [0])
            ∧ (s.cas.settled = true → claim ≠ 1 → exec (.role src claim) s = .next { s with cas := heard src s.cas }))
      ∧ (∀ src serial,
          (s.cas.settled = false → ∃ u, exec (.announce src serial) s = .next u ∧ u = { s with cas := u.cas }
              ∧ (src ≠ s.cas.pos → tabGet u.cas.serials src = some serial)
              ∧ ((src = s.cas.pos ∨ (∃ n, tabGet s.cas.serials src = some n ∧ n ≠ serial)) → u.cas.dupPos = true)
              ∧ (src ≠ s.cas.pos → tabGet s.cas.serials src = none → u.cas.dupPos = s.cas.dupPos))
            ∧ (s.cas.settled = true → s.cas.roleCode = 1 → ∃ u, exec (.announce src serial) s = .next u ∧ u = { s with cas := u.cas }
              ∧ tabGet u.cas.serials src = some serial ∧ src ∈ u.cas.joining ∧ (src < 8 → readyBit u src = false)
              ∧ ∀ l, (linkAt s l).st = 4 → (linkAt s l).peerPos = src → (linkAt u l).st = 1))
      ∧ (∀ src (data : BitVec 16), s.cas.roleCode ≠ 1 →
          exec (.link src data) s = .next { s with cas := heard src { s.cas with
            topo := tabPut s.cas.topo (src * 4 + data.toNat % 8 % 4) (data.toNat / 16 % 8, data.getLsbD 8) } })
      ∧ (∀ src stage, src < 8 → (s.cas.roleCode = 1 ∨ s.cas.roleCode = 2) →
          (stage < 7 → ∃ u, exec (.ready src stage) s = .next u ∧ readyBit u src = false ∧ (∀ j, j ≠ src → readyBit u j = readyBit s j)
              ∧ u = { s with cas := u.cas } ∧ tabGet u.cas.stages src = some stage)
            ∧ (7 ≤ stage → src ∉ s.cas.joining → src ∉ s.cas.lost → ∃ u, exec (.ready src stage) s = .next u ∧ readyBit u src = true
              ∧ (∀ j, j ≠ src → readyBit u j = readyBit s j) ∧ u = { s with cas := u.cas })
            ∧ (7 ≤ stage → src ∈ s.cas.joining → ∃ u, exec (.ready src stage) s = .next u ∧ readyBit u src = true
              ∧ src ∉ u.cas.joining ∧ src ∉ u.cas.lost ∧ rsqAt u evCas = rsqSet (rsqAt s evCas) [3]))
      ∧ (s.cas.roleCode = 1 →
          (s.time.syncAt + syncTicks s ≤ now s → exec .syncSend s = .next { s with
              time := { s.time with syncAt := now s }
              cas := { s.cas with tcbQueue := s.cas.tcbQueue ++ [{ kind := 1, data := [], tries := 0 }] } })
            ∧ (now s < s.time.syncAt + syncTicks s → exec .syncSend s = .next s))
      ∧ (∀ src, s.cas.roleCode ≠ 1 → s.cas.settled = true → exec (.sync src) s = .next { s with
          time := { s.time with syncStamp := islandTime s isCascade }, cas := heard src s.cas })
      ∧ (∀ src (masterTime : Qword), s.cas.roleCode = 2 → s.cas.settled = true →
          let off : Int := (s.time.syncStamp : Int) - (masterTime.toNat : Int)
          (s.time.aligned = true → exec (.syncFollow src masterTime) s = .next { s with
              time := { s.time with slew := -off, syncOffset := off, syncAt := now s, syncLost := false }
              cas := heard src s.cas })
            ∧ (s.time.aligned = false → off < 0 → now s + off.natAbs < 2 ^ 64 →
                ∃ u, exec (.syncFollow src masterTime) s = .next u ∧ now u = now s + off.natAbs ∧ u.time.aligned = true
                  ∧ u.time.stepped = true ∧ u.time.slew = 0 ∧ u.time.syncOffset = off ∧ u.time.syncAt = now u))
      ∧ (s.cas.roleCode = 2 →
          let since := Nat.max s.time.syncAt s.power.startAt
          (since + 10 * syncTicks s ≤ now s → ∃ u, exec .syncLost s = .next u ∧ rsqAt u evCas = rsqSet (rsqAt s evCas) [5]
              ∧ u = { s with time := { s.time with syncLost := true }, bus := u.bus })
            ∧ (now s < since + 10 * syncTicks s → exec .syncLost s = .next s))

/-- R569 to R573, R585: Tabfer links train, retrain and go down; flits are replayed, acknowledged, delivered in order or passed on; remote register
accesses. -/
def Obligations.TabferLinksFlitsAndRemoteAccesses : Prop :=
  ∀ s : State,
    let others : State → Nat → Prop := fun u l => ∀ i, i ≠ l → linkAt u i = linkAt s i
    (∀ l,
        let x := linkAt s l
        (∀ serial pos peer rev pol, x.st = 1 →
            (serial = s.power.serial → ∃ u, exec (.tabferLinkTrained l serial pos peer rev pol) s = .next u ∧ linkAt u l = {}
                ∧ others u l ∧ u = { s with cas := u.cas })
              ∧ (serial ≠ s.power.serial → pos ∉ s.cas.joining →
                ∃ u, exec (.tabferLinkTrained l serial pos peer rev pol) s = .next u ∧ others u l ∧ u = { s with cas := u.cas }
                  ∧ linkAt u l = { x with
                      st := 2, peerPos := pos, peerLink := peer, peerSerial := serial, rev := rev, polarity := pol, inRow := 0 }
                  ∧ u.cas.tcbQueue = s.cas.tcbQueue ++ [{ kind := 5, data := leBytes (l + pos % 8 * 16 + 256) 2, tries := 0 }]))
          ∧ (x.st ≠ 1 → (∀ serial pos peer rev pol, exec (.tabferLinkTrained l serial pos peer rev pol) s = .next s)
              ∧ exec (.tabferTrainTimeout l) s = .next s)
          ∧ (now s < x.trainAt + 40000000 → exec (.tabferTrainTimeout l) s = .next s)
          ∧ (x.st = 1 → x.trainAt + 40000000 ≤ now s → ∃ u, exec (.tabferTrainTimeout l) s = .next u ∧ linkAt u l = {} ∧ others u l ∧ u = { s with cas := u.cas })
          ∧ (x.st = 2 → ∃ u, exec (.tabferLossOfLock l) s = .next u ∧ linkAt u l = { x with st := 3 } ∧ others u l
              ∧ u = { s with cas := u.cas })
          ∧ (x.st ≠ 2 → exec (.tabferLossOfLock l) s = .next s ∧ ∀ f, exec (.flitReceived l f) s = .next s)
          ∧ (x.st = 3 →
              (∃ u, exec (.tabferRetrainEnd l true) s = .next u ∧ linkAt u l = { x with st := 2, inRow := 0 } ∧ others u l
                  ∧ u = { s with cas := u.cas })
                ∧ (∃ u, exec (.tabferRetrainEnd l false) s = .next u ∧ (linkAt u l).st = 4
                  ∧ 0 < faultsOpen u
                  ∧ (rsqAt u evCas).bits.any (fun e => e.1 == 1) = true
                  ∧ { kind := 5, data := leBytes (l + x.peerPos % 8 * 16) 2, tries := 0 } ∈ u.cas.tcbQueue))
          ∧ (x.st ≠ 3 → ∀ ok, exec (.tabferRetrainEnd l ok) s = .next s)
          ∧ (∀ f, x.st = 2 → f.crcOk = false →
              ∃ u, exec (.flitReceived l f) s = .next u ∧ others u l ∧ u = { s with cas := u.cas }
                ∧ linkAt u l = { x with
                    replays := Nat.min 255 (x.replays + 1), st := if 15 ≤ x.inRow then 3 else 2
                    inRow := if 15 ≤ x.inRow then 0 else x.inRow + 1 })
          ∧ (∀ f, x.st = 2 → f.crcOk = true → f.dst = s.cas.pos → f ∉ s.cas.heldFlits →
              (∀ h ∈ s.cas.heldFlits, h.src ≠ f.src) →
              let next := tabAt 0 s.cas.recvSeq f.src
              ∃ u, exec (.flitReceived l f) s = .next u ∧ others u l ∧ u = { s with cas := u.cas }
                ∧ linkAt u l = { x with inRow := 0, retry := (match f.ack with | some n => ackRetry x.retry n | none => x.retry) }
                ∧ (f.seq < next → u.cas.delivered = s.cas.delivered ∧ u.cas.heldFlits = s.cas.heldFlits)
                ∧ (f.seq = next → u.cas.delivered = s.cas.delivered + 1 ∧ tabAt 0 u.cas.recvSeq f.src = next + 1
                    ∧ u.cas.heldFlits = s.cas.heldFlits)
                ∧ (next < f.seq → u.cas.delivered = s.cas.delivered ∧ tabAt 0 u.cas.recvSeq f.src = next
                    ∧ u.cas.heldFlits = s.cas.heldFlits ++ [f]))
          ∧ (∀ f out, x.st = 2 → f.crcOk = true → f.dst ≠ s.cas.pos → f.ack = none → routeTo s f.dst = some out →
              (linkAt s out).retry.length < 64 → out ≠ l → tabWf s.cas.links = true →
              ∃ u, exec (.flitReceived l f) s = .next u ∧ linkAt u out = { linkAt s out with retry := (linkAt s out).retry ++ [f] }
                ∧ u.cas.delivered = s.cas.delivered ∧ u = { s with cas := u.cas }))
      ∧ (∀ l n, let r := ackRetry l n
          (∀ f g h, l = f ++ g :: h → g.seq = n → (∀ y ∈ f, y.seq ≠ n) → r = h) ∧ ((∀ y ∈ l, y.seq ≠ n) → r = l))
      ∧ (∀ p pos,
          let all3 : (Instr → Prop) → Prop := fun P => P (.rmtRead p pos) ∧ P (.rmtWrite p pos) ∧ P (.rmtGuardedWrite p pos)
          (s.cas.remote.isSome = true → all3 (fun i => exec i s = .next s))
            ∧ (s.cas.remote = none → s.cas.roleCode = 2 →
                all3 (fun i => exec i s = .next { s with cas := { s.cas with rmtResult := 3 } }))
            ∧ (s.cas.remote = none → s.cas.roleCode ≠ 2 → (s.cas.roleCode ≠ 1 ∨ pos = s.cas.pos ∨ s.cas.ready.getLsbD pos = false) →
                all3 (fun i => exec i s = .next { s with cas := { s.cas with rmtResult := 1 } }))
            ∧ (s.cas.remote = none → s.cas.roleCode = 1 → pos ≠ s.cas.pos → s.cas.ready.getLsbD pos = true →
                let starts : Nat → State := fun op => { s with cas := { s.cas with remote := some { op := op, pos := pos, at_ := now s } } }
                exec (.rmtRead p pos) s = .next (starts 1) ∧ exec (.rmtWrite p pos) s = .next (starts 2)
                  ∧ exec (.rmtGuardedWrite p pos) s = .next (starts 3)))
      ∧ (∀ x : Remote, s.cas.remote = some x → tabWf s.bus.active = true →
          let ends : State → BitVec 4 → Dword → Prop := fun u result data =>
            u.cas = { s.cas with remote := none, rmtResult := result } ∧ u = { s with cas := u.cas, bus := u.bus }
              ∧ (x.op = 1 → regAt u 0x2000048 = data) ∧ (x.op ≠ 1 → u.bus = s.bus)
          (∀ data, ∃ u, exec (.rmtAnswer data) s = .next u ∧ ends u 0 data)
            ∧ (x.at_ + 50000 ≤ now s → ∃ u, exec .rmtTimeout s = .next u ∧ ends u 2 0xFFFFFFFF)
            ∧ (now s < x.at_ + 50000 → exec .rmtTimeout s = .next s))
      ∧ (s.cas.remote = none → (∀ data, exec (.rmtAnswer data) s = .next s) ∧ exec .rmtTimeout s = .next s)

/-! ### Scheduler -/

/-- R475, R478, R482 to R489, R492, R495, R502: descriptor steps, slices, waits and wakes, a core's failure, interrupts, the debug port. After a change
the island's free cores take threads (`settleIsland`); `v` is the state before they do. -/
def Obligations.SchedulerStepsMoveThreads : Prop :=
  ∀ s : State, tabWf s.bus.active = true → tabWf s.sch.descs = true →
    let resultIs : State → Path → Nat → Prop := fun u p r =>
      regAt u (0x1C00044 + pathNo p * 2 ^ 26) = BitVec.ofNat 32 (r * 16)
        ∧ (r ≠ 0 → (rsqAt u evSch).bits.any (fun e => e.1 == 5) = true)
    let key : Nat → Nat := fun d => queueKey (descAt s d).island (descAt s d).prio.toNat
    let settles : Instr → Nat → State → Prop := fun i d v => exec i s = .next (settleIsland v (descAt s d).island)
    let readies : Instr → Nat → State → Prop := fun i d v =>
      exec i s = .next (preemptFor (settleIsland v (descAt s d).island) d) ∧ queueAt v (key d) = queueAt s (key d) ++ [d]
        ∧ (∀ e, e ≠ d → descAt v e = descAt s e) ∧ v.sch.cores = s.sch.cores
    (∀ p d,
        let x := descAt s d
        let keeper : Prop := p = .fw ∨ p = .keeper
        let same : State → Prop := fun u => u.sch = { s.sch with sched11 := u.sch.sched11 }
        (x.st ≠ 0 → ∃ u, exec (.descRead p d) s = .next u ∧ resultIs u p 0 ∧ u = { s with bus := u.bus }
            ∧ ∀ k, k < 64 → stagingWord u p k = descWord s d k)
          ∧ (x.st = 0 → ∃ u, exec (.descRead p d) s = .next u ∧ resultIs u p 1 ∧ same u)
          ∧ (keeper →
              (x.st = 0 → d < fwDescs s → stagedOk s p = true →
                  (stagedDesc s p).st = 3 → ∃ u, exec (.descCreate p d) s = .next u ∧ resultIs u p 0 ∧ descAt u d = stagedDesc s p
                    ∧ ∀ e, e ≠ d → descAt u e = descAt s e)
                ∧ (x.st = 0 → d < fwDescs s → stagedOk s p = true → (stagedDesc s p).st = 1 →
                  ∃ v, exec (.descCreate p d) s = .next (descResult (makeReady v d) p 0) ∧ descAt v d = stagedDesc s p
                    ∧ (∀ e, e ≠ d → descAt v e = descAt s e) ∧ v.sch.queues = s.sch.queues)
                ∧ ((x.st ≠ 0 ∨ fwDescs s ≤ d) → ∃ u, exec (.descCreate p d) s = .next u ∧ resultIs u p 1 ∧ same u)
                ∧ (x.st = 0 → d < fwDescs s → stagedOk s p = false →
                  ∃ u, exec (.descCreate p d) s = .next u ∧ resultIs u p 3 ∧ same u)
                ∧ (x.st ≠ 0 → x.sup = true →
                  (∃ v, exec (.descKill p d) s = .next (descResult (settleIsland v x.island) p 0) ∧ (descAt v d).st = 0)
                    ∧ (let y : Desc := { x with prio := BitVec.ofNat 6 ((stagingWord s p 0).toNat / 16) }
                       (x.st ≠ 1 → ∃ v, exec (.descSetPrio p d) s = .next (descResult (settleIsland v x.island) p 0)
                          ∧ descAt v d = y ∧ ∀ e, e ≠ d → descAt v e = descAt s e)
                        ∧ (x.st = 1 → ∃ v, exec (.descSetPrio p d) s = .next (descResult (makeReady v d) p 0)
                          ∧ descAt v d = y ∧ ∀ e, e ≠ d → descAt v e = descAt s e)))
                ∧ (x.st ≠ 0 → x.sup = false → (∃ u, exec (.descKill p d) s = .next u ∧ resultIs u p 4 ∧ same u)
                    ∧ ∃ u, exec (.descSetPrio p d) s = .next u ∧ resultIs u p 4 ∧ same u))
          ∧ (¬ keeper → (∃ u, exec (.descCreate p d) s = .next u ∧ resultIs u p 2 ∧ same u)
              ∧ (∃ u, exec (.descKill p d) s = .next u ∧ resultIs u p 2 ∧ same u)
              ∧ ∃ u, exec (.descSetPrio p d) s = .next u ∧ resultIs u p 2 ∧ same u))
      ∧ (∀ core d, (coreAt s core).run = some d → coreRunning s d = some core → (descAt s d).island = core / 8 →
          (sliceDue s core = true →
              ((descAt s d).sup = true → ieOf (descAt s d) = false →
                  ∃ u, exec (.sliceExpiry core) s = .next u ∧ coreAt u core = { coreAt s core with pend := true }
                    ∧ (∀ i, i ≠ core → coreAt u i = coreAt s i) ∧ u = { s with sch := { s.sch with cores := u.sch.cores } })
                ∧ (¬ ((descAt s d).sup = true ∧ ieOf (descAt s d) = false) →
                  ∃ v, settles (.sliceExpiry core) d v ∧ (coreAt v core).run = none ∧ (descAt v d).st = dsReady
                    ∧ queueAt v (key d) = queueAt s (key d) ++ [d]
                    ∧ (descAt v d).runtime
                        = Nat.min ((descAt s d).runtime + (now s - (coreAt s core).since) / 1000) 0xFFFFFFFF))
            ∧ (now s < (coreAt s core).since + sliceUs s * 1000 → exec (.sliceExpiry core) s = .next s)
            ∧ ((descAt s d).st = dsRunning → (descAt s d).wait ≠ 0 → (descAt s d).waitAt + blockTicks s ≤ now s →
                ∃ v, settles (.threadBlock d) d v ∧ (coreAt v core).run = none ∧ (descAt v d).st = dsBlocked)
            ∧ ((descAt s d).st = dsRunning → dbgOpen s = true →
                ∃ v, settles (.debugHalt d) d v ∧ (coreAt v core).run = none ∧ (descAt v d).st = dsHalted)
            ∧ (∀ l1 l2, ∀ code : BitVec 8, supMode s d = true → ieOf (descAt s d) = true → stackRoom s d core l1 l2 →
                tabWf s.sch.locals = true → tabWf s.sch.cluster = true → (code = 0x10 ∨ code = 0x12 ∨ code = 0x13) →
                ∃ u, exec (.interruptTaken core code) s = .next u ∧ readLoc u l1 = (descAt s d).fl
                  ∧ readLoc u l2 = mkW 0 (descAt s d).pc
                  ∧ readLoc u (.core (core * 2 ^ 17 + 0xF9)) = mkW 0 (BitVec.ofNat 32 code.toNat)
                  ∧ (∀ e, e ≠ d → descAt u e = descAt s e)
                  ∧ descAt u d = { descAt s d with
                      sp := (descAt s d).sp - 1 - 1, fl := ((descAt s d).fl ||| 0x100) &&& ~~~(0x200 : W36)
                      pc := BitVec.ofNat 32 (0x100 + 8 * code.toNat), halted := false, wait := 0 })
            ∧ (∀ code, takesInterrupt s core = false → exec (.interruptTaken core code) s = .next s)
            ∧ ((descAt s d).sup = true → (coreAt s core).failed = false → tabWf (tabAt (descAt s d) s.sch.created d).g = true →
                ∃ v, exec (.coreFailure core) s = .next (makeReady v d) ∧ coreAt v core = { coreAt s core with
                    failed := true, run := none, pend := false, pf := none }
                  ∧ (descAt v d).pc = (descAt s d).restart ∧ tabAt 0 (descAt v d).g 1 = mkW 0 (BitVec.ofNat 32 d)
                  ∧ (rsqAt v evSch).bits.any (fun e => e.1 == 4) = true
                  ∧ ∀ e, e ≠ d → descAt v e
                      = { descAt s e with lastCore := if (descAt s e).lastCore = some core then none else (descAt s e).lastCore }))
      ∧ (∀ core, (coreAt s core).failed = false → (coreAt s core).run = none →
          ∃ v, exec (.coreFailure core) s = .next (settleIsland v (core / 8)) ∧ (coreAt v core).failed = true
            ∧ (rsqAt v evSch).bits.any (fun e => e.1 == 4) = true)
      ∧ (∀ core, (coreAt s core).failed = true → exec (.coreFailure core) s = .next s)
      ∧ (∀ d,
          ((descAt s d).st = dsSleeping → wakeDue s d = true →
              ∃ v, readies (.threadWake d) d v ∧ descAt v d = { descAt s d with st := dsReady })
            ∧ ((descAt s d).st = dsSleeping → wakeDue s d = false → exec (.threadWake d) s = .next s)
            ∧ ((descAt s d).st = dsBlocked → mayProceed s d = true →
              ∃ v, readies (.threadUnblock d) d v ∧ descAt v d = { descAt s d with st := dsReady, wait := 0 })
            ∧ ((descAt s d).st = dsBlocked → mayProceed s d = false → exec (.threadUnblock d) s = .next s)
            ∧ ((descAt s d).wait = 0 ∨ now s < (descAt s d).waitAt + blockTicks s → exec (.threadBlock d) s = .next s)
            ∧ (dbgOpen s = false → exec (.debugHalt d) s = .next s))

/-! ### Queue, words, canonical forms -/

/-- The queue of waiting commands is first in, first out: a step with a command in front is that command's effect on the state with the
queue's rest; on an empty queue time passes (the model's choice, log 2). Every command answers a next state in every state. -/
def Obligations.StepRunsTheCommandInFront : Prop :=
  (∀ (s : State) (c : Instr) (rest : List Instr), s.pending = c :: rest → step s = exec c { s with pending := rest })
    ∧ (∀ s : State, s.pending = [] → ∃ t, step s = .next t ∧ t = { s with time := t.time } ∧ (s.power.aonOk = false → t = s)
        ∧ (s.power.aonOk = true → s.time.refclk = true → s.time.slew = 0 → t.time.master = s.time.master + 1))
    ∧ ∀ i : Instr, neverStops i

/-- No command changes the queue of waiting commands, whatever its effect. -/
def Obligations.CommandsLeaveTheQueueAlone : Prop :=
  ∀ (i : Instr) (s t : State), exec i s = .next t → t.pending = s.pending

/-- R448, R449: the words of the worked example of the *Programming* chapter decode to the instructions that it gives for them, and a
word of a reserved op decodes to none. -/
def Obligations.WorkedExampleWordsDecode : Prop :=
  ∀ t : Nat,
    let im : BitVec 4 → BitVec 5 → BitVec 5 → BitVec 16 → Im := fun c d a n => { t := t, cond := c, rd := d, ra := a, imm := n }
    let rg : BitVec 4 → BitVec 5 → BitVec 5 → BitVec 5 → BitVec 11 → Rg := fun c d a b f =>
      { t := t, cond := c, rd := d, ra := a, rb := b, fn := f }
    imDecode t 0x011400000 = some (.imAddi (im 0 10 0 0))
      ∧ imDecode t 0x0688A0000 = some (.imLq (.imm (im 0 4 10 0)) false)
      ∧ imDecode t 0x0114A0005 = some (.imAddi (im 0 10 10 5))
      ∧ imDecode t 0x000040201 = some (.imSub (rg 0 0 4 0 0x201))
      ∧ imDecode t 0xF116B0001 = some (.imAddi (im 15 11 11 1))
      ∧ imDecode t 0xF018C2400 = some (.imAdd (rg 15 12 12 4 0x400))
      ∧ imDecode t 0x483FFFFFA = some (.imBr { t := t, cond := 4, off := -6 })
      ∧ imDecode t 0x075601000 = some (.imS4 (.imm (im 0 11 0 0x1000)))
      ∧ imDecode t 0x079801004 = some (.imSq (.imm (im 0 12 0 0x1004)))
      ∧ imDecode t 0x0F005000B = some (.imEnd (rg 0 0 5 0 0x0B))
      ∧ imDecode t 0x03C000000 = none ∧ imDecode t 0x0FC000000 = none

/-- R448, R449: decoding an encoded Imlas-36 instruction gives it back with its thread, its condition in bits [35:32] and every operand;
encoding a decoded word gives the word back, and what decodes is well formed. -/
def Obligations.ImlasWordsRoundTrip : Prop :=
  (∀ (i : Instr) (w : W36), WellFormed i = true → plain i = true → imEncode i = some w →
      ∃ t c, issuer i = some (t, c) ∧ imDecode t w = some i ∧ w.extractLsb' 32 4 = c)
    ∧ (∀ (i : Instr) (t : Nat) (c : BitVec 4), issuer i = some (t, c) → (imEncode i).isSome = true)
    ∧ ∀ (t : Nat) (w : W36) (i : Instr), t < 16384 → imDecode t w = some i → imEncode i = some w ∧ WellFormed i = true ∧ plain i = true

/-- The memories, and the tables that hold registers, map entries, descriptors and the other keyed parts of the state, keep their
canonical form at every step. -/
def Obligations.EveryStepKeepsTheCanonicalForms : Prop :=
  ∀ s t : State, canonical s → step s = .next t → canonical t

/-- R39, R45, R71 and *Global registers*: the state at reset. Every table is in canonical form, every register has the value of its Reset
column, no command waits, the Etch fence is raised, no stage has begun and no controller is enabled; the identity of the part is
that of manufacture, which the model names (log 6). -/
def Obligations.ResetStateIsCanonicalAndEmpty : Prop :=
  canonical State.reset ∧ State.reset.pending = [] ∧ (∀ k, regAt State.reset k = resetValue k)
    ∧ (∀ off, rsqAt State.reset off = { seq := 0, bits := [] }) ∧ State.reset.power.fence = true ∧ State.reset.power.pwrOk = false
    ∧ State.reset.power.stage = none ∧ State.reset.power.started = false ∧ (∀ f, (ctrlAt State.reset f).en = false)
    ∧ State.reset.host.exec = [] ∧ State.reset.chn.slots = [] ∧ State.reset.chn.jobs = [] ∧ now State.reset = 0
    ∧ (∀ d, (descAt State.reset d).st = dsFree) ∧ (∀ a, memByte State.reset.drc.dram a = 0)
    ∧ (tenantAt State.reset 1).enabled = true ∧ (tenantAt State.reset 1).jobs = 65535 ∧ State.reset.ftl.namespaces = []
end

