-- ==== Sys2Proof/Laws/Codewords.lean ====
section
/-! SUPPORT. Laws of byte strings, of CRC-32C and of the CRC field of a codeword (R7, R123, R126). -/

namespace Sys2Proof.Laws

open Sys2Proof.Machine

/-! ### Bytes -/

@[simp] theorem leBytes_length (n k : Nat) : (leBytes n k).length = k := by
  induction k generalizing n with
  | zero => rfl
  | succ k ih => simp [leBytes, ih]

@[simp] theorem padTo_length (n : Nat) (bs : List Byte) : (padTo n bs).length = n := by
  simp [padTo, zeros]; omega

@[simp] theorem zeros_length (n : Nat) : (zeros n).length = n := by simp [zeros]

/-- The number read back from little-endian bytes. -/
theorem leNat_leBytes (n k : Nat) : leNat (leBytes n k) = n % 256 ^ k := by
  induction k generalizing n with
  | zero => simp [leBytes, leNat, Nat.mod_one]
  | succ k ih =>
    simp only [leBytes, leNat, ih, BitVec.toNat_ofNat, Nat.shiftRight_eq_div_pow]
    rw [show (2 : Nat) ^ 8 = 256 from rfl, Nat.pow_succ', Nat.mod_mul]

/-! ### CRC-32C -/

theorem crcStep_lt {p r : Nat} (hp : p < 2 ^ 32) (hr : r < 2 ^ 32) : crcStep p r < 2 ^ 32 := by
  have h : r >>> 1 < 2 ^ 32 := by rw [Nat.shiftRight_eq_div_pow]; omega
  unfold crcStep
  split
  · exact Nat.xor_lt_two_pow h hp
  · exact h

theorem crcByte_lt {p r : Nat} (hp : p < 2 ^ 32) (hr : r < 2 ^ 32) (b : Byte) : crcByte p r b < 2 ^ 32 := by
  have h : r ^^^ b.toNat < 2 ^ 32 := Nat.xor_lt_two_pow hr (by have := b.isLt; omega)
  simp only [crcByte]
  exact crcStep_lt hp (crcStep_lt hp (crcStep_lt hp (crcStep_lt hp (crcStep_lt hp (crcStep_lt hp (crcStep_lt hp (crcStep_lt hp h)))))))

/-- A CRC-32C has 32 bits. -/
theorem crc32c_lt (bs : List Byte) : crc32c bs < 2 ^ 32 := by
  have run : ∀ (l : List Byte) (r : Nat), r < 2 ^ 32 → crc32cRun r l < 2 ^ 32 := by
    intro l
    induction l with
    | nil => intro r hr; exact hr
    | cons b l ih => intro r hr; exact ih _ (crcByte_lt (by decide) hr b)
  exact Nat.xor_lt_two_pow (run bs _ (by decide)) (by decide)

/-! ### The information part -/

@[simp] theorem metaHead_length (w : Codeword) : (metaHead w).length = 32 := by simp [metaHead]

@[simp] theorem infoBytes_length (w : Codeword) : (infoBytes w).length = 4184 := by simp [infoBytes]

/-- What the CRC covers, and where the field stands. -/
theorem infoBytes_take (w : Codeword) : (infoBytes w).take 4128 = padTo 4096 w.user ++ metaHead w := by
  rw [infoBytes, List.append_assoc (padTo 4096 w.user ++ metaHead w), List.take_append_of_le_length (by simp),
    List.take_of_length_le (by simp)]

theorem infoBytes_crc (w : Codeword) : leAt (infoBytes w) 4128 4 = w.crc % 2 ^ 32 := by
  have h : (infoBytes w).drop 4128 = leBytes w.crc 4 ++ zeros 52 := by
    rw [infoBytes, List.append_assoc (padTo 4096 w.user ++ metaHead w), List.drop_append_of_le_length (by simp),
      List.drop_of_length_le (by simp), List.nil_append]
  rw [leAt, h, List.take_append_of_le_length (by simp), List.take_of_length_le (by simp), leNat_leBytes,
    show (256 : Nat) ^ 4 = 2 ^ 32 from rfl]

/-- An output that is the codeword stored verifies where the codeword's field holds its CRC. -/
theorem outputVerifies_same (w : Codeword) : outputVerifies w [] = (w.crc % 2 ^ 32 == crcOf w) := by
  simp only [outputVerifies, flipBits, List.foldl_nil, infoBytes_crc, infoBytes_take, crcOf]

/-- A codeword as it is programmed verifies, wherever it stands. -/
theorem sealWord_verifies (key : Nat) (w : Codeword) : outputVerifies (sealWord key w) [] = true := by
  rw [outputVerifies_same, beq_iff_eq]
  exact Nat.mod_eq_of_lt (crc32c_lt _)

/-- An output that differs from it in bit 0 of the CRC field does not verify. -/
theorem sealWord_flipped (key : Nat) (w : Codeword) : outputVerifies (sealWord key w) [4128 * 8] = false := by
  have hs := sealWord_verifies key w
  simp only [outputVerifies, flipBits, List.foldl_nil, List.foldl_cons] at hs ⊢
  generalize hl : infoBytes (sealWord key w) = l at hs ⊢
  have hn : l.length = 4184 := by rw [← hl]; exact infoBytes_length _
  obtain ⟨x, r, hx⟩ : ∃ x r, l.drop 4128 = x :: r := by
    cases h : l.drop 4128 with
    | nil => have := congrArg List.length h; simp [hn] at this
    | cons x r => exact ⟨x, r, rfl⟩
  have hr : l.drop 4129 = r := by rw [show 4129 = 4128 + 1 from rfl, ← List.drop_drop, hx]; rfl
  have hg : l[4128]? = some x := by rw [← List.head?_drop, hx]; rfl
  have hd : (overlayAt l 4128 [x ^^^ 1]).drop 4128 = (x ^^^ 1) :: r := by
    rw [overlayAt, List.append_assoc, List.drop_append_of_le_length (by simp [hn]), List.drop_of_length_le (by simp [hn])]
    simp [hr]
  have ht : (overlayAt l 4128 [x ^^^ 1]).take 4128 = l.take 4128 := by
    rw [overlayAt, List.append_assoc, List.take_append_of_le_length (by simp [hn]), List.take_of_length_le (by simp [hn])]
  have hb : (4128 * 8) / 8 = 4128 ∧ BitVec.ofNat 8 (2 ^ (4128 * 8 % 8)) = (1 : Byte) := by decide
  simp only [hb.1, hb.2, hg, Option.getD_some, leAt, hd, ht, beq_eq_false_iff_ne]
  simp only [leAt, hx, beq_iff_eq] at hs
  rw [← hs]
  simp only [List.take_succ_cons, leNat]
  intro h
  have h1 : (x ^^^ 1).toNat = x.toNat := by omega
  have h2 : x ^^^ 1 = x := BitVec.eq_of_toNat_eq h1
  have h3 : (1 : Byte) = 0 := by
    calc (1 : Byte) = x ^^^ (x ^^^ 1) := by rw [← BitVec.xor_assoc, BitVec.xor_self, BitVec.zero_xor]
      _ = 0 := by rw [h2]; exact BitVec.xor_self
  exact absurd h3 (by decide)

/-! ### Stripe parity -/

@[simp] theorem padTo_padTo (n : Nat) (bs : List Byte) : padTo n (padTo n bs) = padTo n bs := by
  have h := padTo_length n bs
  generalize padTo n bs = l at h
  subst h
  simp [padTo, zeros]

theorem padTo_nil (n : Nat) : padTo n [] = zeros n := by simp [padTo, zeros]

theorem zeros_xor (l : List Byte) : (zeros l.length).zipWith (· ^^^ ·) l = l := by
  induction l with
  | nil => rfl
  | cons x l ih =>
    show (0 ^^^ x) :: (zeros l.length).zipWith (· ^^^ ·) l = x :: l
    rw [ih]
    exact congrArg (· :: l) BitVec.zero_xor

theorem xor_zeros (l : List Byte) : l.zipWith (· ^^^ ·) (zeros l.length) = l := by
  induction l with
  | nil => rfl
  | cons x l ih =>
    show (x ^^^ 0) :: l.zipWith (· ^^^ ·) (zeros l.length) = x :: l
    rw [ih]
    exact congrArg (· :: l) BitVec.xor_zero

/-- A zero codeword changes nothing of the other but that its user bytes are filled up. -/
theorem xorWords_zero_left (w : Codeword) : xorWords zeroWord w = { w with user := padTo 4096 w.user, white := 0 } := by
  have h := zeros_xor (padTo 4096 w.user)
  rw [padTo_length] at h
  simp [xorWords, zeroWord, padTo_nil, h]

theorem xorWords_zero_right (w : Codeword) : xorWords w zeroWord = { w with user := padTo 4096 w.user, white := 0 } := by
  have h := xor_zeros (padTo 4096 w.user)
  rw [padTo_length] at h
  simp [xorWords, zeroWord, padTo_nil, h]

/-- A stripe of which one page alone holds a codeword has that codeword as the XOR of its pages. -/
theorem xorAt_one (s : State) (k : Nat) (ks : List Nat) (h : ∀ j ∈ ks, pageWord s j = zeroWord) :
    xorAt s (k :: ks) = { pageWord s k with user := padTo 4096 (pageWord s k).user, white := 0 } := by
  have rest : ∀ (ks : List Nat) (a : Codeword), (∀ j ∈ ks, pageWord s j = zeroWord) →
      ks.foldl (fun a k => xorWords a (pageWord s k)) { a with user := padTo 4096 a.user, white := 0 }
        = { a with user := padTo 4096 a.user, white := 0 } := by
    intro ks
    induction ks with
    | nil => intro a _; rfl
    | cons j ks ih =>
      intro a h
      rw [List.foldl_cons, h j List.mem_cons_self, xorWords_zero_right]
      simp only [padTo_padTo]
      exact ih a (fun i hi => h i (List.mem_cons_of_mem _ hi))
  rw [xorAt, List.foldl_cons, xorWords_zero_left]
  exact rest ks _ h

/-- Its CRC field verifies where that codeword was sealed as it was programmed. -/
theorem filled_verifies (w : Codeword) (key white : Nat) :
    outputVerifies { sealWord key w with user := padTo 4096 w.user, white := white } [] = true := by
  rw [outputVerifies_same, beq_iff_eq]
  have h : crcOf { sealWord key w with user := padTo 4096 w.user, white := white } = crcOf w := by
    simp only [crcOf, sealWord, metaHead, locatorOf, padTo_padTo]
  rw [h]
  exact Nat.mod_eq_of_lt (crc32c_lt _)

end Sys2Proof.Laws
end

