-- ==== Sys2Proof/Laws/Sparse.lean ====
section
/-! SUPPORT. The laws of sparse tables and byte memories: reads after writes, writes leave other places alone, every operation
keeps the canonical form. -/

namespace Sys2Proof.Machine

variable {α : Type}

/-! ### Reads after writes -/

@[simp] theorem tabGet_put_same (t : List (Nat × α)) (k : Nat) (v : α) : tabGet (tabPut t k v) k = some v := by
  induction t with
  | nil => simp [tabPut, tabGet]
  | cons e t ih =>
    obtain ⟨j, w⟩ := e
    simp only [tabPut]
    split
    · simp [tabGet]
    · split
      · simp [tabGet]
      · rename_i h1 h2
        have : j ≠ k := fun h => h2 h.symm
        simp [tabGet, this, ih]

theorem tabGet_put_other (t : List (Nat × α)) (k i : Nat) (v : α) (h : i ≠ k) : tabGet (tabPut t k v) i = tabGet t i := by
  induction t with
  | nil => simp [tabPut, tabGet, Ne.symm h]
  | cons e t ih =>
    obtain ⟨j, w⟩ := e
    simp only [tabPut]
    split
    · simp [tabGet, Ne.symm h]
    · split
      · rename_i h1 h2
        subst h2
        simp [tabGet, Ne.symm h]
      · simp [tabGet, ih]

/-- A key below every listed one has no entry. -/
theorem tabGet_below (t : List (Nat × α)) (lo k : Nat) (h : risesFrom lo t = true) (hk : k < lo) : tabGet t k = none := by
  induction t generalizing lo with
  | nil => rfl
  | cons e t ih =>
    obtain ⟨j, w⟩ := e
    simp only [risesFrom, Bool.and_eq_true, decide_eq_true_eq] at h
    have : j ≠ k := by omega
    simp only [tabGet, this, if_false]
    exact ih (j + 1) h.2 (by omega)

theorem tabGet_del_same (t : List (Nat × α)) (lo k : Nat) (h : risesFrom lo t = true) : tabGet (tabDel t k) k = none := by
  induction t generalizing lo with
  | nil => rfl
  | cons e t ih =>
    obtain ⟨j, w⟩ := e
    simp only [risesFrom, Bool.and_eq_true, decide_eq_true_eq] at h
    simp only [tabDel]
    split
    · rename_i hj
      subst hj
      exact tabGet_below t (j + 1) j h.2 (by omega)
    · rename_i hj
      simp only [tabGet, hj, if_false]
      exact ih (j + 1) h.2

theorem tabGet_del_other (t : List (Nat × α)) (k i : Nat) (h : i ≠ k) : tabGet (tabDel t k) i = tabGet t i := by
  induction t with
  | nil => rfl
  | cons e t ih =>
    obtain ⟨j, w⟩ := e
    simp only [tabDel]
    split
    · rename_i hj
      subst hj
      simp [tabGet, Ne.symm h]
    · simp [tabGet, ih]

@[simp] theorem tabAt_put_same (d : α) (t : List (Nat × α)) (k : Nat) (v : α) : tabAt d (tabPut t k v) k = v := by
  simp [tabAt]

theorem tabAt_put_other (d : α) (t : List (Nat × α)) (k i : Nat) (v : α) (h : i ≠ k) :
    tabAt d (tabPut t k v) i = tabAt d t i := by
  simp [tabAt, tabGet_put_other t k i v h]

@[simp] theorem tabAt_upd_same (d : α) (t : List (Nat × α)) (k : Nat) (f : α → α) :
    tabAt d (tabUpd d t k f) k = f (tabAt d t k) := by
  simp [tabUpd]

theorem tabAt_upd_other (d : α) (t : List (Nat × α)) (k i : Nat) (f : α → α) (h : i ≠ k) :
    tabAt d (tabUpd d t k f) i = tabAt d t i := by
  simp [tabUpd, tabAt_put_other d t k i _ h]

theorem tabAt_set_same [DecidableEq α] (d : α) (t : List (Nat × α)) (k : Nat) (v : α) (h : tabWf t = true) :
    tabAt d (tabSet d t k v) k = v := by
  unfold tabSet
  split
  · rename_i hv
    simp [tabAt, tabGet_del_same t 0 k h, hv]
  · simp

theorem tabAt_set_other [DecidableEq α] (d : α) (t : List (Nat × α)) (k i : Nat) (v : α) (h : i ≠ k) :
    tabAt d (tabSet d t k v) i = tabAt d t i := by
  unfold tabSet
  split
  · simp [tabAt, tabGet_del_other t k i h]
  · exact tabAt_put_other d t k i v h

/-! ### The canonical form -/

theorem risesFrom_mono (t : List (Nat × α)) (a b : Nat) (h : risesFrom b t = true) (hab : a ≤ b) : risesFrom a t = true := by
  cases t with
  | nil => rfl
  | cons e t =>
    obtain ⟨j, w⟩ := e
    simp only [risesFrom, Bool.and_eq_true, decide_eq_true_eq] at h ⊢
    exact ⟨by omega, h.2⟩

theorem risesFrom_put (t : List (Nat × α)) (lo k : Nat) (v : α) (h : risesFrom lo t = true) (hk : lo ≤ k) :
    risesFrom lo (tabPut t k v) = true := by
  induction t generalizing lo with
  | nil => simp [tabPut, risesFrom, hk]
  | cons e t ih =>
    obtain ⟨j, w⟩ := e
    simp only [risesFrom, Bool.and_eq_true, decide_eq_true_eq] at h
    simp only [tabPut]
    split
    · rename_i hkj
      simp only [risesFrom, Bool.and_eq_true, decide_eq_true_eq]
      exact ⟨hk, by omega, h.2⟩
    · split
      · rename_i h1 h2
        subst h2
        simp only [risesFrom, Bool.and_eq_true, decide_eq_true_eq]
        exact ⟨hk, h.2⟩
      · rename_i h1 h2
        simp only [risesFrom, Bool.and_eq_true, decide_eq_true_eq]
        exact ⟨h.1, ih (j + 1) h.2 (by omega)⟩

theorem risesFrom_del (t : List (Nat × α)) (lo k : Nat) (h : risesFrom lo t = true) : risesFrom lo (tabDel t k) = true := by
  induction t generalizing lo with
  | nil => rfl
  | cons e t ih =>
    obtain ⟨j, w⟩ := e
    simp only [risesFrom, Bool.and_eq_true, decide_eq_true_eq] at h
    simp only [tabDel]
    split
    · exact risesFrom_mono t lo (j + 1) h.2 (by omega)
    · simp only [risesFrom, Bool.and_eq_true, decide_eq_true_eq]
      exact ⟨h.1, ih (j + 1) h.2⟩

theorem risesFrom_filter (p : Nat × α → Bool) (t : List (Nat × α)) (lo : Nat) (h : risesFrom lo t = true) :
    risesFrom lo (t.filter p) = true := by
  induction t generalizing lo with
  | nil => rfl
  | cons e t ih =>
    obtain ⟨j, w⟩ := e
    simp only [risesFrom, Bool.and_eq_true, decide_eq_true_eq] at h
    simp only [List.filter]
    split
    · simp only [risesFrom, Bool.and_eq_true, decide_eq_true_eq]
      exact ⟨h.1, ih (j + 1) h.2⟩
    · exact risesFrom_mono _ lo (j + 1) (ih (j + 1) h.2) (by omega)

theorem tabWf_put (t : List (Nat × α)) (k : Nat) (v : α) (h : tabWf t = true) : tabWf (tabPut t k v) = true :=
  risesFrom_put t 0 k v h (Nat.zero_le k)

theorem tabWf_del (t : List (Nat × α)) (k : Nat) (h : tabWf t = true) : tabWf (tabDel t k) = true := risesFrom_del t 0 k h

theorem tabWf_set [DecidableEq α] (d : α) (t : List (Nat × α)) (k : Nat) (v : α) (h : tabWf t = true) :
    tabWf (tabSet d t k v) = true := by
  unfold tabSet
  split
  · exact tabWf_del t k h
  · exact tabWf_put t k v h

theorem tabWf_upd (d : α) (t : List (Nat × α)) (k : Nat) (f : α → α) (h : tabWf t = true) : tabWf (tabUpd d t k f) = true :=
  tabWf_put t k _ h

theorem all_put (p : Nat × α → Bool) (t : List (Nat × α)) (k : Nat) (v : α) (h : t.all p = true) (hv : p (k, v) = true) :
    (tabPut t k v).all p = true := by
  induction t with
  | nil => simp [tabPut, hv]
  | cons e t ih =>
    obtain ⟨j, w⟩ := e
    simp only [List.all_cons, Bool.and_eq_true] at h
    simp only [tabPut]
    split
    · simp [hv, h.1, h.2]
    · split
      · simp [hv, h.2]
      · simp [h.1, ih h.2]

theorem all_del (p : Nat × α → Bool) (t : List (Nat × α)) (k : Nat) (h : t.all p = true) : (tabDel t k).all p = true := by
  induction t with
  | nil => rfl
  | cons e t ih =>
    obtain ⟨j, w⟩ := e
    simp only [List.all_cons, Bool.and_eq_true] at h
    simp only [tabDel]
    split
    · exact h.2
    · simp [h.1, ih h.2]

/-- Writing a byte keeps the canonical form of a memory. -/
theorem Memory.wf_set (m : List (Nat × Byte)) (a : Nat) (b : Byte) (h : Memory.wf m = true) :
    Memory.wf (memSet m a b) = true := by
  unfold Memory.wf at h ⊢
  rw [Bool.and_eq_true] at h ⊢
  refine ⟨tabWf_set 0 m a b h.1, ?_⟩
  unfold memSet tabSet
  split
  · exact all_del _ m a h.2
  · rename_i hb
    exact all_put _ m a b h.2 (by simpa using hb)

/-- Writing bytes keeps it. -/
theorem Memory.wf_write (m : List (Nat × Byte)) (a : Nat) (bs : List Byte) (h : Memory.wf m = true) :
    Memory.wf (memWrite m a bs) = true := by
  induction bs generalizing m a with
  | nil => exact h
  | cons b bs ih => exact ih _ _ (Memory.wf_set m a b h)

/-- Clearing a span keeps it. -/
theorem Memory.wf_clear (m : List (Nat × Byte)) (a n : Nat) (h : Memory.wf m = true) :
    Memory.wf (memClear m a n) = true := by
  unfold Memory.wf at h ⊢
  rw [Bool.and_eq_true] at h ⊢
  refine ⟨risesFrom_filter _ m 0 h.1, ?_⟩
  rw [List.all_eq_true] at h ⊢
  intro e he
  exact h.2 e ((List.mem_filter.mp he).1)

/-! ### Bytes -/

theorem memByte_set_same (m : List (Nat × Byte)) (a : Nat) (b : Byte) (h : Memory.wf m = true) :
    memByte (memSet m a b) a = b := by
  unfold Memory.wf at h
  rw [Bool.and_eq_true] at h
  exact tabAt_set_same 0 m a b h.1

theorem memByte_set_other (m : List (Nat × Byte)) (a i : Nat) (b : Byte) (h : i ≠ a) :
    memByte (memSet m a b) i = memByte m i := tabAt_set_other 0 m a i b h

/-- A write of bytes leaves every byte outside them as it was. -/
theorem memByte_write_other (m : List (Nat × Byte)) (a i : Nat) (bs : List Byte) (h : i < a ∨ a + bs.length ≤ i) :
    memByte (memWrite m a bs) i = memByte m i := by
  induction bs generalizing m a with
  | nil => rfl
  | cons b bs ih =>
    simp only [List.length_cons] at h
    simp only [memWrite]
    rw [ih (memSet m a b) (a + 1) (by omega)]
    exact memByte_set_other m a i b (by omega)

/-- Bytes read back after a write of them. -/
theorem memRead_write_same (m : List (Nat × Byte)) (a : Nat) (bs : List Byte) (h : Memory.wf m = true) :
    memRead (memWrite m a bs) a bs.length = bs := by
  induction bs generalizing m a with
  | nil => rfl
  | cons b bs ih =>
    simp only [List.length_cons, memWrite, memRead]
    rw [ih (memSet m a b) (a + 1) (Memory.wf_set m a b h)]
    rw [memByte_write_other (memSet m a b) (a + 1) a bs (by omega), memByte_set_same m a b h]

end Sys2Proof.Machine
end

