-- ==== Sys2Proof/Laws/Imlas.lean ====
section
/-! SUPPORT. What an instruction of a thread can do: the checks before its effect, and the ends of its effect. -/

namespace Sys2Proof.Machine

open Sys2Proof.Safety

/-! ### One descriptor changed -/

theorem descAt_updDesc_same (s : State) (t : Nat) (g : Desc → Desc) : descAt (updDesc s t g) t = g (descAt s t) := by
  simp [descAt, updDesc, tabUpd, tabAt, tabGet_put_same]

theorem descAt_updDesc_other (s : State) (t d : Nat) (g : Desc → Desc) (h : d ≠ t) :
    descAt (updDesc s t g) d = descAt s d := by
  simp [descAt, updDesc, tabUpd, tabAt, tabGet_put_other _ _ _ _ h]

@[simp] theorem coreRunning_updDesc (s : State) (t d : Nat) (g : Desc → Desc) :
    coreRunning (updDesc s t g) d = coreRunning s d := rfl

@[simp] theorem coreAt_updDesc (s : State) (t c : Nat) (g : Desc → Desc) : coreAt (updDesc s t g) c = coreAt s c := rfl

/-- A thread's registers changed twice are changed once, by the composition. -/
theorem onlyThread_updDesc (s : State) (t : Nat) (g : Desc → Desc) : onlyThread s (updDesc s t g) t (g (descAt s t)) :=
  ⟨rfl, fun _ h => descAt_updDesc_other s t _ g h, descAt_updDesc_same s t g⟩

theorem onlyThread_then {s u : State} {t : Nat} {x : Desc} (h : onlyThread s u t x) (g : Desc → Desc) :
    onlyThread s (updDesc u t g) t (g x) := by
  obtain ⟨h1, h2, h3⟩ := h
  refine ⟨?_, fun d hd => ?_, ?_⟩
  · conv => lhs; rw [h1]
    rfl
  · rw [descAt_updDesc_other u t d g hd]; exact h2 d hd
  · rw [descAt_updDesc_same, h3]

/-! ### The boundary -/

/-- With no preemption waiting, the boundary changes nothing. -/
theorem boundary_of_quiet {s : State} {t : Nat} (h : quiet s t) : boundary s t = s := by
  unfold boundary
  split
  · rfl
  · rename_i c hc
    rw [h c hc]
    rfl

/-- Quiet lasts as long as FL.IE of the thread and the cores stay. -/
theorem quiet_of_onlyThread {s u : State} {t : Nat} {x : Desc} (h : onlyThread s u t x) (hq : quiet s t)
    (hi : ieOf x = ieOf (descAt s t)) : quiet u t := by
  obtain ⟨h1, -, h3⟩ := h
  intro c hc
  have e1 : coreRunning u t = coreRunning s t := by rw [h1]; rfl
  have e2 : coreAt u c = coreAt s c := by rw [h1]; rfl
  rw [h3, hi, e2]
  exact hq c (e1 ▸ hc)

/-! ### The run of an instruction -/

/-- A legal instruction that a thread issues has its effect. -/
theorem imRun_issues {s : State} {t : Nat} {cond : BitVec 4} (h : issues s t cond) (trap : Bool) (body : State → Eff) :
    imRun s t cond true trap body = .next (finishEff t (descAt s t).pc trap (body s)) := by
  obtain ⟨h1, ⟨k, h2⟩, h3⟩ := h
  unfold imRun
  rcases h2 with h2 | h2 <;> simp [h1, h2, h3]

/-- Its effect being done, the thread's PC moves on. -/
theorem finishEff_done {s u : State} {t : Nat} {x : Desc} {pc : Dword} {trap : Bool} (h : onlyThread s u t x)
    (hp : x.pc = pc) (hq : quiet u t) : onlyThread s (finishEff t pc trap (.done u)) t (nextPc x) := by
  have h1 := onlyThread_then h (fun y => { y with pc := pc + 1, wait := 0 })
  have h2 : quiet (updDesc u t (fun y => { y with pc := pc + 1, wait := 0 })) t := by
    intro c hc
    have := hq c hc
    rw [descAt_updDesc_same]
    exact this
  simp only [finishEff]
  rw [boundary_of_quiet h2]
  unfold nextPc
  rw [hp]
  exact h1

end Sys2Proof.Machine
end

