-- ==== Sys2Proof/Laws/State.lean ====
section
/-! SUPPORT. What each update of one part of the state leaves: one lemma per field per update, each true by computation. -/

namespace Sys2Proof.Machine

/-! ### setReg -/

@[simp] theorem setReg_pending (s : State) (key : Nat) (v : Dword) : (setReg s key v).pending = s.pending := rfl
@[simp] theorem setReg_freeCount (s : State) (key : Nat) (v : Dword) : (setReg s key v).freeCount = s.freeCount := rfl
@[simp] theorem setReg_time (s : State) (key : Nat) (v : Dword) : (setReg s key v).time = s.time := rfl
@[simp] theorem setReg_power (s : State) (key : Nat) (v : Dword) : (setReg s key v).power = s.power := rfl
@[simp] theorem setReg_media (s : State) (key : Nat) (v : Dword) : (setReg s key v).media = s.media := rfl
@[simp] theorem setReg_pcs (s : State) (key : Nat) (v : Dword) : (setReg s key v).pcs = s.pcs := rfl
@[simp] theorem setReg_ftl (s : State) (key : Nat) (v : Dword) : (setReg s key v).ftl = s.ftl := rfl
@[simp] theorem setReg_etch (s : State) (key : Nat) (v : Dword) : (setReg s key v).etch = s.etch := rfl
@[simp] theorem setReg_host (s : State) (key : Nat) (v : Dword) : (setReg s key v).host = s.host := rfl
@[simp] theorem setReg_tenants (s : State) (key : Nat) (v : Dword) : (setReg s key v).tenants = s.tenants := rfl
@[simp] theorem setReg_chn (s : State) (key : Nat) (v : Dword) : (setReg s key v).chn = s.chn := rfl
@[simp] theorem setReg_lanes (s : State) (key : Nat) (v : Dword) : (setReg s key v).lanes = s.lanes := rfl
@[simp] theorem setReg_codec (s : State) (key : Nat) (v : Dword) : (setReg s key v).codec = s.codec := rfl
@[simp] theorem setReg_cam (s : State) (key : Nat) (v : Dword) : (setReg s key v).cam = s.cam := rfl
@[simp] theorem setReg_cry (s : State) (key : Nat) (v : Dword) : (setReg s key v).cry = s.cry := rfl
@[simp] theorem setReg_sch (s : State) (key : Nat) (v : Dword) : (setReg s key v).sch = s.sch := rfl
@[simp] theorem setReg_drc (s : State) (key : Nat) (v : Dword) : (setReg s key v).drc = s.drc := rfl
@[simp] theorem setReg_stw (s : State) (key : Nat) (v : Dword) : (setReg s key v).stw = s.stw := rfl
@[simp] theorem setReg_therm (s : State) (key : Nat) (v : Dword) : (setReg s key v).therm = s.therm := rfl
@[simp] theorem setReg_cas (s : State) (key : Nat) (v : Dword) : (setReg s key v).cas = s.cas := rfl
@[simp] theorem setReg_bus_shadow (s : State) (key : Nat) (v : Dword) : (setReg s key v).bus.shadow = s.bus.shadow := rfl
@[simp] theorem setReg_bus_guards (s : State) (key : Nat) (v : Dword) : (setReg s key v).bus.guards = s.bus.guards := rfl
@[simp] theorem setReg_bus_rwb (s : State) (key : Nat) (v : Dword) : (setReg s key v).bus.rwb = s.bus.rwb := rfl
@[simp] theorem setReg_bus_applyCount (s : State) (key : Nat) (v : Dword) : (setReg s key v).bus.applyCount = s.bus.applyCount := rfl
@[simp] theorem setReg_bus_rsq (s : State) (key : Nat) (v : Dword) : (setReg s key v).bus.rsq = s.bus.rsq := rfl
@[simp] theorem setReg_bus_waiting (s : State) (key : Nat) (v : Dword) : (setReg s key v).bus.waiting = s.bus.waiting := rfl
@[simp] theorem setReg_bus_late (s : State) (key : Nat) (v : Dword) : (setReg s key v).bus.late = s.bus.late := rfl
@[simp] theorem setReg_bus_readData (s : State) (key : Nat) (v : Dword) : (setReg s key v).bus.readData = s.bus.readData := rfl

/-! ### setRegFld -/

@[simp] theorem setRegFld_pending (s : State) (key lo w n : Nat) : (setRegFld s key lo w n).pending = s.pending := rfl
@[simp] theorem setRegFld_freeCount (s : State) (key lo w n : Nat) : (setRegFld s key lo w n).freeCount = s.freeCount := rfl
@[simp] theorem setRegFld_time (s : State) (key lo w n : Nat) : (setRegFld s key lo w n).time = s.time := rfl
@[simp] theorem setRegFld_power (s : State) (key lo w n : Nat) : (setRegFld s key lo w n).power = s.power := rfl
@[simp] theorem setRegFld_media (s : State) (key lo w n : Nat) : (setRegFld s key lo w n).media = s.media := rfl
@[simp] theorem setRegFld_pcs (s : State) (key lo w n : Nat) : (setRegFld s key lo w n).pcs = s.pcs := rfl
@[simp] theorem setRegFld_ftl (s : State) (key lo w n : Nat) : (setRegFld s key lo w n).ftl = s.ftl := rfl
@[simp] theorem setRegFld_etch (s : State) (key lo w n : Nat) : (setRegFld s key lo w n).etch = s.etch := rfl
@[simp] theorem setRegFld_host (s : State) (key lo w n : Nat) : (setRegFld s key lo w n).host = s.host := rfl
@[simp] theorem setRegFld_tenants (s : State) (key lo w n : Nat) : (setRegFld s key lo w n).tenants = s.tenants := rfl
@[simp] theorem setRegFld_chn (s : State) (key lo w n : Nat) : (setRegFld s key lo w n).chn = s.chn := rfl
@[simp] theorem setRegFld_lanes (s : State) (key lo w n : Nat) : (setRegFld s key lo w n).lanes = s.lanes := rfl
@[simp] theorem setRegFld_codec (s : State) (key lo w n : Nat) : (setRegFld s key lo w n).codec = s.codec := rfl
@[simp] theorem setRegFld_cam (s : State) (key lo w n : Nat) : (setRegFld s key lo w n).cam = s.cam := rfl
@[simp] theorem setRegFld_cry (s : State) (key lo w n : Nat) : (setRegFld s key lo w n).cry = s.cry := rfl
@[simp] theorem setRegFld_sch (s : State) (key lo w n : Nat) : (setRegFld s key lo w n).sch = s.sch := rfl
@[simp] theorem setRegFld_drc (s : State) (key lo w n : Nat) : (setRegFld s key lo w n).drc = s.drc := rfl
@[simp] theorem setRegFld_stw (s : State) (key lo w n : Nat) : (setRegFld s key lo w n).stw = s.stw := rfl
@[simp] theorem setRegFld_therm (s : State) (key lo w n : Nat) : (setRegFld s key lo w n).therm = s.therm := rfl
@[simp] theorem setRegFld_cas (s : State) (key lo w n : Nat) : (setRegFld s key lo w n).cas = s.cas := rfl
@[simp] theorem setRegFld_bus_shadow (s : State) (key lo w n : Nat) : (setRegFld s key lo w n).bus.shadow = s.bus.shadow := rfl
@[simp] theorem setRegFld_bus_guards (s : State) (key lo w n : Nat) : (setRegFld s key lo w n).bus.guards = s.bus.guards := rfl
@[simp] theorem setRegFld_bus_rwb (s : State) (key lo w n : Nat) : (setRegFld s key lo w n).bus.rwb = s.bus.rwb := rfl
@[simp] theorem setRegFld_bus_applyCount (s : State) (key lo w n : Nat) : (setRegFld s key lo w n).bus.applyCount = s.bus.applyCount := rfl
@[simp] theorem setRegFld_bus_rsq (s : State) (key lo w n : Nat) : (setRegFld s key lo w n).bus.rsq = s.bus.rsq := rfl
@[simp] theorem setRegFld_bus_waiting (s : State) (key lo w n : Nat) : (setRegFld s key lo w n).bus.waiting = s.bus.waiting := rfl
@[simp] theorem setRegFld_bus_late (s : State) (key lo w n : Nat) : (setRegFld s key lo w n).bus.late = s.bus.late := rfl
@[simp] theorem setRegFld_bus_readData (s : State) (key lo w n : Nat) : (setRegFld s key lo w n).bus.readData = s.bus.readData := rfl

/-! ### answerRead -/

@[simp] theorem answerRead_pending (s : State) (p : Path) (v : Dword) : (answerRead s p v).pending = s.pending := rfl
@[simp] theorem answerRead_freeCount (s : State) (p : Path) (v : Dword) : (answerRead s p v).freeCount = s.freeCount := rfl
@[simp] theorem answerRead_time (s : State) (p : Path) (v : Dword) : (answerRead s p v).time = s.time := rfl
@[simp] theorem answerRead_power (s : State) (p : Path) (v : Dword) : (answerRead s p v).power = s.power := rfl
@[simp] theorem answerRead_media (s : State) (p : Path) (v : Dword) : (answerRead s p v).media = s.media := rfl
@[simp] theorem answerRead_pcs (s : State) (p : Path) (v : Dword) : (answerRead s p v).pcs = s.pcs := rfl
@[simp] theorem answerRead_ftl (s : State) (p : Path) (v : Dword) : (answerRead s p v).ftl = s.ftl := rfl
@[simp] theorem answerRead_etch (s : State) (p : Path) (v : Dword) : (answerRead s p v).etch = s.etch := rfl
@[simp] theorem answerRead_host (s : State) (p : Path) (v : Dword) : (answerRead s p v).host = s.host := rfl
@[simp] theorem answerRead_tenants (s : State) (p : Path) (v : Dword) : (answerRead s p v).tenants = s.tenants := rfl
@[simp] theorem answerRead_chn (s : State) (p : Path) (v : Dword) : (answerRead s p v).chn = s.chn := rfl
@[simp] theorem answerRead_lanes (s : State) (p : Path) (v : Dword) : (answerRead s p v).lanes = s.lanes := rfl
@[simp] theorem answerRead_codec (s : State) (p : Path) (v : Dword) : (answerRead s p v).codec = s.codec := rfl
@[simp] theorem answerRead_cam (s : State) (p : Path) (v : Dword) : (answerRead s p v).cam = s.cam := rfl
@[simp] theorem answerRead_cry (s : State) (p : Path) (v : Dword) : (answerRead s p v).cry = s.cry := rfl
@[simp] theorem answerRead_sch (s : State) (p : Path) (v : Dword) : (answerRead s p v).sch = s.sch := rfl
@[simp] theorem answerRead_drc (s : State) (p : Path) (v : Dword) : (answerRead s p v).drc = s.drc := rfl
@[simp] theorem answerRead_stw (s : State) (p : Path) (v : Dword) : (answerRead s p v).stw = s.stw := rfl
@[simp] theorem answerRead_therm (s : State) (p : Path) (v : Dword) : (answerRead s p v).therm = s.therm := rfl
@[simp] theorem answerRead_cas (s : State) (p : Path) (v : Dword) : (answerRead s p v).cas = s.cas := rfl
@[simp] theorem answerRead_bus_active (s : State) (p : Path) (v : Dword) : (answerRead s p v).bus.active = s.bus.active := rfl
@[simp] theorem answerRead_bus_shadow (s : State) (p : Path) (v : Dword) : (answerRead s p v).bus.shadow = s.bus.shadow := rfl
@[simp] theorem answerRead_bus_guards (s : State) (p : Path) (v : Dword) : (answerRead s p v).bus.guards = s.bus.guards := rfl
@[simp] theorem answerRead_bus_rwb (s : State) (p : Path) (v : Dword) : (answerRead s p v).bus.rwb = s.bus.rwb := rfl
@[simp] theorem answerRead_bus_applyCount (s : State) (p : Path) (v : Dword) : (answerRead s p v).bus.applyCount = s.bus.applyCount := rfl
@[simp] theorem answerRead_bus_rsq (s : State) (p : Path) (v : Dword) : (answerRead s p v).bus.rsq = s.bus.rsq := rfl
@[simp] theorem answerRead_bus_waiting (s : State) (p : Path) (v : Dword) : (answerRead s p v).bus.waiting = s.bus.waiting := rfl
@[simp] theorem answerRead_bus_late (s : State) (p : Path) (v : Dword) : (answerRead s p v).bus.late = s.bus.late := rfl

/-! ### raiseBits -/

@[simp] theorem raiseBits_pending (s : State) (off : Nat) (bits : List Nat) : (raiseBits s off bits).pending = s.pending := rfl
@[simp] theorem raiseBits_freeCount (s : State) (off : Nat) (bits : List Nat) : (raiseBits s off bits).freeCount = s.freeCount := rfl
@[simp] theorem raiseBits_time (s : State) (off : Nat) (bits : List Nat) : (raiseBits s off bits).time = s.time := rfl
@[simp] theorem raiseBits_power (s : State) (off : Nat) (bits : List Nat) : (raiseBits s off bits).power = s.power := rfl
@[simp] theorem raiseBits_media (s : State) (off : Nat) (bits : List Nat) : (raiseBits s off bits).media = s.media := rfl
@[simp] theorem raiseBits_pcs (s : State) (off : Nat) (bits : List Nat) : (raiseBits s off bits).pcs = s.pcs := rfl
@[simp] theorem raiseBits_ftl (s : State) (off : Nat) (bits : List Nat) : (raiseBits s off bits).ftl = s.ftl := rfl
@[simp] theorem raiseBits_etch (s : State) (off : Nat) (bits : List Nat) : (raiseBits s off bits).etch = s.etch := rfl
@[simp] theorem raiseBits_host (s : State) (off : Nat) (bits : List Nat) : (raiseBits s off bits).host = s.host := rfl
@[simp] theorem raiseBits_tenants (s : State) (off : Nat) (bits : List Nat) : (raiseBits s off bits).tenants = s.tenants := rfl
@[simp] theorem raiseBits_chn (s : State) (off : Nat) (bits : List Nat) : (raiseBits s off bits).chn = s.chn := rfl
@[simp] theorem raiseBits_lanes (s : State) (off : Nat) (bits : List Nat) : (raiseBits s off bits).lanes = s.lanes := rfl
@[simp] theorem raiseBits_codec (s : State) (off : Nat) (bits : List Nat) : (raiseBits s off bits).codec = s.codec := rfl
@[simp] theorem raiseBits_cam (s : State) (off : Nat) (bits : List Nat) : (raiseBits s off bits).cam = s.cam := rfl
@[simp] theorem raiseBits_cry (s : State) (off : Nat) (bits : List Nat) : (raiseBits s off bits).cry = s.cry := rfl
@[simp] theorem raiseBits_sch (s : State) (off : Nat) (bits : List Nat) : (raiseBits s off bits).sch = s.sch := rfl
@[simp] theorem raiseBits_drc (s : State) (off : Nat) (bits : List Nat) : (raiseBits s off bits).drc = s.drc := rfl
@[simp] theorem raiseBits_stw (s : State) (off : Nat) (bits : List Nat) : (raiseBits s off bits).stw = s.stw := rfl
@[simp] theorem raiseBits_therm (s : State) (off : Nat) (bits : List Nat) : (raiseBits s off bits).therm = s.therm := rfl
@[simp] theorem raiseBits_cas (s : State) (off : Nat) (bits : List Nat) : (raiseBits s off bits).cas = s.cas := rfl
@[simp] theorem raiseBits_bus_active (s : State) (off : Nat) (bits : List Nat) : (raiseBits s off bits).bus.active = s.bus.active := rfl
@[simp] theorem raiseBits_bus_shadow (s : State) (off : Nat) (bits : List Nat) : (raiseBits s off bits).bus.shadow = s.bus.shadow := rfl
@[simp] theorem raiseBits_bus_guards (s : State) (off : Nat) (bits : List Nat) : (raiseBits s off bits).bus.guards = s.bus.guards := rfl
@[simp] theorem raiseBits_bus_rwb (s : State) (off : Nat) (bits : List Nat) : (raiseBits s off bits).bus.rwb = s.bus.rwb := rfl
@[simp] theorem raiseBits_bus_applyCount (s : State) (off : Nat) (bits : List Nat) : (raiseBits s off bits).bus.applyCount = s.bus.applyCount := rfl
@[simp] theorem raiseBits_bus_waiting (s : State) (off : Nat) (bits : List Nat) : (raiseBits s off bits).bus.waiting = s.bus.waiting := rfl
@[simp] theorem raiseBits_bus_late (s : State) (off : Nat) (bits : List Nat) : (raiseBits s off bits).bus.late = s.bus.late := rfl
@[simp] theorem raiseBits_bus_readData (s : State) (off : Nat) (bits : List Nat) : (raiseBits s off bits).bus.readData = s.bus.readData := rfl

/-! ### raise -/

@[simp] theorem raise_pending (s : State) (off bit : Nat) : (raise s off bit).pending = s.pending := rfl
@[simp] theorem raise_freeCount (s : State) (off bit : Nat) : (raise s off bit).freeCount = s.freeCount := rfl
@[simp] theorem raise_time (s : State) (off bit : Nat) : (raise s off bit).time = s.time := rfl
@[simp] theorem raise_power (s : State) (off bit : Nat) : (raise s off bit).power = s.power := rfl
@[simp] theorem raise_media (s : State) (off bit : Nat) : (raise s off bit).media = s.media := rfl
@[simp] theorem raise_pcs (s : State) (off bit : Nat) : (raise s off bit).pcs = s.pcs := rfl
@[simp] theorem raise_ftl (s : State) (off bit : Nat) : (raise s off bit).ftl = s.ftl := rfl
@[simp] theorem raise_etch (s : State) (off bit : Nat) : (raise s off bit).etch = s.etch := rfl
@[simp] theorem raise_host (s : State) (off bit : Nat) : (raise s off bit).host = s.host := rfl
@[simp] theorem raise_tenants (s : State) (off bit : Nat) : (raise s off bit).tenants = s.tenants := rfl
@[simp] theorem raise_chn (s : State) (off bit : Nat) : (raise s off bit).chn = s.chn := rfl
@[simp] theorem raise_lanes (s : State) (off bit : Nat) : (raise s off bit).lanes = s.lanes := rfl
@[simp] theorem raise_codec (s : State) (off bit : Nat) : (raise s off bit).codec = s.codec := rfl
@[simp] theorem raise_cam (s : State) (off bit : Nat) : (raise s off bit).cam = s.cam := rfl
@[simp] theorem raise_cry (s : State) (off bit : Nat) : (raise s off bit).cry = s.cry := rfl
@[simp] theorem raise_sch (s : State) (off bit : Nat) : (raise s off bit).sch = s.sch := rfl
@[simp] theorem raise_drc (s : State) (off bit : Nat) : (raise s off bit).drc = s.drc := rfl
@[simp] theorem raise_stw (s : State) (off bit : Nat) : (raise s off bit).stw = s.stw := rfl
@[simp] theorem raise_therm (s : State) (off bit : Nat) : (raise s off bit).therm = s.therm := rfl
@[simp] theorem raise_cas (s : State) (off bit : Nat) : (raise s off bit).cas = s.cas := rfl
@[simp] theorem raise_bus_active (s : State) (off bit : Nat) : (raise s off bit).bus.active = s.bus.active := rfl
@[simp] theorem raise_bus_shadow (s : State) (off bit : Nat) : (raise s off bit).bus.shadow = s.bus.shadow := rfl
@[simp] theorem raise_bus_guards (s : State) (off bit : Nat) : (raise s off bit).bus.guards = s.bus.guards := rfl
@[simp] theorem raise_bus_rwb (s : State) (off bit : Nat) : (raise s off bit).bus.rwb = s.bus.rwb := rfl
@[simp] theorem raise_bus_applyCount (s : State) (off bit : Nat) : (raise s off bit).bus.applyCount = s.bus.applyCount := rfl
@[simp] theorem raise_bus_waiting (s : State) (off bit : Nat) : (raise s off bit).bus.waiting = s.bus.waiting := rfl
@[simp] theorem raise_bus_late (s : State) (off bit : Nat) : (raise s off bit).bus.late = s.bus.late := rfl
@[simp] theorem raise_bus_readData (s : State) (off bit : Nat) : (raise s off bit).bus.readData = s.bus.readData := rfl

/-! ### dropGuard -/

@[simp] theorem dropGuard_pending (s : State) (p : Path) : (dropGuard s p).pending = s.pending := rfl
@[simp] theorem dropGuard_freeCount (s : State) (p : Path) : (dropGuard s p).freeCount = s.freeCount := rfl
@[simp] theorem dropGuard_time (s : State) (p : Path) : (dropGuard s p).time = s.time := rfl
@[simp] theorem dropGuard_power (s : State) (p : Path) : (dropGuard s p).power = s.power := rfl
@[simp] theorem dropGuard_media (s : State) (p : Path) : (dropGuard s p).media = s.media := rfl
@[simp] theorem dropGuard_pcs (s : State) (p : Path) : (dropGuard s p).pcs = s.pcs := rfl
@[simp] theorem dropGuard_ftl (s : State) (p : Path) : (dropGuard s p).ftl = s.ftl := rfl
@[simp] theorem dropGuard_etch (s : State) (p : Path) : (dropGuard s p).etch = s.etch := rfl
@[simp] theorem dropGuard_host (s : State) (p : Path) : (dropGuard s p).host = s.host := rfl
@[simp] theorem dropGuard_tenants (s : State) (p : Path) : (dropGuard s p).tenants = s.tenants := rfl
@[simp] theorem dropGuard_chn (s : State) (p : Path) : (dropGuard s p).chn = s.chn := rfl
@[simp] theorem dropGuard_lanes (s : State) (p : Path) : (dropGuard s p).lanes = s.lanes := rfl
@[simp] theorem dropGuard_codec (s : State) (p : Path) : (dropGuard s p).codec = s.codec := rfl
@[simp] theorem dropGuard_cam (s : State) (p : Path) : (dropGuard s p).cam = s.cam := rfl
@[simp] theorem dropGuard_cry (s : State) (p : Path) : (dropGuard s p).cry = s.cry := rfl
@[simp] theorem dropGuard_sch (s : State) (p : Path) : (dropGuard s p).sch = s.sch := rfl
@[simp] theorem dropGuard_drc (s : State) (p : Path) : (dropGuard s p).drc = s.drc := rfl
@[simp] theorem dropGuard_stw (s : State) (p : Path) : (dropGuard s p).stw = s.stw := rfl
@[simp] theorem dropGuard_therm (s : State) (p : Path) : (dropGuard s p).therm = s.therm := rfl
@[simp] theorem dropGuard_cas (s : State) (p : Path) : (dropGuard s p).cas = s.cas := rfl
@[simp] theorem dropGuard_bus_active (s : State) (p : Path) : (dropGuard s p).bus.active = s.bus.active := rfl
@[simp] theorem dropGuard_bus_shadow (s : State) (p : Path) : (dropGuard s p).bus.shadow = s.bus.shadow := rfl
@[simp] theorem dropGuard_bus_rwb (s : State) (p : Path) : (dropGuard s p).bus.rwb = s.bus.rwb := rfl
@[simp] theorem dropGuard_bus_applyCount (s : State) (p : Path) : (dropGuard s p).bus.applyCount = s.bus.applyCount := rfl
@[simp] theorem dropGuard_bus_rsq (s : State) (p : Path) : (dropGuard s p).bus.rsq = s.bus.rsq := rfl
@[simp] theorem dropGuard_bus_waiting (s : State) (p : Path) : (dropGuard s p).bus.waiting = s.bus.waiting := rfl
@[simp] theorem dropGuard_bus_late (s : State) (p : Path) : (dropGuard s p).bus.late = s.bus.late := rfl
@[simp] theorem dropGuard_bus_readData (s : State) (p : Path) : (dropGuard s p).bus.readData = s.bus.readData := rfl

/-! ### setWaiting -/

@[simp] theorem setWaiting_pending (s : State) (p : Path) (l : List Arrived) : (setWaiting s p l).pending = s.pending := rfl
@[simp] theorem setWaiting_freeCount (s : State) (p : Path) (l : List Arrived) : (setWaiting s p l).freeCount = s.freeCount := rfl
@[simp] theorem setWaiting_time (s : State) (p : Path) (l : List Arrived) : (setWaiting s p l).time = s.time := rfl
@[simp] theorem setWaiting_power (s : State) (p : Path) (l : List Arrived) : (setWaiting s p l).power = s.power := rfl
@[simp] theorem setWaiting_media (s : State) (p : Path) (l : List Arrived) : (setWaiting s p l).media = s.media := rfl
@[simp] theorem setWaiting_pcs (s : State) (p : Path) (l : List Arrived) : (setWaiting s p l).pcs = s.pcs := rfl
@[simp] theorem setWaiting_ftl (s : State) (p : Path) (l : List Arrived) : (setWaiting s p l).ftl = s.ftl := rfl
@[simp] theorem setWaiting_etch (s : State) (p : Path) (l : List Arrived) : (setWaiting s p l).etch = s.etch := rfl
@[simp] theorem setWaiting_host (s : State) (p : Path) (l : List Arrived) : (setWaiting s p l).host = s.host := rfl
@[simp] theorem setWaiting_tenants (s : State) (p : Path) (l : List Arrived) : (setWaiting s p l).tenants = s.tenants := rfl
@[simp] theorem setWaiting_chn (s : State) (p : Path) (l : List Arrived) : (setWaiting s p l).chn = s.chn := rfl
@[simp] theorem setWaiting_lanes (s : State) (p : Path) (l : List Arrived) : (setWaiting s p l).lanes = s.lanes := rfl
@[simp] theorem setWaiting_codec (s : State) (p : Path) (l : List Arrived) : (setWaiting s p l).codec = s.codec := rfl
@[simp] theorem setWaiting_cam (s : State) (p : Path) (l : List Arrived) : (setWaiting s p l).cam = s.cam := rfl
@[simp] theorem setWaiting_cry (s : State) (p : Path) (l : List Arrived) : (setWaiting s p l).cry = s.cry := rfl
@[simp] theorem setWaiting_sch (s : State) (p : Path) (l : List Arrived) : (setWaiting s p l).sch = s.sch := rfl
@[simp] theorem setWaiting_drc (s : State) (p : Path) (l : List Arrived) : (setWaiting s p l).drc = s.drc := rfl
@[simp] theorem setWaiting_stw (s : State) (p : Path) (l : List Arrived) : (setWaiting s p l).stw = s.stw := rfl
@[simp] theorem setWaiting_therm (s : State) (p : Path) (l : List Arrived) : (setWaiting s p l).therm = s.therm := rfl
@[simp] theorem setWaiting_cas (s : State) (p : Path) (l : List Arrived) : (setWaiting s p l).cas = s.cas := rfl
@[simp] theorem setWaiting_bus_active (s : State) (p : Path) (l : List Arrived) : (setWaiting s p l).bus.active = s.bus.active := rfl
@[simp] theorem setWaiting_bus_shadow (s : State) (p : Path) (l : List Arrived) : (setWaiting s p l).bus.shadow = s.bus.shadow := rfl
@[simp] theorem setWaiting_bus_guards (s : State) (p : Path) (l : List Arrived) : (setWaiting s p l).bus.guards = s.bus.guards := rfl
@[simp] theorem setWaiting_bus_rwb (s : State) (p : Path) (l : List Arrived) : (setWaiting s p l).bus.rwb = s.bus.rwb := rfl
@[simp] theorem setWaiting_bus_applyCount (s : State) (p : Path) (l : List Arrived) : (setWaiting s p l).bus.applyCount = s.bus.applyCount := rfl
@[simp] theorem setWaiting_bus_rsq (s : State) (p : Path) (l : List Arrived) : (setWaiting s p l).bus.rsq = s.bus.rsq := rfl
@[simp] theorem setWaiting_bus_late (s : State) (p : Path) (l : List Arrived) : (setWaiting s p l).bus.late = s.bus.late := rfl
@[simp] theorem setWaiting_bus_readData (s : State) (p : Path) (l : List Arrived) : (setWaiting s p l).bus.readData = s.bus.readData := rfl

/-! ### setLate -/

@[simp] theorem setLate_pending (s : State) (p : Path) (l : List Arrived) : (setLate s p l).pending = s.pending := rfl
@[simp] theorem setLate_freeCount (s : State) (p : Path) (l : List Arrived) : (setLate s p l).freeCount = s.freeCount := rfl
@[simp] theorem setLate_time (s : State) (p : Path) (l : List Arrived) : (setLate s p l).time = s.time := rfl
@[simp] theorem setLate_power (s : State) (p : Path) (l : List Arrived) : (setLate s p l).power = s.power := rfl
@[simp] theorem setLate_media (s : State) (p : Path) (l : List Arrived) : (setLate s p l).media = s.media := rfl
@[simp] theorem setLate_pcs (s : State) (p : Path) (l : List Arrived) : (setLate s p l).pcs = s.pcs := rfl
@[simp] theorem setLate_ftl (s : State) (p : Path) (l : List Arrived) : (setLate s p l).ftl = s.ftl := rfl
@[simp] theorem setLate_etch (s : State) (p : Path) (l : List Arrived) : (setLate s p l).etch = s.etch := rfl
@[simp] theorem setLate_host (s : State) (p : Path) (l : List Arrived) : (setLate s p l).host = s.host := rfl
@[simp] theorem setLate_tenants (s : State) (p : Path) (l : List Arrived) : (setLate s p l).tenants = s.tenants := rfl
@[simp] theorem setLate_chn (s : State) (p : Path) (l : List Arrived) : (setLate s p l).chn = s.chn := rfl
@[simp] theorem setLate_lanes (s : State) (p : Path) (l : List Arrived) : (setLate s p l).lanes = s.lanes := rfl
@[simp] theorem setLate_codec (s : State) (p : Path) (l : List Arrived) : (setLate s p l).codec = s.codec := rfl
@[simp] theorem setLate_cam (s : State) (p : Path) (l : List Arrived) : (setLate s p l).cam = s.cam := rfl
@[simp] theorem setLate_cry (s : State) (p : Path) (l : List Arrived) : (setLate s p l).cry = s.cry := rfl
@[simp] theorem setLate_sch (s : State) (p : Path) (l : List Arrived) : (setLate s p l).sch = s.sch := rfl
@[simp] theorem setLate_drc (s : State) (p : Path) (l : List Arrived) : (setLate s p l).drc = s.drc := rfl
@[simp] theorem setLate_stw (s : State) (p : Path) (l : List Arrived) : (setLate s p l).stw = s.stw := rfl
@[simp] theorem setLate_therm (s : State) (p : Path) (l : List Arrived) : (setLate s p l).therm = s.therm := rfl
@[simp] theorem setLate_cas (s : State) (p : Path) (l : List Arrived) : (setLate s p l).cas = s.cas := rfl
@[simp] theorem setLate_bus_active (s : State) (p : Path) (l : List Arrived) : (setLate s p l).bus.active = s.bus.active := rfl
@[simp] theorem setLate_bus_shadow (s : State) (p : Path) (l : List Arrived) : (setLate s p l).bus.shadow = s.bus.shadow := rfl
@[simp] theorem setLate_bus_guards (s : State) (p : Path) (l : List Arrived) : (setLate s p l).bus.guards = s.bus.guards := rfl
@[simp] theorem setLate_bus_rwb (s : State) (p : Path) (l : List Arrived) : (setLate s p l).bus.rwb = s.bus.rwb := rfl
@[simp] theorem setLate_bus_applyCount (s : State) (p : Path) (l : List Arrived) : (setLate s p l).bus.applyCount = s.bus.applyCount := rfl
@[simp] theorem setLate_bus_rsq (s : State) (p : Path) (l : List Arrived) : (setLate s p l).bus.rsq = s.bus.rsq := rfl
@[simp] theorem setLate_bus_waiting (s : State) (p : Path) (l : List Arrived) : (setLate s p l).bus.waiting = s.bus.waiting := rfl
@[simp] theorem setLate_bus_readData (s : State) (p : Path) (l : List Arrived) : (setLate s p l).bus.readData = s.bus.readData := rfl

/-! ### holdRwb -/

@[simp] theorem holdRwb_pending (s : State) (p : Path) (off : Nat) (v : Dword) : (holdRwb s p off v).pending = s.pending := rfl
@[simp] theorem holdRwb_freeCount (s : State) (p : Path) (off : Nat) (v : Dword) : (holdRwb s p off v).freeCount = s.freeCount := rfl
@[simp] theorem holdRwb_time (s : State) (p : Path) (off : Nat) (v : Dword) : (holdRwb s p off v).time = s.time := rfl
@[simp] theorem holdRwb_power (s : State) (p : Path) (off : Nat) (v : Dword) : (holdRwb s p off v).power = s.power := rfl
@[simp] theorem holdRwb_media (s : State) (p : Path) (off : Nat) (v : Dword) : (holdRwb s p off v).media = s.media := rfl
@[simp] theorem holdRwb_pcs (s : State) (p : Path) (off : Nat) (v : Dword) : (holdRwb s p off v).pcs = s.pcs := rfl
@[simp] theorem holdRwb_ftl (s : State) (p : Path) (off : Nat) (v : Dword) : (holdRwb s p off v).ftl = s.ftl := rfl
@[simp] theorem holdRwb_etch (s : State) (p : Path) (off : Nat) (v : Dword) : (holdRwb s p off v).etch = s.etch := rfl
@[simp] theorem holdRwb_host (s : State) (p : Path) (off : Nat) (v : Dword) : (holdRwb s p off v).host = s.host := rfl
@[simp] theorem holdRwb_tenants (s : State) (p : Path) (off : Nat) (v : Dword) : (holdRwb s p off v).tenants = s.tenants := rfl
@[simp] theorem holdRwb_chn (s : State) (p : Path) (off : Nat) (v : Dword) : (holdRwb s p off v).chn = s.chn := rfl
@[simp] theorem holdRwb_lanes (s : State) (p : Path) (off : Nat) (v : Dword) : (holdRwb s p off v).lanes = s.lanes := rfl
@[simp] theorem holdRwb_codec (s : State) (p : Path) (off : Nat) (v : Dword) : (holdRwb s p off v).codec = s.codec := rfl
@[simp] theorem holdRwb_cam (s : State) (p : Path) (off : Nat) (v : Dword) : (holdRwb s p off v).cam = s.cam := rfl
@[simp] theorem holdRwb_cry (s : State) (p : Path) (off : Nat) (v : Dword) : (holdRwb s p off v).cry = s.cry := rfl
@[simp] theorem holdRwb_sch (s : State) (p : Path) (off : Nat) (v : Dword) : (holdRwb s p off v).sch = s.sch := rfl
@[simp] theorem holdRwb_drc (s : State) (p : Path) (off : Nat) (v : Dword) : (holdRwb s p off v).drc = s.drc := rfl
@[simp] theorem holdRwb_stw (s : State) (p : Path) (off : Nat) (v : Dword) : (holdRwb s p off v).stw = s.stw := rfl
@[simp] theorem holdRwb_therm (s : State) (p : Path) (off : Nat) (v : Dword) : (holdRwb s p off v).therm = s.therm := rfl
@[simp] theorem holdRwb_cas (s : State) (p : Path) (off : Nat) (v : Dword) : (holdRwb s p off v).cas = s.cas := rfl
@[simp] theorem holdRwb_bus_active (s : State) (p : Path) (off : Nat) (v : Dword) : (holdRwb s p off v).bus.active = s.bus.active := rfl
@[simp] theorem holdRwb_bus_shadow (s : State) (p : Path) (off : Nat) (v : Dword) : (holdRwb s p off v).bus.shadow = s.bus.shadow := rfl
@[simp] theorem holdRwb_bus_guards (s : State) (p : Path) (off : Nat) (v : Dword) : (holdRwb s p off v).bus.guards = s.bus.guards := rfl
@[simp] theorem holdRwb_bus_applyCount (s : State) (p : Path) (off : Nat) (v : Dword) : (holdRwb s p off v).bus.applyCount = s.bus.applyCount := rfl
@[simp] theorem holdRwb_bus_rsq (s : State) (p : Path) (off : Nat) (v : Dword) : (holdRwb s p off v).bus.rsq = s.bus.rsq := rfl
@[simp] theorem holdRwb_bus_waiting (s : State) (p : Path) (off : Nat) (v : Dword) : (holdRwb s p off v).bus.waiting = s.bus.waiting := rfl
@[simp] theorem holdRwb_bus_late (s : State) (p : Path) (off : Nat) (v : Dword) : (holdRwb s p off v).bus.late = s.bus.late := rfl
@[simp] theorem holdRwb_bus_readData (s : State) (p : Path) (off : Nat) (v : Dword) : (holdRwb s p off v).bus.readData = s.bus.readData := rfl

/-! ### loseWords -/

@[simp] theorem loseWords_pending (s : State) (lost : Nat → Bool) : (loseWords s lost).pending = s.pending := rfl
@[simp] theorem loseWords_freeCount (s : State) (lost : Nat → Bool) : (loseWords s lost).freeCount = s.freeCount := rfl
@[simp] theorem loseWords_bus (s : State) (lost : Nat → Bool) : (loseWords s lost).bus = s.bus := rfl
@[simp] theorem loseWords_time (s : State) (lost : Nat → Bool) : (loseWords s lost).time = s.time := rfl
@[simp] theorem loseWords_power (s : State) (lost : Nat → Bool) : (loseWords s lost).power = s.power := rfl
@[simp] theorem loseWords_media (s : State) (lost : Nat → Bool) : (loseWords s lost).media = s.media := rfl
@[simp] theorem loseWords_pcs (s : State) (lost : Nat → Bool) : (loseWords s lost).pcs = s.pcs := rfl
@[simp] theorem loseWords_ftl (s : State) (lost : Nat → Bool) : (loseWords s lost).ftl = s.ftl := rfl
@[simp] theorem loseWords_host (s : State) (lost : Nat → Bool) : (loseWords s lost).host = s.host := rfl
@[simp] theorem loseWords_tenants (s : State) (lost : Nat → Bool) : (loseWords s lost).tenants = s.tenants := rfl
@[simp] theorem loseWords_chn (s : State) (lost : Nat → Bool) : (loseWords s lost).chn = s.chn := rfl
@[simp] theorem loseWords_lanes (s : State) (lost : Nat → Bool) : (loseWords s lost).lanes = s.lanes := rfl
@[simp] theorem loseWords_codec (s : State) (lost : Nat → Bool) : (loseWords s lost).codec = s.codec := rfl
@[simp] theorem loseWords_cam (s : State) (lost : Nat → Bool) : (loseWords s lost).cam = s.cam := rfl
@[simp] theorem loseWords_cry (s : State) (lost : Nat → Bool) : (loseWords s lost).cry = s.cry := rfl
@[simp] theorem loseWords_sch (s : State) (lost : Nat → Bool) : (loseWords s lost).sch = s.sch := rfl
@[simp] theorem loseWords_drc (s : State) (lost : Nat → Bool) : (loseWords s lost).drc = s.drc := rfl
@[simp] theorem loseWords_stw (s : State) (lost : Nat → Bool) : (loseWords s lost).stw = s.stw := rfl
@[simp] theorem loseWords_therm (s : State) (lost : Nat → Bool) : (loseWords s lost).therm = s.therm := rfl
@[simp] theorem loseWords_cas (s : State) (lost : Nat → Bool) : (loseWords s lost).cas = s.cas := rfl
@[simp] theorem loseWords_etch_mem (s : State) (lost : Nat → Bool) : (loseWords s lost).etch.mem = s.etch.mem := rfl
@[simp] theorem loseWords_etch_slots (s : State) (lost : Nat → Bool) : (loseWords s lost).etch.slots = s.etch.slots := rfl
@[simp] theorem loseWords_etch_live (s : State) (lost : Nat → Bool) : (loseWords s lost).etch.live = s.etch.live := rfl
@[simp] theorem loseWords_etch_moving (s : State) (lost : Nat → Bool) : (loseWords s lost).etch.moving = s.etch.moving := rfl
@[simp] theorem loseWords_etch_built (s : State) (lost : Nat → Bool) : (loseWords s lost).etch.built = s.etch.built := rfl
@[simp] theorem loseWords_etch_seq (s : State) (lost : Nat → Bool) : (loseWords s lost).etch.seq = s.etch.seq := rfl
@[simp] theorem loseWords_etch_tail (s : State) (lost : Nat → Bool) : (loseWords s lost).etch.tail = s.etch.tail := rfl
@[simp] theorem loseWords_etch_lastStamp (s : State) (lost : Nat → Bool) : (loseWords s lost).etch.lastStamp = s.etch.lastStamp := rfl
@[simp] theorem loseWords_etch_rootA (s : State) (lost : Nat → Bool) : (loseWords s lost).etch.rootA = s.etch.rootA := rfl
@[simp] theorem loseWords_etch_rootB (s : State) (lost : Nat → Bool) : (loseWords s lost).etch.rootB = s.etch.rootB := rfl
@[simp] theorem loseWords_etch_rootActive (s : State) (lost : Nat → Bool) : (loseWords s lost).etch.rootActive = s.etch.rootActive := rfl
@[simp] theorem loseWords_etch_cpOpen (s : State) (lost : Nat → Bool) : (loseWords s lost).etch.cpOpen = s.etch.cpOpen := rfl
@[simp] theorem loseWords_etch_cpAt (s : State) (lost : Nat → Bool) : (loseWords s lost).etch.cpAt = s.etch.cpAt := rfl
@[simp] theorem loseWords_etch_shutRoot (s : State) (lost : Nat → Bool) : (loseWords s lost).etch.shutRoot = s.etch.shutRoot := rfl
@[simp] theorem loseWords_etch_setA (s : State) (lost : Nat → Bool) : (loseWords s lost).etch.setA = s.etch.setA := rfl
@[simp] theorem loseWords_etch_setB (s : State) (lost : Nat → Bool) : (loseWords s lost).etch.setB = s.etch.setB := rfl
@[simp] theorem loseWords_etch_setActive (s : State) (lost : Nat → Bool) : (loseWords s lost).etch.setActive = s.etch.setActive := rfl
@[simp] theorem loseWords_etch_setSeq (s : State) (lost : Nat → Bool) : (loseWords s lost).etch.setSeq = s.etch.setSeq := rfl
@[simp] theorem loseWords_etch_update (s : State) (lost : Nat → Bool) : (loseWords s lost).etch.update = s.etch.update := rfl
@[simp] theorem loseWords_etch_wanted (s : State) (lost : Nat → Bool) : (loseWords s lost).etch.wanted = s.etch.wanted := rfl
@[simp] theorem loseWords_etch_anchors (s : State) (lost : Nat → Bool) : (loseWords s lost).etch.anchors = s.etch.anchors := rfl
@[simp] theorem loseWords_etch_anchorsDue (s : State) (lost : Nat → Bool) : (loseWords s lost).etch.anchorsDue = s.etch.anchorsDue := rfl
@[simp] theorem loseWords_etch_anchorNext (s : State) (lost : Nat → Bool) : (loseWords s lost).etch.anchorNext = s.etch.anchorNext := rfl
@[simp] theorem loseWords_etch_anchorSet (s : State) (lost : Nat → Bool) : (loseWords s lost).etch.anchorSet = s.etch.anchorSet := rfl
@[simp] theorem loseWords_etch_lost0 (s : State) (lost : Nat → Bool) : (loseWords s lost).etch.lost0 = s.etch.lost0 := rfl
@[simp] theorem loseWords_etch_lost1 (s : State) (lost : Nat → Bool) : (loseWords s lost).etch.lost1 = s.etch.lost1 := rfl
@[simp] theorem loseWords_etch_admitHold (s : State) (lost : Nat → Bool) : (loseWords s lost).etch.admitHold = s.etch.admitHold := rfl
@[simp] theorem loseWords_etch_jrnlHold (s : State) (lost : Nat → Bool) : (loseWords s lost).etch.jrnlHold = s.etch.jrnlHold := rfl
@[simp] theorem loseWords_etch_badLines0 (s : State) (lost : Nat → Bool) : (loseWords s lost).etch.badLines0 = s.etch.badLines0 := rfl
@[simp] theorem loseWords_etch_badLines1 (s : State) (lost : Nat → Bool) : (loseWords s lost).etch.badLines1 = s.etch.badLines1 := rfl
@[simp] theorem loseWords_etch_deferred (s : State) (lost : Nat → Bool) : (loseWords s lost).etch.deferred = s.etch.deferred := rfl
@[simp] theorem loseWords_etch_defTotal (s : State) (lost : Nat → Bool) : (loseWords s lost).etch.defTotal = s.etch.defTotal := rfl
@[simp] theorem loseWords_etch_defAt (s : State) (lost : Nat → Bool) : (loseWords s lost).etch.defAt = s.etch.defAt := rfl
@[simp] theorem loseWords_etch_deliveries (s : State) (lost : Nat → Bool) : (loseWords s lost).etch.deliveries = s.etch.deliveries := rfl

/-! ### wantActs -/

@[simp] theorem wantActs_pending (s : State) (acts : List SavedAct) (cmds : List CmdId) : (wantActs s acts cmds).pending = s.pending := rfl
@[simp] theorem wantActs_freeCount (s : State) (acts : List SavedAct) (cmds : List CmdId) : (wantActs s acts cmds).freeCount = s.freeCount := rfl
@[simp] theorem wantActs_bus (s : State) (acts : List SavedAct) (cmds : List CmdId) : (wantActs s acts cmds).bus = s.bus := rfl
@[simp] theorem wantActs_time (s : State) (acts : List SavedAct) (cmds : List CmdId) : (wantActs s acts cmds).time = s.time := rfl
@[simp] theorem wantActs_power (s : State) (acts : List SavedAct) (cmds : List CmdId) : (wantActs s acts cmds).power = s.power := rfl
@[simp] theorem wantActs_media (s : State) (acts : List SavedAct) (cmds : List CmdId) : (wantActs s acts cmds).media = s.media := rfl
@[simp] theorem wantActs_pcs (s : State) (acts : List SavedAct) (cmds : List CmdId) : (wantActs s acts cmds).pcs = s.pcs := rfl
@[simp] theorem wantActs_ftl (s : State) (acts : List SavedAct) (cmds : List CmdId) : (wantActs s acts cmds).ftl = s.ftl := rfl
@[simp] theorem wantActs_host (s : State) (acts : List SavedAct) (cmds : List CmdId) : (wantActs s acts cmds).host = s.host := rfl
@[simp] theorem wantActs_tenants (s : State) (acts : List SavedAct) (cmds : List CmdId) : (wantActs s acts cmds).tenants = s.tenants := rfl
@[simp] theorem wantActs_chn (s : State) (acts : List SavedAct) (cmds : List CmdId) : (wantActs s acts cmds).chn = s.chn := rfl
@[simp] theorem wantActs_lanes (s : State) (acts : List SavedAct) (cmds : List CmdId) : (wantActs s acts cmds).lanes = s.lanes := rfl
@[simp] theorem wantActs_codec (s : State) (acts : List SavedAct) (cmds : List CmdId) : (wantActs s acts cmds).codec = s.codec := rfl
@[simp] theorem wantActs_cam (s : State) (acts : List SavedAct) (cmds : List CmdId) : (wantActs s acts cmds).cam = s.cam := rfl
@[simp] theorem wantActs_cry (s : State) (acts : List SavedAct) (cmds : List CmdId) : (wantActs s acts cmds).cry = s.cry := rfl
@[simp] theorem wantActs_sch (s : State) (acts : List SavedAct) (cmds : List CmdId) : (wantActs s acts cmds).sch = s.sch := rfl
@[simp] theorem wantActs_drc (s : State) (acts : List SavedAct) (cmds : List CmdId) : (wantActs s acts cmds).drc = s.drc := rfl
@[simp] theorem wantActs_stw (s : State) (acts : List SavedAct) (cmds : List CmdId) : (wantActs s acts cmds).stw = s.stw := rfl
@[simp] theorem wantActs_therm (s : State) (acts : List SavedAct) (cmds : List CmdId) : (wantActs s acts cmds).therm = s.therm := rfl
@[simp] theorem wantActs_cas (s : State) (acts : List SavedAct) (cmds : List CmdId) : (wantActs s acts cmds).cas = s.cas := rfl
@[simp] theorem wantActs_etch_mem (s : State) (acts : List SavedAct) (cmds : List CmdId) : (wantActs s acts cmds).etch.mem = s.etch.mem := rfl
@[simp] theorem wantActs_etch_slots (s : State) (acts : List SavedAct) (cmds : List CmdId) : (wantActs s acts cmds).etch.slots = s.etch.slots := rfl
@[simp] theorem wantActs_etch_live (s : State) (acts : List SavedAct) (cmds : List CmdId) : (wantActs s acts cmds).etch.live = s.etch.live := rfl
@[simp] theorem wantActs_etch_moving (s : State) (acts : List SavedAct) (cmds : List CmdId) : (wantActs s acts cmds).etch.moving = s.etch.moving := rfl
@[simp] theorem wantActs_etch_built (s : State) (acts : List SavedAct) (cmds : List CmdId) : (wantActs s acts cmds).etch.built = s.etch.built := rfl
@[simp] theorem wantActs_etch_seq (s : State) (acts : List SavedAct) (cmds : List CmdId) : (wantActs s acts cmds).etch.seq = s.etch.seq := rfl
@[simp] theorem wantActs_etch_tail (s : State) (acts : List SavedAct) (cmds : List CmdId) : (wantActs s acts cmds).etch.tail = s.etch.tail := rfl
@[simp] theorem wantActs_etch_lastStamp (s : State) (acts : List SavedAct) (cmds : List CmdId) : (wantActs s acts cmds).etch.lastStamp = s.etch.lastStamp := rfl
@[simp] theorem wantActs_etch_mirrorLog (s : State) (acts : List SavedAct) (cmds : List CmdId) : (wantActs s acts cmds).etch.mirrorLog = s.etch.mirrorLog := rfl
@[simp] theorem wantActs_etch_mirrorRoots (s : State) (acts : List SavedAct) (cmds : List CmdId) : (wantActs s acts cmds).etch.mirrorRoots = s.etch.mirrorRoots := rfl
@[simp] theorem wantActs_etch_rootA (s : State) (acts : List SavedAct) (cmds : List CmdId) : (wantActs s acts cmds).etch.rootA = s.etch.rootA := rfl
@[simp] theorem wantActs_etch_rootB (s : State) (acts : List SavedAct) (cmds : List CmdId) : (wantActs s acts cmds).etch.rootB = s.etch.rootB := rfl
@[simp] theorem wantActs_etch_rootActive (s : State) (acts : List SavedAct) (cmds : List CmdId) : (wantActs s acts cmds).etch.rootActive = s.etch.rootActive := rfl
@[simp] theorem wantActs_etch_cpOpen (s : State) (acts : List SavedAct) (cmds : List CmdId) : (wantActs s acts cmds).etch.cpOpen = s.etch.cpOpen := rfl
@[simp] theorem wantActs_etch_cpMirror (s : State) (acts : List SavedAct) (cmds : List CmdId) : (wantActs s acts cmds).etch.cpMirror = s.etch.cpMirror := rfl
@[simp] theorem wantActs_etch_cpAt (s : State) (acts : List SavedAct) (cmds : List CmdId) : (wantActs s acts cmds).etch.cpAt = s.etch.cpAt := rfl
@[simp] theorem wantActs_etch_shutRoot (s : State) (acts : List SavedAct) (cmds : List CmdId) : (wantActs s acts cmds).etch.shutRoot = s.etch.shutRoot := rfl
@[simp] theorem wantActs_etch_setA (s : State) (acts : List SavedAct) (cmds : List CmdId) : (wantActs s acts cmds).etch.setA = s.etch.setA := rfl
@[simp] theorem wantActs_etch_setB (s : State) (acts : List SavedAct) (cmds : List CmdId) : (wantActs s acts cmds).etch.setB = s.etch.setB := rfl
@[simp] theorem wantActs_etch_setActive (s : State) (acts : List SavedAct) (cmds : List CmdId) : (wantActs s acts cmds).etch.setActive = s.etch.setActive := rfl
@[simp] theorem wantActs_etch_setSeq (s : State) (acts : List SavedAct) (cmds : List CmdId) : (wantActs s acts cmds).etch.setSeq = s.etch.setSeq := rfl
@[simp] theorem wantActs_etch_update (s : State) (acts : List SavedAct) (cmds : List CmdId) : (wantActs s acts cmds).etch.update = s.etch.update := rfl
@[simp] theorem wantActs_etch_mirrors (s : State) (acts : List SavedAct) (cmds : List CmdId) : (wantActs s acts cmds).etch.mirrors = s.etch.mirrors := rfl
@[simp] theorem wantActs_etch_anchors (s : State) (acts : List SavedAct) (cmds : List CmdId) : (wantActs s acts cmds).etch.anchors = s.etch.anchors := rfl
@[simp] theorem wantActs_etch_anchorsDue (s : State) (acts : List SavedAct) (cmds : List CmdId) : (wantActs s acts cmds).etch.anchorsDue = s.etch.anchorsDue := rfl
@[simp] theorem wantActs_etch_anchorNext (s : State) (acts : List SavedAct) (cmds : List CmdId) : (wantActs s acts cmds).etch.anchorNext = s.etch.anchorNext := rfl
@[simp] theorem wantActs_etch_anchorSet (s : State) (acts : List SavedAct) (cmds : List CmdId) : (wantActs s acts cmds).etch.anchorSet = s.etch.anchorSet := rfl
@[simp] theorem wantActs_etch_lost0 (s : State) (acts : List SavedAct) (cmds : List CmdId) : (wantActs s acts cmds).etch.lost0 = s.etch.lost0 := rfl
@[simp] theorem wantActs_etch_lost1 (s : State) (acts : List SavedAct) (cmds : List CmdId) : (wantActs s acts cmds).etch.lost1 = s.etch.lost1 := rfl
@[simp] theorem wantActs_etch_admitHold (s : State) (acts : List SavedAct) (cmds : List CmdId) : (wantActs s acts cmds).etch.admitHold = s.etch.admitHold := rfl
@[simp] theorem wantActs_etch_jrnlHold (s : State) (acts : List SavedAct) (cmds : List CmdId) : (wantActs s acts cmds).etch.jrnlHold = s.etch.jrnlHold := rfl
@[simp] theorem wantActs_etch_badLines0 (s : State) (acts : List SavedAct) (cmds : List CmdId) : (wantActs s acts cmds).etch.badLines0 = s.etch.badLines0 := rfl
@[simp] theorem wantActs_etch_badLines1 (s : State) (acts : List SavedAct) (cmds : List CmdId) : (wantActs s acts cmds).etch.badLines1 = s.etch.badLines1 := rfl
@[simp] theorem wantActs_etch_deferred (s : State) (acts : List SavedAct) (cmds : List CmdId) : (wantActs s acts cmds).etch.deferred = s.etch.deferred := rfl
@[simp] theorem wantActs_etch_defTotal (s : State) (acts : List SavedAct) (cmds : List CmdId) : (wantActs s acts cmds).etch.defTotal = s.etch.defTotal := rfl
@[simp] theorem wantActs_etch_defAt (s : State) (acts : List SavedAct) (cmds : List CmdId) : (wantActs s acts cmds).etch.defAt = s.etch.defAt := rfl
@[simp] theorem wantActs_etch_deliveries (s : State) (acts : List SavedAct) (cmds : List CmdId) : (wantActs s acts cmds).etch.deliveries = s.etch.deliveries := rfl

/-! ### dropPends -/

@[simp] theorem dropPends_pending (s : State) (lo hi : Nat) : (dropPends s lo hi).pending = s.pending := rfl
@[simp] theorem dropPends_freeCount (s : State) (lo hi : Nat) : (dropPends s lo hi).freeCount = s.freeCount := rfl
@[simp] theorem dropPends_time (s : State) (lo hi : Nat) : (dropPends s lo hi).time = s.time := rfl
@[simp] theorem dropPends_power (s : State) (lo hi : Nat) : (dropPends s lo hi).power = s.power := rfl
@[simp] theorem dropPends_media (s : State) (lo hi : Nat) : (dropPends s lo hi).media = s.media := rfl
@[simp] theorem dropPends_pcs (s : State) (lo hi : Nat) : (dropPends s lo hi).pcs = s.pcs := rfl
@[simp] theorem dropPends_ftl (s : State) (lo hi : Nat) : (dropPends s lo hi).ftl = s.ftl := rfl
@[simp] theorem dropPends_etch (s : State) (lo hi : Nat) : (dropPends s lo hi).etch = s.etch := rfl
@[simp] theorem dropPends_host (s : State) (lo hi : Nat) : (dropPends s lo hi).host = s.host := rfl
@[simp] theorem dropPends_tenants (s : State) (lo hi : Nat) : (dropPends s lo hi).tenants = s.tenants := rfl
@[simp] theorem dropPends_chn (s : State) (lo hi : Nat) : (dropPends s lo hi).chn = s.chn := rfl
@[simp] theorem dropPends_lanes (s : State) (lo hi : Nat) : (dropPends s lo hi).lanes = s.lanes := rfl
@[simp] theorem dropPends_codec (s : State) (lo hi : Nat) : (dropPends s lo hi).codec = s.codec := rfl
@[simp] theorem dropPends_cam (s : State) (lo hi : Nat) : (dropPends s lo hi).cam = s.cam := rfl
@[simp] theorem dropPends_cry (s : State) (lo hi : Nat) : (dropPends s lo hi).cry = s.cry := rfl
@[simp] theorem dropPends_sch (s : State) (lo hi : Nat) : (dropPends s lo hi).sch = s.sch := rfl
@[simp] theorem dropPends_drc (s : State) (lo hi : Nat) : (dropPends s lo hi).drc = s.drc := rfl
@[simp] theorem dropPends_stw (s : State) (lo hi : Nat) : (dropPends s lo hi).stw = s.stw := rfl
@[simp] theorem dropPends_therm (s : State) (lo hi : Nat) : (dropPends s lo hi).therm = s.therm := rfl
@[simp] theorem dropPends_cas (s : State) (lo hi : Nat) : (dropPends s lo hi).cas = s.cas := rfl
@[simp] theorem dropPends_bus_active (s : State) (lo hi : Nat) : (dropPends s lo hi).bus.active = s.bus.active := rfl
@[simp] theorem dropPends_bus_shadow (s : State) (lo hi : Nat) : (dropPends s lo hi).bus.shadow = s.bus.shadow := rfl
@[simp] theorem dropPends_bus_guards (s : State) (lo hi : Nat) : (dropPends s lo hi).bus.guards = s.bus.guards := rfl
@[simp] theorem dropPends_bus_applyCount (s : State) (lo hi : Nat) : (dropPends s lo hi).bus.applyCount = s.bus.applyCount := rfl
@[simp] theorem dropPends_bus_rsq (s : State) (lo hi : Nat) : (dropPends s lo hi).bus.rsq = s.bus.rsq := rfl
@[simp] theorem dropPends_bus_waiting (s : State) (lo hi : Nat) : (dropPends s lo hi).bus.waiting = s.bus.waiting := rfl
@[simp] theorem dropPends_bus_late (s : State) (lo hi : Nat) : (dropPends s lo hi).bus.late = s.bus.late := rfl
@[simp] theorem dropPends_bus_readData (s : State) (lo hi : Nat) : (dropPends s lo hi).bus.readData = s.bus.readData := rfl

/-! ### takeFree -/

@[simp] theorem takeFree_pending (s : State) : (takeFree s).pending = s.pending := rfl
@[simp] theorem takeFree_bus (s : State) : (takeFree s).bus = s.bus := rfl
@[simp] theorem takeFree_time (s : State) : (takeFree s).time = s.time := rfl
@[simp] theorem takeFree_power (s : State) : (takeFree s).power = s.power := rfl
@[simp] theorem takeFree_media (s : State) : (takeFree s).media = s.media := rfl
@[simp] theorem takeFree_pcs (s : State) : (takeFree s).pcs = s.pcs := rfl
@[simp] theorem takeFree_ftl (s : State) : (takeFree s).ftl = s.ftl := rfl
@[simp] theorem takeFree_etch (s : State) : (takeFree s).etch = s.etch := rfl
@[simp] theorem takeFree_host (s : State) : (takeFree s).host = s.host := rfl
@[simp] theorem takeFree_tenants (s : State) : (takeFree s).tenants = s.tenants := rfl
@[simp] theorem takeFree_chn (s : State) : (takeFree s).chn = s.chn := rfl
@[simp] theorem takeFree_lanes (s : State) : (takeFree s).lanes = s.lanes := rfl
@[simp] theorem takeFree_codec (s : State) : (takeFree s).codec = s.codec := rfl
@[simp] theorem takeFree_cam (s : State) : (takeFree s).cam = s.cam := rfl
@[simp] theorem takeFree_cry (s : State) : (takeFree s).cry = s.cry := rfl
@[simp] theorem takeFree_sch (s : State) : (takeFree s).sch = s.sch := rfl
@[simp] theorem takeFree_drc (s : State) : (takeFree s).drc = s.drc := rfl
@[simp] theorem takeFree_stw (s : State) : (takeFree s).stw = s.stw := rfl
@[simp] theorem takeFree_therm (s : State) : (takeFree s).therm = s.therm := rfl
@[simp] theorem takeFree_cas (s : State) : (takeFree s).cas = s.cas := rfl

/-! ### takeFrees -/

@[simp] theorem takeFrees_pending (s : State) (n : Nat) : (takeFrees s n).pending = s.pending := rfl
@[simp] theorem takeFrees_bus (s : State) (n : Nat) : (takeFrees s n).bus = s.bus := rfl
@[simp] theorem takeFrees_time (s : State) (n : Nat) : (takeFrees s n).time = s.time := rfl
@[simp] theorem takeFrees_power (s : State) (n : Nat) : (takeFrees s n).power = s.power := rfl
@[simp] theorem takeFrees_media (s : State) (n : Nat) : (takeFrees s n).media = s.media := rfl
@[simp] theorem takeFrees_pcs (s : State) (n : Nat) : (takeFrees s n).pcs = s.pcs := rfl
@[simp] theorem takeFrees_ftl (s : State) (n : Nat) : (takeFrees s n).ftl = s.ftl := rfl
@[simp] theorem takeFrees_etch (s : State) (n : Nat) : (takeFrees s n).etch = s.etch := rfl
@[simp] theorem takeFrees_host (s : State) (n : Nat) : (takeFrees s n).host = s.host := rfl
@[simp] theorem takeFrees_tenants (s : State) (n : Nat) : (takeFrees s n).tenants = s.tenants := rfl
@[simp] theorem takeFrees_chn (s : State) (n : Nat) : (takeFrees s n).chn = s.chn := rfl
@[simp] theorem takeFrees_lanes (s : State) (n : Nat) : (takeFrees s n).lanes = s.lanes := rfl
@[simp] theorem takeFrees_codec (s : State) (n : Nat) : (takeFrees s n).codec = s.codec := rfl
@[simp] theorem takeFrees_cam (s : State) (n : Nat) : (takeFrees s n).cam = s.cam := rfl
@[simp] theorem takeFrees_cry (s : State) (n : Nat) : (takeFrees s n).cry = s.cry := rfl
@[simp] theorem takeFrees_sch (s : State) (n : Nat) : (takeFrees s n).sch = s.sch := rfl
@[simp] theorem takeFrees_drc (s : State) (n : Nat) : (takeFrees s n).drc = s.drc := rfl
@[simp] theorem takeFrees_stw (s : State) (n : Nat) : (takeFrees s n).stw = s.stw := rfl
@[simp] theorem takeFrees_therm (s : State) (n : Nat) : (takeFrees s n).therm = s.therm := rfl
@[simp] theorem takeFrees_cas (s : State) (n : Nat) : (takeFrees s n).cas = s.cas := rfl

/-! ### takeDraw -/

@[simp] theorem takeDraw_pending (s : State) : (takeDraw s).pending = s.pending := rfl
@[simp] theorem takeDraw_freeCount (s : State) : (takeDraw s).freeCount = s.freeCount := rfl
@[simp] theorem takeDraw_bus (s : State) : (takeDraw s).bus = s.bus := rfl
@[simp] theorem takeDraw_time (s : State) : (takeDraw s).time = s.time := rfl
@[simp] theorem takeDraw_power (s : State) : (takeDraw s).power = s.power := rfl
@[simp] theorem takeDraw_media (s : State) : (takeDraw s).media = s.media := rfl
@[simp] theorem takeDraw_pcs (s : State) : (takeDraw s).pcs = s.pcs := rfl
@[simp] theorem takeDraw_ftl (s : State) : (takeDraw s).ftl = s.ftl := rfl
@[simp] theorem takeDraw_etch (s : State) : (takeDraw s).etch = s.etch := rfl
@[simp] theorem takeDraw_host (s : State) : (takeDraw s).host = s.host := rfl
@[simp] theorem takeDraw_tenants (s : State) : (takeDraw s).tenants = s.tenants := rfl
@[simp] theorem takeDraw_chn (s : State) : (takeDraw s).chn = s.chn := rfl
@[simp] theorem takeDraw_lanes (s : State) : (takeDraw s).lanes = s.lanes := rfl
@[simp] theorem takeDraw_codec (s : State) : (takeDraw s).codec = s.codec := rfl
@[simp] theorem takeDraw_cam (s : State) : (takeDraw s).cam = s.cam := rfl
@[simp] theorem takeDraw_sch (s : State) : (takeDraw s).sch = s.sch := rfl
@[simp] theorem takeDraw_drc (s : State) : (takeDraw s).drc = s.drc := rfl
@[simp] theorem takeDraw_stw (s : State) : (takeDraw s).stw = s.stw := rfl
@[simp] theorem takeDraw_therm (s : State) : (takeDraw s).therm = s.therm := rfl
@[simp] theorem takeDraw_cas (s : State) : (takeDraw s).cas = s.cas := rfl
@[simp] theorem takeDraw_cry_slots (s : State) : (takeDraw s).cry.slots = s.cry.slots := rfl
@[simp] theorem takeDraw_cry_nsKeys (s : State) : (takeDraw s).cry.nsKeys = s.cry.nsKeys := rfl
@[simp] theorem takeDraw_cry_assemblies (s : State) : (takeDraw s).cry.assemblies = s.cry.assemblies := rfl
@[simp] theorem takeDraw_cry_drbgOk (s : State) : (takeDraw s).cry.drbgOk = s.cry.drbgOk := rfl
@[simp] theorem takeDraw_cry_reseedAt (s : State) : (takeDraw s).cry.reseedAt = s.cry.reseedAt := rfl
@[simp] theorem takeDraw_cry_burin (s : State) : (takeDraw s).cry.burin = s.cry.burin := rfl
@[simp] theorem takeDraw_cry_msgs (s : State) : (takeDraw s).cry.msgs = s.cry.msgs := rfl
@[simp] theorem takeDraw_cry_msgOrder (s : State) : (takeDraw s).cry.msgOrder = s.cry.msgOrder := rfl
@[simp] theorem takeDraw_cry_expect (s : State) : (takeDraw s).cry.expect = s.cry.expect := rfl
@[simp] theorem takeDraw_cry_verdicts (s : State) : (takeDraw s).cry.verdicts = s.cry.verdicts := rfl
@[simp] theorem takeDraw_cry_early (s : State) : (takeDraw s).cry.early = s.cry.early := rfl

/-! ### updChan -/

@[simp] theorem updChan_pending (s : State) (n : Nat) (g : Chan → Chan) : (updChan s n g).pending = s.pending := rfl
@[simp] theorem updChan_freeCount (s : State) (n : Nat) (g : Chan → Chan) : (updChan s n g).freeCount = s.freeCount := rfl
@[simp] theorem updChan_bus (s : State) (n : Nat) (g : Chan → Chan) : (updChan s n g).bus = s.bus := rfl
@[simp] theorem updChan_time (s : State) (n : Nat) (g : Chan → Chan) : (updChan s n g).time = s.time := rfl
@[simp] theorem updChan_power (s : State) (n : Nat) (g : Chan → Chan) : (updChan s n g).power = s.power := rfl
@[simp] theorem updChan_pcs (s : State) (n : Nat) (g : Chan → Chan) : (updChan s n g).pcs = s.pcs := rfl
@[simp] theorem updChan_ftl (s : State) (n : Nat) (g : Chan → Chan) : (updChan s n g).ftl = s.ftl := rfl
@[simp] theorem updChan_etch (s : State) (n : Nat) (g : Chan → Chan) : (updChan s n g).etch = s.etch := rfl
@[simp] theorem updChan_host (s : State) (n : Nat) (g : Chan → Chan) : (updChan s n g).host = s.host := rfl
@[simp] theorem updChan_tenants (s : State) (n : Nat) (g : Chan → Chan) : (updChan s n g).tenants = s.tenants := rfl
@[simp] theorem updChan_chn (s : State) (n : Nat) (g : Chan → Chan) : (updChan s n g).chn = s.chn := rfl
@[simp] theorem updChan_lanes (s : State) (n : Nat) (g : Chan → Chan) : (updChan s n g).lanes = s.lanes := rfl
@[simp] theorem updChan_codec (s : State) (n : Nat) (g : Chan → Chan) : (updChan s n g).codec = s.codec := rfl
@[simp] theorem updChan_cam (s : State) (n : Nat) (g : Chan → Chan) : (updChan s n g).cam = s.cam := rfl
@[simp] theorem updChan_cry (s : State) (n : Nat) (g : Chan → Chan) : (updChan s n g).cry = s.cry := rfl
@[simp] theorem updChan_sch (s : State) (n : Nat) (g : Chan → Chan) : (updChan s n g).sch = s.sch := rfl
@[simp] theorem updChan_drc (s : State) (n : Nat) (g : Chan → Chan) : (updChan s n g).drc = s.drc := rfl
@[simp] theorem updChan_stw (s : State) (n : Nat) (g : Chan → Chan) : (updChan s n g).stw = s.stw := rfl
@[simp] theorem updChan_therm (s : State) (n : Nat) (g : Chan → Chan) : (updChan s n g).therm = s.therm := rfl
@[simp] theorem updChan_cas (s : State) (n : Nat) (g : Chan → Chan) : (updChan s n g).cas = s.cas := rfl
@[simp] theorem updChan_media_training (s : State) (n : Nat) (g : Chan → Chan) : (updChan s n g).media.training = s.media.training := rfl
@[simp] theorem updChan_media_present (s : State) (n : Nat) (g : Chan → Chan) : (updChan s n g).media.present = s.media.present := rfl
@[simp] theorem updChan_media_away (s : State) (n : Nat) (g : Chan → Chan) : (updChan s n g).media.away = s.media.away := rfl
@[simp] theorem updChan_media_faults (s : State) (n : Nat) (g : Chan → Chan) : (updChan s n g).media.faults = s.media.faults := rfl
@[simp] theorem updChan_media_faultsTotal (s : State) (n : Nat) (g : Chan → Chan) : (updChan s n g).media.faultsTotal = s.media.faultsTotal := rfl
@[simp] theorem updChan_media_faultsAt (s : State) (n : Nat) (g : Chan → Chan) : (updChan s n g).media.faultsAt = s.media.faultsAt := rfl
@[simp] theorem updChan_media_excluded (s : State) (n : Nat) (g : Chan → Chan) : (updChan s n g).media.excluded = s.media.excluded := rfl
@[simp] theorem updChan_media_accepted (s : State) (n : Nat) (g : Chan → Chan) : (updChan s n g).media.accepted = s.media.accepted := rfl
@[simp] theorem updChan_media_acceptedNext (s : State) (n : Nat) (g : Chan → Chan) : (updChan s n g).media.acceptedNext = s.media.acceptedNext := rfl

/-! ### updDie -/

@[simp] theorem updDie_pending (s : State) (die : Nat) (g : Die → Die) : (updDie s die g).pending = s.pending := rfl
@[simp] theorem updDie_freeCount (s : State) (die : Nat) (g : Die → Die) : (updDie s die g).freeCount = s.freeCount := rfl
@[simp] theorem updDie_bus (s : State) (die : Nat) (g : Die → Die) : (updDie s die g).bus = s.bus := rfl
@[simp] theorem updDie_time (s : State) (die : Nat) (g : Die → Die) : (updDie s die g).time = s.time := rfl
@[simp] theorem updDie_power (s : State) (die : Nat) (g : Die → Die) : (updDie s die g).power = s.power := rfl
@[simp] theorem updDie_pcs (s : State) (die : Nat) (g : Die → Die) : (updDie s die g).pcs = s.pcs := rfl
@[simp] theorem updDie_ftl (s : State) (die : Nat) (g : Die → Die) : (updDie s die g).ftl = s.ftl := rfl
@[simp] theorem updDie_etch (s : State) (die : Nat) (g : Die → Die) : (updDie s die g).etch = s.etch := rfl
@[simp] theorem updDie_host (s : State) (die : Nat) (g : Die → Die) : (updDie s die g).host = s.host := rfl
@[simp] theorem updDie_tenants (s : State) (die : Nat) (g : Die → Die) : (updDie s die g).tenants = s.tenants := rfl
@[simp] theorem updDie_chn (s : State) (die : Nat) (g : Die → Die) : (updDie s die g).chn = s.chn := rfl
@[simp] theorem updDie_lanes (s : State) (die : Nat) (g : Die → Die) : (updDie s die g).lanes = s.lanes := rfl
@[simp] theorem updDie_codec (s : State) (die : Nat) (g : Die → Die) : (updDie s die g).codec = s.codec := rfl
@[simp] theorem updDie_cam (s : State) (die : Nat) (g : Die → Die) : (updDie s die g).cam = s.cam := rfl
@[simp] theorem updDie_cry (s : State) (die : Nat) (g : Die → Die) : (updDie s die g).cry = s.cry := rfl
@[simp] theorem updDie_sch (s : State) (die : Nat) (g : Die → Die) : (updDie s die g).sch = s.sch := rfl
@[simp] theorem updDie_drc (s : State) (die : Nat) (g : Die → Die) : (updDie s die g).drc = s.drc := rfl
@[simp] theorem updDie_stw (s : State) (die : Nat) (g : Die → Die) : (updDie s die g).stw = s.stw := rfl
@[simp] theorem updDie_therm (s : State) (die : Nat) (g : Die → Die) : (updDie s die g).therm = s.therm := rfl
@[simp] theorem updDie_cas (s : State) (die : Nat) (g : Die → Die) : (updDie s die g).cas = s.cas := rfl
@[simp] theorem updDie_media_training (s : State) (die : Nat) (g : Die → Die) : (updDie s die g).media.training = s.media.training := rfl
@[simp] theorem updDie_media_present (s : State) (die : Nat) (g : Die → Die) : (updDie s die g).media.present = s.media.present := rfl
@[simp] theorem updDie_media_away (s : State) (die : Nat) (g : Die → Die) : (updDie s die g).media.away = s.media.away := rfl
@[simp] theorem updDie_media_faults (s : State) (die : Nat) (g : Die → Die) : (updDie s die g).media.faults = s.media.faults := rfl
@[simp] theorem updDie_media_faultsTotal (s : State) (die : Nat) (g : Die → Die) : (updDie s die g).media.faultsTotal = s.media.faultsTotal := rfl
@[simp] theorem updDie_media_faultsAt (s : State) (die : Nat) (g : Die → Die) : (updDie s die g).media.faultsAt = s.media.faultsAt := rfl
@[simp] theorem updDie_media_excluded (s : State) (die : Nat) (g : Die → Die) : (updDie s die g).media.excluded = s.media.excluded := rfl
@[simp] theorem updDie_media_accepted (s : State) (die : Nat) (g : Die → Die) : (updDie s die g).media.accepted = s.media.accepted := rfl
@[simp] theorem updDie_media_acceptedNext (s : State) (die : Nat) (g : Die → Die) : (updDie s die g).media.acceptedNext = s.media.acceptedNext := rfl

/-! ### updBlock -/

@[simp] theorem updBlock_pending (s : State) (k : Nat) (g : BlockRec → BlockRec) : (updBlock s k g).pending = s.pending := rfl
@[simp] theorem updBlock_freeCount (s : State) (k : Nat) (g : BlockRec → BlockRec) : (updBlock s k g).freeCount = s.freeCount := rfl
@[simp] theorem updBlock_bus (s : State) (k : Nat) (g : BlockRec → BlockRec) : (updBlock s k g).bus = s.bus := rfl
@[simp] theorem updBlock_time (s : State) (k : Nat) (g : BlockRec → BlockRec) : (updBlock s k g).time = s.time := rfl
@[simp] theorem updBlock_power (s : State) (k : Nat) (g : BlockRec → BlockRec) : (updBlock s k g).power = s.power := rfl
@[simp] theorem updBlock_media (s : State) (k : Nat) (g : BlockRec → BlockRec) : (updBlock s k g).media = s.media := rfl
@[simp] theorem updBlock_pcs (s : State) (k : Nat) (g : BlockRec → BlockRec) : (updBlock s k g).pcs = s.pcs := rfl
@[simp] theorem updBlock_etch (s : State) (k : Nat) (g : BlockRec → BlockRec) : (updBlock s k g).etch = s.etch := rfl
@[simp] theorem updBlock_host (s : State) (k : Nat) (g : BlockRec → BlockRec) : (updBlock s k g).host = s.host := rfl
@[simp] theorem updBlock_tenants (s : State) (k : Nat) (g : BlockRec → BlockRec) : (updBlock s k g).tenants = s.tenants := rfl
@[simp] theorem updBlock_chn (s : State) (k : Nat) (g : BlockRec → BlockRec) : (updBlock s k g).chn = s.chn := rfl
@[simp] theorem updBlock_lanes (s : State) (k : Nat) (g : BlockRec → BlockRec) : (updBlock s k g).lanes = s.lanes := rfl
@[simp] theorem updBlock_codec (s : State) (k : Nat) (g : BlockRec → BlockRec) : (updBlock s k g).codec = s.codec := rfl
@[simp] theorem updBlock_cam (s : State) (k : Nat) (g : BlockRec → BlockRec) : (updBlock s k g).cam = s.cam := rfl
@[simp] theorem updBlock_cry (s : State) (k : Nat) (g : BlockRec → BlockRec) : (updBlock s k g).cry = s.cry := rfl
@[simp] theorem updBlock_sch (s : State) (k : Nat) (g : BlockRec → BlockRec) : (updBlock s k g).sch = s.sch := rfl
@[simp] theorem updBlock_drc (s : State) (k : Nat) (g : BlockRec → BlockRec) : (updBlock s k g).drc = s.drc := rfl
@[simp] theorem updBlock_stw (s : State) (k : Nat) (g : BlockRec → BlockRec) : (updBlock s k g).stw = s.stw := rfl
@[simp] theorem updBlock_therm (s : State) (k : Nat) (g : BlockRec → BlockRec) : (updBlock s k g).therm = s.therm := rfl
@[simp] theorem updBlock_cas (s : State) (k : Nat) (g : BlockRec → BlockRec) : (updBlock s k g).cas = s.cas := rfl
@[simp] theorem updBlock_ftl_namespaces (s : State) (k : Nat) (g : BlockRec → BlockRec) : (updBlock s k g).ftl.namespaces = s.ftl.namespaces := rfl
@[simp] theorem updBlock_ftl_map (s : State) (k : Nat) (g : BlockRec → BlockRec) : (updBlock s k g).ftl.map = s.ftl.map := rfl
@[simp] theorem updBlock_ftl_mapLoc (s : State) (k : Nat) (g : BlockRec → BlockRec) : (updBlock s k g).ftl.mapLoc = s.ftl.mapLoc := rfl
@[simp] theorem updBlock_ftl_overlay (s : State) (k : Nat) (g : BlockRec → BlockRec) : (updBlock s k g).ftl.overlay = s.ftl.overlay := rfl
@[simp] theorem updBlock_ftl_resident (s : State) (k : Nat) (g : BlockRec → BlockRec) : (updBlock s k g).ftl.resident = s.ftl.resident := rfl
@[simp] theorem updBlock_ftl_dirty (s : State) (k : Nat) (g : BlockRec → BlockRec) : (updBlock s k g).ftl.dirty = s.ftl.dirty := rfl
@[simp] theorem updBlock_ftl_since (s : State) (k : Nat) (g : BlockRec → BlockRec) : (updBlock s k g).ftl.since = s.ftl.since := rfl
@[simp] theorem updBlock_ftl_wanted (s : State) (k : Nat) (g : BlockRec → BlockRec) : (updBlock s k g).ftl.wanted = s.ftl.wanted := rfl
@[simp] theorem updBlock_ftl_accessed (s : State) (k : Nat) (g : BlockRec → BlockRec) : (updBlock s k g).ftl.accessed = s.ftl.accessed := rfl
@[simp] theorem updBlock_ftl_mapFull (s : State) (k : Nat) (g : BlockRec → BlockRec) : (updBlock s k g).ftl.mapFull = s.ftl.mapFull := rfl
@[simp] theorem updBlock_ftl_swaths (s : State) (k : Nat) (g : BlockRec → BlockRec) : (updBlock s k g).ftl.swaths = s.ftl.swaths := rfl
@[simp] theorem updBlock_ftl_nextSwath (s : State) (k : Nat) (g : BlockRec → BlockRec) : (updBlock s k g).ftl.nextSwath = s.ftl.nextSwath := rfl
@[simp] theorem updBlock_ftl_flash (s : State) (k : Nat) (g : BlockRec → BlockRec) : (updBlock s k g).ftl.flash = s.ftl.flash := rfl
@[simp] theorem updBlock_ftl_work (s : State) (k : Nat) (g : BlockRec → BlockRec) : (updBlock s k g).ftl.work = s.ftl.work := rfl
@[simp] theorem updBlock_ftl_shortLow (s : State) (k : Nat) (g : BlockRec → BlockRec) : (updBlock s k g).ftl.shortLow = s.ftl.shortLow := rfl
@[simp] theorem updBlock_ftl_shortHigh (s : State) (k : Nat) (g : BlockRec → BlockRec) : (updBlock s k g).ftl.shortHigh = s.ftl.shortHigh := rfl
@[simp] theorem updBlock_ftl_copies (s : State) (k : Nat) (g : BlockRec → BlockRec) : (updBlock s k g).ftl.copies = s.ftl.copies := rfl
@[simp] theorem updBlock_ftl_rebuild (s : State) (k : Nat) (g : BlockRec → BlockRec) : (updBlock s k g).ftl.rebuild = s.ftl.rebuild := rfl
@[simp] theorem updBlock_ftl_rebuilds (s : State) (k : Nat) (g : BlockRec → BlockRec) : (updBlock s k g).ftl.rebuilds = s.ftl.rebuilds := rfl
@[simp] theorem updBlock_ftl_readHolds (s : State) (k : Nat) (g : BlockRec → BlockRec) : (updBlock s k g).ftl.readHolds = s.ftl.readHolds := rfl
@[simp] theorem updBlock_ftl_reads (s : State) (k : Nat) (g : BlockRec → BlockRec) : (updBlock s k g).ftl.reads = s.ftl.reads := rfl
@[simp] theorem updBlock_ftl_exported (s : State) (k : Nat) (g : BlockRec → BlockRec) : (updBlock s k g).ftl.exported = s.ftl.exported := rfl
@[simp] theorem updBlock_ftl_spareFirst (s : State) (k : Nat) (g : BlockRec → BlockRec) : (updBlock s k g).ftl.spareFirst = s.ftl.spareFirst := rfl
@[simp] theorem updBlock_ftl_spareLeft (s : State) (k : Nat) (g : BlockRec → BlockRec) : (updBlock s k g).ftl.spareLeft = s.ftl.spareLeft := rfl
@[simp] theorem updBlock_ftl_mode (s : State) (k : Nat) (g : BlockRec → BlockRec) : (updBlock s k g).ftl.mode = s.ftl.mode := rfl
@[simp] theorem updBlock_ftl_meadowTarget (s : State) (k : Nat) (g : BlockRec → BlockRec) : (updBlock s k g).ftl.meadowTarget = s.ftl.meadowTarget := rfl
@[simp] theorem updBlock_ftl_meadowShare (s : State) (k : Nat) (g : BlockRec → BlockRec) : (updBlock s k g).ftl.meadowShare = s.ftl.meadowShare := rfl
@[simp] theorem updBlock_ftl_meadowAt (s : State) (k : Nat) (g : BlockRec → BlockRec) : (updBlock s k g).ftl.meadowAt = s.ftl.meadowAt := rfl
@[simp] theorem updBlock_ftl_healthAt (s : State) (k : Nat) (g : BlockRec → BlockRec) : (updBlock s k g).ftl.healthAt = s.ftl.healthAt := rfl
@[simp] theorem updBlock_ftl_fallowAt (s : State) (k : Nat) (g : BlockRec → BlockRec) : (updBlock s k g).ftl.fallowAt = s.ftl.fallowAt := rfl
@[simp] theorem updBlock_ftl_stopped (s : State) (k : Nat) (g : BlockRec → BlockRec) : (updBlock s k g).ftl.stopped = s.ftl.stopped := rfl
@[simp] theorem updBlock_ftl_health (s : State) (k : Nat) (g : BlockRec → BlockRec) : (updBlock s k g).ftl.health = s.ftl.health := rfl

/-! ### queueRec -/

@[simp] theorem queueRec_pending (s : State) (type : Nat) (es : List JEntry) : (queueRec s type es).pending = s.pending := rfl
@[simp] theorem queueRec_freeCount (s : State) (type : Nat) (es : List JEntry) : (queueRec s type es).freeCount = s.freeCount := rfl
@[simp] theorem queueRec_bus (s : State) (type : Nat) (es : List JEntry) : (queueRec s type es).bus = s.bus := rfl
@[simp] theorem queueRec_time (s : State) (type : Nat) (es : List JEntry) : (queueRec s type es).time = s.time := rfl
@[simp] theorem queueRec_power (s : State) (type : Nat) (es : List JEntry) : (queueRec s type es).power = s.power := rfl
@[simp] theorem queueRec_media (s : State) (type : Nat) (es : List JEntry) : (queueRec s type es).media = s.media := rfl
@[simp] theorem queueRec_pcs (s : State) (type : Nat) (es : List JEntry) : (queueRec s type es).pcs = s.pcs := rfl
@[simp] theorem queueRec_ftl (s : State) (type : Nat) (es : List JEntry) : (queueRec s type es).ftl = s.ftl := rfl
@[simp] theorem queueRec_host (s : State) (type : Nat) (es : List JEntry) : (queueRec s type es).host = s.host := rfl
@[simp] theorem queueRec_tenants (s : State) (type : Nat) (es : List JEntry) : (queueRec s type es).tenants = s.tenants := rfl
@[simp] theorem queueRec_chn (s : State) (type : Nat) (es : List JEntry) : (queueRec s type es).chn = s.chn := rfl
@[simp] theorem queueRec_lanes (s : State) (type : Nat) (es : List JEntry) : (queueRec s type es).lanes = s.lanes := rfl
@[simp] theorem queueRec_codec (s : State) (type : Nat) (es : List JEntry) : (queueRec s type es).codec = s.codec := rfl
@[simp] theorem queueRec_cam (s : State) (type : Nat) (es : List JEntry) : (queueRec s type es).cam = s.cam := rfl
@[simp] theorem queueRec_cry (s : State) (type : Nat) (es : List JEntry) : (queueRec s type es).cry = s.cry := rfl
@[simp] theorem queueRec_sch (s : State) (type : Nat) (es : List JEntry) : (queueRec s type es).sch = s.sch := rfl
@[simp] theorem queueRec_drc (s : State) (type : Nat) (es : List JEntry) : (queueRec s type es).drc = s.drc := rfl
@[simp] theorem queueRec_stw (s : State) (type : Nat) (es : List JEntry) : (queueRec s type es).stw = s.stw := rfl
@[simp] theorem queueRec_therm (s : State) (type : Nat) (es : List JEntry) : (queueRec s type es).therm = s.therm := rfl
@[simp] theorem queueRec_cas (s : State) (type : Nat) (es : List JEntry) : (queueRec s type es).cas = s.cas := rfl
@[simp] theorem queueRec_etch_mem (s : State) (type : Nat) (es : List JEntry) : (queueRec s type es).etch.mem = s.etch.mem := rfl
@[simp] theorem queueRec_etch_slots (s : State) (type : Nat) (es : List JEntry) : (queueRec s type es).etch.slots = s.etch.slots := rfl
@[simp] theorem queueRec_etch_live (s : State) (type : Nat) (es : List JEntry) : (queueRec s type es).etch.live = s.etch.live := rfl
@[simp] theorem queueRec_etch_moving (s : State) (type : Nat) (es : List JEntry) : (queueRec s type es).etch.moving = s.etch.moving := rfl
@[simp] theorem queueRec_etch_seq (s : State) (type : Nat) (es : List JEntry) : (queueRec s type es).etch.seq = s.etch.seq := rfl
@[simp] theorem queueRec_etch_tail (s : State) (type : Nat) (es : List JEntry) : (queueRec s type es).etch.tail = s.etch.tail := rfl
@[simp] theorem queueRec_etch_lastStamp (s : State) (type : Nat) (es : List JEntry) : (queueRec s type es).etch.lastStamp = s.etch.lastStamp := rfl
@[simp] theorem queueRec_etch_mirrorLog (s : State) (type : Nat) (es : List JEntry) : (queueRec s type es).etch.mirrorLog = s.etch.mirrorLog := rfl
@[simp] theorem queueRec_etch_mirrorRoots (s : State) (type : Nat) (es : List JEntry) : (queueRec s type es).etch.mirrorRoots = s.etch.mirrorRoots := rfl
@[simp] theorem queueRec_etch_rootA (s : State) (type : Nat) (es : List JEntry) : (queueRec s type es).etch.rootA = s.etch.rootA := rfl
@[simp] theorem queueRec_etch_rootB (s : State) (type : Nat) (es : List JEntry) : (queueRec s type es).etch.rootB = s.etch.rootB := rfl
@[simp] theorem queueRec_etch_rootActive (s : State) (type : Nat) (es : List JEntry) : (queueRec s type es).etch.rootActive = s.etch.rootActive := rfl
@[simp] theorem queueRec_etch_cpOpen (s : State) (type : Nat) (es : List JEntry) : (queueRec s type es).etch.cpOpen = s.etch.cpOpen := rfl
@[simp] theorem queueRec_etch_cpMirror (s : State) (type : Nat) (es : List JEntry) : (queueRec s type es).etch.cpMirror = s.etch.cpMirror := rfl
@[simp] theorem queueRec_etch_cpAt (s : State) (type : Nat) (es : List JEntry) : (queueRec s type es).etch.cpAt = s.etch.cpAt := rfl
@[simp] theorem queueRec_etch_shutRoot (s : State) (type : Nat) (es : List JEntry) : (queueRec s type es).etch.shutRoot = s.etch.shutRoot := rfl
@[simp] theorem queueRec_etch_setA (s : State) (type : Nat) (es : List JEntry) : (queueRec s type es).etch.setA = s.etch.setA := rfl
@[simp] theorem queueRec_etch_setB (s : State) (type : Nat) (es : List JEntry) : (queueRec s type es).etch.setB = s.etch.setB := rfl
@[simp] theorem queueRec_etch_setActive (s : State) (type : Nat) (es : List JEntry) : (queueRec s type es).etch.setActive = s.etch.setActive := rfl
@[simp] theorem queueRec_etch_setSeq (s : State) (type : Nat) (es : List JEntry) : (queueRec s type es).etch.setSeq = s.etch.setSeq := rfl
@[simp] theorem queueRec_etch_update (s : State) (type : Nat) (es : List JEntry) : (queueRec s type es).etch.update = s.etch.update := rfl
@[simp] theorem queueRec_etch_wanted (s : State) (type : Nat) (es : List JEntry) : (queueRec s type es).etch.wanted = s.etch.wanted := rfl
@[simp] theorem queueRec_etch_mirrors (s : State) (type : Nat) (es : List JEntry) : (queueRec s type es).etch.mirrors = s.etch.mirrors := rfl
@[simp] theorem queueRec_etch_anchors (s : State) (type : Nat) (es : List JEntry) : (queueRec s type es).etch.anchors = s.etch.anchors := rfl
@[simp] theorem queueRec_etch_anchorsDue (s : State) (type : Nat) (es : List JEntry) : (queueRec s type es).etch.anchorsDue = s.etch.anchorsDue := rfl
@[simp] theorem queueRec_etch_anchorNext (s : State) (type : Nat) (es : List JEntry) : (queueRec s type es).etch.anchorNext = s.etch.anchorNext := rfl
@[simp] theorem queueRec_etch_anchorSet (s : State) (type : Nat) (es : List JEntry) : (queueRec s type es).etch.anchorSet = s.etch.anchorSet := rfl
@[simp] theorem queueRec_etch_lost0 (s : State) (type : Nat) (es : List JEntry) : (queueRec s type es).etch.lost0 = s.etch.lost0 := rfl
@[simp] theorem queueRec_etch_lost1 (s : State) (type : Nat) (es : List JEntry) : (queueRec s type es).etch.lost1 = s.etch.lost1 := rfl
@[simp] theorem queueRec_etch_admitHold (s : State) (type : Nat) (es : List JEntry) : (queueRec s type es).etch.admitHold = s.etch.admitHold := rfl
@[simp] theorem queueRec_etch_jrnlHold (s : State) (type : Nat) (es : List JEntry) : (queueRec s type es).etch.jrnlHold = s.etch.jrnlHold := rfl
@[simp] theorem queueRec_etch_badLines0 (s : State) (type : Nat) (es : List JEntry) : (queueRec s type es).etch.badLines0 = s.etch.badLines0 := rfl
@[simp] theorem queueRec_etch_badLines1 (s : State) (type : Nat) (es : List JEntry) : (queueRec s type es).etch.badLines1 = s.etch.badLines1 := rfl
@[simp] theorem queueRec_etch_deferred (s : State) (type : Nat) (es : List JEntry) : (queueRec s type es).etch.deferred = s.etch.deferred := rfl
@[simp] theorem queueRec_etch_defTotal (s : State) (type : Nat) (es : List JEntry) : (queueRec s type es).etch.defTotal = s.etch.defTotal := rfl
@[simp] theorem queueRec_etch_defAt (s : State) (type : Nat) (es : List JEntry) : (queueRec s type es).etch.defAt = s.etch.defAt := rfl
@[simp] theorem queueRec_etch_deliveries (s : State) (type : Nat) (es : List JEntry) : (queueRec s type es).etch.deliveries = s.etch.deliveries := rfl

/-! ### updCtrl -/

@[simp] theorem updCtrl_pending (s : State) (f : Nat) (g : Ctrl → Ctrl) : (updCtrl s f g).pending = s.pending := rfl
@[simp] theorem updCtrl_freeCount (s : State) (f : Nat) (g : Ctrl → Ctrl) : (updCtrl s f g).freeCount = s.freeCount := rfl
@[simp] theorem updCtrl_bus (s : State) (f : Nat) (g : Ctrl → Ctrl) : (updCtrl s f g).bus = s.bus := rfl
@[simp] theorem updCtrl_time (s : State) (f : Nat) (g : Ctrl → Ctrl) : (updCtrl s f g).time = s.time := rfl
@[simp] theorem updCtrl_power (s : State) (f : Nat) (g : Ctrl → Ctrl) : (updCtrl s f g).power = s.power := rfl
@[simp] theorem updCtrl_media (s : State) (f : Nat) (g : Ctrl → Ctrl) : (updCtrl s f g).media = s.media := rfl
@[simp] theorem updCtrl_pcs (s : State) (f : Nat) (g : Ctrl → Ctrl) : (updCtrl s f g).pcs = s.pcs := rfl
@[simp] theorem updCtrl_ftl (s : State) (f : Nat) (g : Ctrl → Ctrl) : (updCtrl s f g).ftl = s.ftl := rfl
@[simp] theorem updCtrl_etch (s : State) (f : Nat) (g : Ctrl → Ctrl) : (updCtrl s f g).etch = s.etch := rfl
@[simp] theorem updCtrl_tenants (s : State) (f : Nat) (g : Ctrl → Ctrl) : (updCtrl s f g).tenants = s.tenants := rfl
@[simp] theorem updCtrl_chn (s : State) (f : Nat) (g : Ctrl → Ctrl) : (updCtrl s f g).chn = s.chn := rfl
@[simp] theorem updCtrl_lanes (s : State) (f : Nat) (g : Ctrl → Ctrl) : (updCtrl s f g).lanes = s.lanes := rfl
@[simp] theorem updCtrl_codec (s : State) (f : Nat) (g : Ctrl → Ctrl) : (updCtrl s f g).codec = s.codec := rfl
@[simp] theorem updCtrl_cam (s : State) (f : Nat) (g : Ctrl → Ctrl) : (updCtrl s f g).cam = s.cam := rfl
@[simp] theorem updCtrl_cry (s : State) (f : Nat) (g : Ctrl → Ctrl) : (updCtrl s f g).cry = s.cry := rfl
@[simp] theorem updCtrl_sch (s : State) (f : Nat) (g : Ctrl → Ctrl) : (updCtrl s f g).sch = s.sch := rfl
@[simp] theorem updCtrl_drc (s : State) (f : Nat) (g : Ctrl → Ctrl) : (updCtrl s f g).drc = s.drc := rfl
@[simp] theorem updCtrl_stw (s : State) (f : Nat) (g : Ctrl → Ctrl) : (updCtrl s f g).stw = s.stw := rfl
@[simp] theorem updCtrl_therm (s : State) (f : Nat) (g : Ctrl → Ctrl) : (updCtrl s f g).therm = s.therm := rfl
@[simp] theorem updCtrl_cas (s : State) (f : Nat) (g : Ctrl → Ctrl) : (updCtrl s f g).cas = s.cas := rfl
@[simp] theorem updCtrl_host_ports (s : State) (f : Nat) (g : Ctrl → Ctrl) : (updCtrl s f g).host.ports = s.host.ports := rfl
@[simp] theorem updCtrl_host_exec (s : State) (f : Nat) (g : Ctrl → Ctrl) : (updCtrl s f g).host.exec = s.host.exec := rfl
@[simp] theorem updCtrl_host_waiting (s : State) (f : Nat) (g : Ctrl → Ctrl) : (updCtrl s f g).host.waiting = s.host.waiting := rfl
@[simp] theorem updCtrl_host_order (s : State) (f : Nat) (g : Ctrl → Ctrl) : (updCtrl s f g).host.order = s.host.order := rfl
@[simp] theorem updCtrl_host_lastFn (s : State) (f : Nat) (g : Ctrl → Ctrl) : (updCtrl s f g).host.lastFn = s.host.lastFn := rfl
@[simp] theorem updCtrl_host_reservations (s : State) (f : Nat) (g : Ctrl → Ctrl) : (updCtrl s f g).host.reservations = s.host.reservations := rfl
@[simp] theorem updCtrl_host_fwImage (s : State) (f : Nat) (g : Ctrl → Ctrl) : (updCtrl s f g).host.fwImage = s.host.fwImage := rfl
@[simp] theorem updCtrl_host_fwSlots (s : State) (f : Nat) (g : Ctrl → Ctrl) : (updCtrl s f g).host.fwSlots = s.host.fwSlots := rfl
@[simp] theorem updCtrl_host_fwNext (s : State) (f : Nat) (g : Ctrl → Ctrl) : (updCtrl s f g).host.fwNext = s.host.fwNext := rfl
@[simp] theorem updCtrl_host_sanitizing (s : State) (f : Nat) (g : Ctrl → Ctrl) : (updCtrl s f g).host.sanitizing = s.host.sanitizing := rfl
@[simp] theorem updCtrl_host_sanitized (s : State) (f : Nat) (g : Ctrl → Ctrl) : (updCtrl s f g).host.sanitized = s.host.sanitized := rfl
@[simp] theorem updCtrl_host_features (s : State) (f : Nat) (g : Ctrl → Ctrl) : (updCtrl s f g).host.features = s.host.features := rfl
@[simp] theorem updCtrl_host_smbus (s : State) (f : Nat) (g : Ctrl → Ctrl) : (updCtrl s f g).host.smbus = s.host.smbus := rfl
@[simp] theorem updCtrl_host_asyncEvents (s : State) (f : Nat) (g : Ctrl → Ctrl) : (updCtrl s f g).host.asyncEvents = s.host.asyncEvents := rfl

/-! ### updCmd -/

@[simp] theorem updCmd_pending (s : State) (id : CmdId) (g : ExecCmd → ExecCmd) : (updCmd s id g).pending = s.pending := rfl
@[simp] theorem updCmd_freeCount (s : State) (id : CmdId) (g : ExecCmd → ExecCmd) : (updCmd s id g).freeCount = s.freeCount := rfl
@[simp] theorem updCmd_bus (s : State) (id : CmdId) (g : ExecCmd → ExecCmd) : (updCmd s id g).bus = s.bus := rfl
@[simp] theorem updCmd_time (s : State) (id : CmdId) (g : ExecCmd → ExecCmd) : (updCmd s id g).time = s.time := rfl
@[simp] theorem updCmd_power (s : State) (id : CmdId) (g : ExecCmd → ExecCmd) : (updCmd s id g).power = s.power := rfl
@[simp] theorem updCmd_media (s : State) (id : CmdId) (g : ExecCmd → ExecCmd) : (updCmd s id g).media = s.media := rfl
@[simp] theorem updCmd_pcs (s : State) (id : CmdId) (g : ExecCmd → ExecCmd) : (updCmd s id g).pcs = s.pcs := rfl
@[simp] theorem updCmd_ftl (s : State) (id : CmdId) (g : ExecCmd → ExecCmd) : (updCmd s id g).ftl = s.ftl := rfl
@[simp] theorem updCmd_etch (s : State) (id : CmdId) (g : ExecCmd → ExecCmd) : (updCmd s id g).etch = s.etch := rfl
@[simp] theorem updCmd_tenants (s : State) (id : CmdId) (g : ExecCmd → ExecCmd) : (updCmd s id g).tenants = s.tenants := rfl
@[simp] theorem updCmd_chn (s : State) (id : CmdId) (g : ExecCmd → ExecCmd) : (updCmd s id g).chn = s.chn := rfl
@[simp] theorem updCmd_lanes (s : State) (id : CmdId) (g : ExecCmd → ExecCmd) : (updCmd s id g).lanes = s.lanes := rfl
@[simp] theorem updCmd_codec (s : State) (id : CmdId) (g : ExecCmd → ExecCmd) : (updCmd s id g).codec = s.codec := rfl
@[simp] theorem updCmd_cam (s : State) (id : CmdId) (g : ExecCmd → ExecCmd) : (updCmd s id g).cam = s.cam := rfl
@[simp] theorem updCmd_cry (s : State) (id : CmdId) (g : ExecCmd → ExecCmd) : (updCmd s id g).cry = s.cry := rfl
@[simp] theorem updCmd_sch (s : State) (id : CmdId) (g : ExecCmd → ExecCmd) : (updCmd s id g).sch = s.sch := rfl
@[simp] theorem updCmd_drc (s : State) (id : CmdId) (g : ExecCmd → ExecCmd) : (updCmd s id g).drc = s.drc := rfl
@[simp] theorem updCmd_stw (s : State) (id : CmdId) (g : ExecCmd → ExecCmd) : (updCmd s id g).stw = s.stw := rfl
@[simp] theorem updCmd_therm (s : State) (id : CmdId) (g : ExecCmd → ExecCmd) : (updCmd s id g).therm = s.therm := rfl
@[simp] theorem updCmd_cas (s : State) (id : CmdId) (g : ExecCmd → ExecCmd) : (updCmd s id g).cas = s.cas := rfl
@[simp] theorem updCmd_host_ctrls (s : State) (id : CmdId) (g : ExecCmd → ExecCmd) : (updCmd s id g).host.ctrls = s.host.ctrls := rfl
@[simp] theorem updCmd_host_ports (s : State) (id : CmdId) (g : ExecCmd → ExecCmd) : (updCmd s id g).host.ports = s.host.ports := rfl
@[simp] theorem updCmd_host_waiting (s : State) (id : CmdId) (g : ExecCmd → ExecCmd) : (updCmd s id g).host.waiting = s.host.waiting := rfl
@[simp] theorem updCmd_host_order (s : State) (id : CmdId) (g : ExecCmd → ExecCmd) : (updCmd s id g).host.order = s.host.order := rfl
@[simp] theorem updCmd_host_lastFn (s : State) (id : CmdId) (g : ExecCmd → ExecCmd) : (updCmd s id g).host.lastFn = s.host.lastFn := rfl
@[simp] theorem updCmd_host_reservations (s : State) (id : CmdId) (g : ExecCmd → ExecCmd) : (updCmd s id g).host.reservations = s.host.reservations := rfl
@[simp] theorem updCmd_host_fwImage (s : State) (id : CmdId) (g : ExecCmd → ExecCmd) : (updCmd s id g).host.fwImage = s.host.fwImage := rfl
@[simp] theorem updCmd_host_fwSlots (s : State) (id : CmdId) (g : ExecCmd → ExecCmd) : (updCmd s id g).host.fwSlots = s.host.fwSlots := rfl
@[simp] theorem updCmd_host_fwNext (s : State) (id : CmdId) (g : ExecCmd → ExecCmd) : (updCmd s id g).host.fwNext = s.host.fwNext := rfl
@[simp] theorem updCmd_host_sanitizing (s : State) (id : CmdId) (g : ExecCmd → ExecCmd) : (updCmd s id g).host.sanitizing = s.host.sanitizing := rfl
@[simp] theorem updCmd_host_sanitized (s : State) (id : CmdId) (g : ExecCmd → ExecCmd) : (updCmd s id g).host.sanitized = s.host.sanitized := rfl
@[simp] theorem updCmd_host_features (s : State) (id : CmdId) (g : ExecCmd → ExecCmd) : (updCmd s id g).host.features = s.host.features := rfl
@[simp] theorem updCmd_host_smbus (s : State) (id : CmdId) (g : ExecCmd → ExecCmd) : (updCmd s id g).host.smbus = s.host.smbus := rfl
@[simp] theorem updCmd_host_asyncEvents (s : State) (id : CmdId) (g : ExecCmd → ExecCmd) : (updCmd s id g).host.asyncEvents = s.host.asyncEvents := rfl

/-! ### dropCmds -/

@[simp] theorem dropCmds_pending (s : State) (p : CmdId → Bool) : (dropCmds s p).pending = s.pending := rfl
@[simp] theorem dropCmds_freeCount (s : State) (p : CmdId → Bool) : (dropCmds s p).freeCount = s.freeCount := rfl
@[simp] theorem dropCmds_bus (s : State) (p : CmdId → Bool) : (dropCmds s p).bus = s.bus := rfl
@[simp] theorem dropCmds_time (s : State) (p : CmdId → Bool) : (dropCmds s p).time = s.time := rfl
@[simp] theorem dropCmds_power (s : State) (p : CmdId → Bool) : (dropCmds s p).power = s.power := rfl
@[simp] theorem dropCmds_media (s : State) (p : CmdId → Bool) : (dropCmds s p).media = s.media := rfl
@[simp] theorem dropCmds_pcs (s : State) (p : CmdId → Bool) : (dropCmds s p).pcs = s.pcs := rfl
@[simp] theorem dropCmds_ftl (s : State) (p : CmdId → Bool) : (dropCmds s p).ftl = s.ftl := rfl
@[simp] theorem dropCmds_etch (s : State) (p : CmdId → Bool) : (dropCmds s p).etch = s.etch := rfl
@[simp] theorem dropCmds_tenants (s : State) (p : CmdId → Bool) : (dropCmds s p).tenants = s.tenants := rfl
@[simp] theorem dropCmds_chn (s : State) (p : CmdId → Bool) : (dropCmds s p).chn = s.chn := rfl
@[simp] theorem dropCmds_lanes (s : State) (p : CmdId → Bool) : (dropCmds s p).lanes = s.lanes := rfl
@[simp] theorem dropCmds_codec (s : State) (p : CmdId → Bool) : (dropCmds s p).codec = s.codec := rfl
@[simp] theorem dropCmds_cam (s : State) (p : CmdId → Bool) : (dropCmds s p).cam = s.cam := rfl
@[simp] theorem dropCmds_cry (s : State) (p : CmdId → Bool) : (dropCmds s p).cry = s.cry := rfl
@[simp] theorem dropCmds_sch (s : State) (p : CmdId → Bool) : (dropCmds s p).sch = s.sch := rfl
@[simp] theorem dropCmds_drc (s : State) (p : CmdId → Bool) : (dropCmds s p).drc = s.drc := rfl
@[simp] theorem dropCmds_stw (s : State) (p : CmdId → Bool) : (dropCmds s p).stw = s.stw := rfl
@[simp] theorem dropCmds_therm (s : State) (p : CmdId → Bool) : (dropCmds s p).therm = s.therm := rfl
@[simp] theorem dropCmds_cas (s : State) (p : CmdId → Bool) : (dropCmds s p).cas = s.cas := rfl
@[simp] theorem dropCmds_host_ctrls (s : State) (p : CmdId → Bool) : (dropCmds s p).host.ctrls = s.host.ctrls := rfl
@[simp] theorem dropCmds_host_ports (s : State) (p : CmdId → Bool) : (dropCmds s p).host.ports = s.host.ports := rfl
@[simp] theorem dropCmds_host_order (s : State) (p : CmdId → Bool) : (dropCmds s p).host.order = s.host.order := rfl
@[simp] theorem dropCmds_host_lastFn (s : State) (p : CmdId → Bool) : (dropCmds s p).host.lastFn = s.host.lastFn := rfl
@[simp] theorem dropCmds_host_reservations (s : State) (p : CmdId → Bool) : (dropCmds s p).host.reservations = s.host.reservations := rfl
@[simp] theorem dropCmds_host_fwImage (s : State) (p : CmdId → Bool) : (dropCmds s p).host.fwImage = s.host.fwImage := rfl
@[simp] theorem dropCmds_host_fwSlots (s : State) (p : CmdId → Bool) : (dropCmds s p).host.fwSlots = s.host.fwSlots := rfl
@[simp] theorem dropCmds_host_fwNext (s : State) (p : CmdId → Bool) : (dropCmds s p).host.fwNext = s.host.fwNext := rfl
@[simp] theorem dropCmds_host_sanitizing (s : State) (p : CmdId → Bool) : (dropCmds s p).host.sanitizing = s.host.sanitizing := rfl
@[simp] theorem dropCmds_host_sanitized (s : State) (p : CmdId → Bool) : (dropCmds s p).host.sanitized = s.host.sanitized := rfl
@[simp] theorem dropCmds_host_features (s : State) (p : CmdId → Bool) : (dropCmds s p).host.features = s.host.features := rfl
@[simp] theorem dropCmds_host_smbus (s : State) (p : CmdId → Bool) : (dropCmds s p).host.smbus = s.host.smbus := rfl
@[simp] theorem dropCmds_host_asyncEvents (s : State) (p : CmdId → Bool) : (dropCmds s p).host.asyncEvents = s.host.asyncEvents := rfl

/-! ### dropLink -/

@[simp] theorem dropLink_pending (s : State) (port : Nat) : (dropLink s port).pending = s.pending := rfl
@[simp] theorem dropLink_freeCount (s : State) (port : Nat) : (dropLink s port).freeCount = s.freeCount := rfl
@[simp] theorem dropLink_bus (s : State) (port : Nat) : (dropLink s port).bus = s.bus := rfl
@[simp] theorem dropLink_time (s : State) (port : Nat) : (dropLink s port).time = s.time := rfl
@[simp] theorem dropLink_power (s : State) (port : Nat) : (dropLink s port).power = s.power := rfl
@[simp] theorem dropLink_media (s : State) (port : Nat) : (dropLink s port).media = s.media := rfl
@[simp] theorem dropLink_pcs (s : State) (port : Nat) : (dropLink s port).pcs = s.pcs := rfl
@[simp] theorem dropLink_ftl (s : State) (port : Nat) : (dropLink s port).ftl = s.ftl := rfl
@[simp] theorem dropLink_etch (s : State) (port : Nat) : (dropLink s port).etch = s.etch := rfl
@[simp] theorem dropLink_tenants (s : State) (port : Nat) : (dropLink s port).tenants = s.tenants := rfl
@[simp] theorem dropLink_chn (s : State) (port : Nat) : (dropLink s port).chn = s.chn := rfl
@[simp] theorem dropLink_lanes (s : State) (port : Nat) : (dropLink s port).lanes = s.lanes := rfl
@[simp] theorem dropLink_codec (s : State) (port : Nat) : (dropLink s port).codec = s.codec := rfl
@[simp] theorem dropLink_cam (s : State) (port : Nat) : (dropLink s port).cam = s.cam := rfl
@[simp] theorem dropLink_cry (s : State) (port : Nat) : (dropLink s port).cry = s.cry := rfl
@[simp] theorem dropLink_sch (s : State) (port : Nat) : (dropLink s port).sch = s.sch := rfl
@[simp] theorem dropLink_drc (s : State) (port : Nat) : (dropLink s port).drc = s.drc := rfl
@[simp] theorem dropLink_stw (s : State) (port : Nat) : (dropLink s port).stw = s.stw := rfl
@[simp] theorem dropLink_therm (s : State) (port : Nat) : (dropLink s port).therm = s.therm := rfl
@[simp] theorem dropLink_cas (s : State) (port : Nat) : (dropLink s port).cas = s.cas := rfl
@[simp] theorem dropLink_host_ctrls (s : State) (port : Nat) : (dropLink s port).host.ctrls = s.host.ctrls := rfl
@[simp] theorem dropLink_host_exec (s : State) (port : Nat) : (dropLink s port).host.exec = s.host.exec := rfl
@[simp] theorem dropLink_host_waiting (s : State) (port : Nat) : (dropLink s port).host.waiting = s.host.waiting := rfl
@[simp] theorem dropLink_host_order (s : State) (port : Nat) : (dropLink s port).host.order = s.host.order := rfl
@[simp] theorem dropLink_host_lastFn (s : State) (port : Nat) : (dropLink s port).host.lastFn = s.host.lastFn := rfl
@[simp] theorem dropLink_host_reservations (s : State) (port : Nat) : (dropLink s port).host.reservations = s.host.reservations := rfl
@[simp] theorem dropLink_host_fwImage (s : State) (port : Nat) : (dropLink s port).host.fwImage = s.host.fwImage := rfl
@[simp] theorem dropLink_host_fwSlots (s : State) (port : Nat) : (dropLink s port).host.fwSlots = s.host.fwSlots := rfl
@[simp] theorem dropLink_host_fwNext (s : State) (port : Nat) : (dropLink s port).host.fwNext = s.host.fwNext := rfl
@[simp] theorem dropLink_host_sanitizing (s : State) (port : Nat) : (dropLink s port).host.sanitizing = s.host.sanitizing := rfl
@[simp] theorem dropLink_host_sanitized (s : State) (port : Nat) : (dropLink s port).host.sanitized = s.host.sanitized := rfl
@[simp] theorem dropLink_host_features (s : State) (port : Nat) : (dropLink s port).host.features = s.host.features := rfl
@[simp] theorem dropLink_host_smbus (s : State) (port : Nat) : (dropLink s port).host.smbus = s.host.smbus := rfl
@[simp] theorem dropLink_host_asyncEvents (s : State) (port : Nat) : (dropLink s port).host.asyncEvents = s.host.asyncEvents := rfl

/-! ### setReservation -/

@[simp] theorem setReservation_pending (s : State) (nsid : Nat) (r : Reservation) : (setReservation s nsid r).pending = s.pending := rfl
@[simp] theorem setReservation_freeCount (s : State) (nsid : Nat) (r : Reservation) : (setReservation s nsid r).freeCount = s.freeCount := rfl
@[simp] theorem setReservation_bus (s : State) (nsid : Nat) (r : Reservation) : (setReservation s nsid r).bus = s.bus := rfl
@[simp] theorem setReservation_time (s : State) (nsid : Nat) (r : Reservation) : (setReservation s nsid r).time = s.time := rfl
@[simp] theorem setReservation_power (s : State) (nsid : Nat) (r : Reservation) : (setReservation s nsid r).power = s.power := rfl
@[simp] theorem setReservation_media (s : State) (nsid : Nat) (r : Reservation) : (setReservation s nsid r).media = s.media := rfl
@[simp] theorem setReservation_pcs (s : State) (nsid : Nat) (r : Reservation) : (setReservation s nsid r).pcs = s.pcs := rfl
@[simp] theorem setReservation_ftl (s : State) (nsid : Nat) (r : Reservation) : (setReservation s nsid r).ftl = s.ftl := rfl
@[simp] theorem setReservation_etch (s : State) (nsid : Nat) (r : Reservation) : (setReservation s nsid r).etch = s.etch := rfl
@[simp] theorem setReservation_tenants (s : State) (nsid : Nat) (r : Reservation) : (setReservation s nsid r).tenants = s.tenants := rfl
@[simp] theorem setReservation_chn (s : State) (nsid : Nat) (r : Reservation) : (setReservation s nsid r).chn = s.chn := rfl
@[simp] theorem setReservation_lanes (s : State) (nsid : Nat) (r : Reservation) : (setReservation s nsid r).lanes = s.lanes := rfl
@[simp] theorem setReservation_codec (s : State) (nsid : Nat) (r : Reservation) : (setReservation s nsid r).codec = s.codec := rfl
@[simp] theorem setReservation_cam (s : State) (nsid : Nat) (r : Reservation) : (setReservation s nsid r).cam = s.cam := rfl
@[simp] theorem setReservation_cry (s : State) (nsid : Nat) (r : Reservation) : (setReservation s nsid r).cry = s.cry := rfl
@[simp] theorem setReservation_sch (s : State) (nsid : Nat) (r : Reservation) : (setReservation s nsid r).sch = s.sch := rfl
@[simp] theorem setReservation_drc (s : State) (nsid : Nat) (r : Reservation) : (setReservation s nsid r).drc = s.drc := rfl
@[simp] theorem setReservation_stw (s : State) (nsid : Nat) (r : Reservation) : (setReservation s nsid r).stw = s.stw := rfl
@[simp] theorem setReservation_therm (s : State) (nsid : Nat) (r : Reservation) : (setReservation s nsid r).therm = s.therm := rfl
@[simp] theorem setReservation_cas (s : State) (nsid : Nat) (r : Reservation) : (setReservation s nsid r).cas = s.cas := rfl
@[simp] theorem setReservation_host_ctrls (s : State) (nsid : Nat) (r : Reservation) : (setReservation s nsid r).host.ctrls = s.host.ctrls := rfl
@[simp] theorem setReservation_host_ports (s : State) (nsid : Nat) (r : Reservation) : (setReservation s nsid r).host.ports = s.host.ports := rfl
@[simp] theorem setReservation_host_exec (s : State) (nsid : Nat) (r : Reservation) : (setReservation s nsid r).host.exec = s.host.exec := rfl
@[simp] theorem setReservation_host_waiting (s : State) (nsid : Nat) (r : Reservation) : (setReservation s nsid r).host.waiting = s.host.waiting := rfl
@[simp] theorem setReservation_host_order (s : State) (nsid : Nat) (r : Reservation) : (setReservation s nsid r).host.order = s.host.order := rfl
@[simp] theorem setReservation_host_lastFn (s : State) (nsid : Nat) (r : Reservation) : (setReservation s nsid r).host.lastFn = s.host.lastFn := rfl
@[simp] theorem setReservation_host_fwImage (s : State) (nsid : Nat) (r : Reservation) : (setReservation s nsid r).host.fwImage = s.host.fwImage := rfl
@[simp] theorem setReservation_host_fwSlots (s : State) (nsid : Nat) (r : Reservation) : (setReservation s nsid r).host.fwSlots = s.host.fwSlots := rfl
@[simp] theorem setReservation_host_fwNext (s : State) (nsid : Nat) (r : Reservation) : (setReservation s nsid r).host.fwNext = s.host.fwNext := rfl
@[simp] theorem setReservation_host_sanitizing (s : State) (nsid : Nat) (r : Reservation) : (setReservation s nsid r).host.sanitizing = s.host.sanitizing := rfl
@[simp] theorem setReservation_host_sanitized (s : State) (nsid : Nat) (r : Reservation) : (setReservation s nsid r).host.sanitized = s.host.sanitized := rfl
@[simp] theorem setReservation_host_features (s : State) (nsid : Nat) (r : Reservation) : (setReservation s nsid r).host.features = s.host.features := rfl
@[simp] theorem setReservation_host_smbus (s : State) (nsid : Nat) (r : Reservation) : (setReservation s nsid r).host.smbus = s.host.smbus := rfl
@[simp] theorem setReservation_host_asyncEvents (s : State) (nsid : Nat) (r : Reservation) : (setReservation s nsid r).host.asyncEvents = s.host.asyncEvents := rfl

/-! ### updTenant -/

@[simp] theorem updTenant_pending (s : State) (t : Nat) (g : Tenant → Tenant) : (updTenant s t g).pending = s.pending := rfl
@[simp] theorem updTenant_freeCount (s : State) (t : Nat) (g : Tenant → Tenant) : (updTenant s t g).freeCount = s.freeCount := rfl
@[simp] theorem updTenant_bus (s : State) (t : Nat) (g : Tenant → Tenant) : (updTenant s t g).bus = s.bus := rfl
@[simp] theorem updTenant_time (s : State) (t : Nat) (g : Tenant → Tenant) : (updTenant s t g).time = s.time := rfl
@[simp] theorem updTenant_power (s : State) (t : Nat) (g : Tenant → Tenant) : (updTenant s t g).power = s.power := rfl
@[simp] theorem updTenant_media (s : State) (t : Nat) (g : Tenant → Tenant) : (updTenant s t g).media = s.media := rfl
@[simp] theorem updTenant_pcs (s : State) (t : Nat) (g : Tenant → Tenant) : (updTenant s t g).pcs = s.pcs := rfl
@[simp] theorem updTenant_ftl (s : State) (t : Nat) (g : Tenant → Tenant) : (updTenant s t g).ftl = s.ftl := rfl
@[simp] theorem updTenant_etch (s : State) (t : Nat) (g : Tenant → Tenant) : (updTenant s t g).etch = s.etch := rfl
@[simp] theorem updTenant_host (s : State) (t : Nat) (g : Tenant → Tenant) : (updTenant s t g).host = s.host := rfl
@[simp] theorem updTenant_chn (s : State) (t : Nat) (g : Tenant → Tenant) : (updTenant s t g).chn = s.chn := rfl
@[simp] theorem updTenant_lanes (s : State) (t : Nat) (g : Tenant → Tenant) : (updTenant s t g).lanes = s.lanes := rfl
@[simp] theorem updTenant_codec (s : State) (t : Nat) (g : Tenant → Tenant) : (updTenant s t g).codec = s.codec := rfl
@[simp] theorem updTenant_cam (s : State) (t : Nat) (g : Tenant → Tenant) : (updTenant s t g).cam = s.cam := rfl
@[simp] theorem updTenant_cry (s : State) (t : Nat) (g : Tenant → Tenant) : (updTenant s t g).cry = s.cry := rfl
@[simp] theorem updTenant_sch (s : State) (t : Nat) (g : Tenant → Tenant) : (updTenant s t g).sch = s.sch := rfl
@[simp] theorem updTenant_drc (s : State) (t : Nat) (g : Tenant → Tenant) : (updTenant s t g).drc = s.drc := rfl
@[simp] theorem updTenant_stw (s : State) (t : Nat) (g : Tenant → Tenant) : (updTenant s t g).stw = s.stw := rfl
@[simp] theorem updTenant_therm (s : State) (t : Nat) (g : Tenant → Tenant) : (updTenant s t g).therm = s.therm := rfl
@[simp] theorem updTenant_cas (s : State) (t : Nat) (g : Tenant → Tenant) : (updTenant s t g).cas = s.cas := rfl
@[simp] theorem updTenant_tenants_bind (s : State) (t : Nat) (g : Tenant → Tenant) : (updTenant s t g).tenants.bind = s.tenants.bind := rfl
@[simp] theorem updTenant_tenants_regions (s : State) (t : Nat) (g : Tenant → Tenant) : (updTenant s t g).tenants.regions = s.tenants.regions := rfl
@[simp] theorem updTenant_tenants_slot (s : State) (t : Nat) (g : Tenant → Tenant) : (updTenant s t g).tenants.slot = s.tenants.slot := rfl
@[simp] theorem updTenant_tenants_frames (s : State) (t : Nat) (g : Tenant → Tenant) : (updTenant s t g).tenants.frames = s.tenants.frames := rfl
@[simp] theorem updTenant_tenants_frameNo (s : State) (t : Nat) (g : Tenant → Tenant) : (updTenant s t g).tenants.frameNo = s.tenants.frameNo := rfl
@[simp] theorem updTenant_tenants_badLines (s : State) (t : Nat) (g : Tenant → Tenant) : (updTenant s t g).tenants.badLines = s.tenants.badLines := rfl

/-! ### setSlot -/

@[simp] theorem setSlot_pending (s : State) (k : Nat) : (setSlot s k).pending = s.pending := rfl
@[simp] theorem setSlot_freeCount (s : State) (k : Nat) : (setSlot s k).freeCount = s.freeCount := rfl
@[simp] theorem setSlot_bus (s : State) (k : Nat) : (setSlot s k).bus = s.bus := rfl
@[simp] theorem setSlot_time (s : State) (k : Nat) : (setSlot s k).time = s.time := rfl
@[simp] theorem setSlot_power (s : State) (k : Nat) : (setSlot s k).power = s.power := rfl
@[simp] theorem setSlot_media (s : State) (k : Nat) : (setSlot s k).media = s.media := rfl
@[simp] theorem setSlot_pcs (s : State) (k : Nat) : (setSlot s k).pcs = s.pcs := rfl
@[simp] theorem setSlot_ftl (s : State) (k : Nat) : (setSlot s k).ftl = s.ftl := rfl
@[simp] theorem setSlot_etch (s : State) (k : Nat) : (setSlot s k).etch = s.etch := rfl
@[simp] theorem setSlot_host (s : State) (k : Nat) : (setSlot s k).host = s.host := rfl
@[simp] theorem setSlot_chn (s : State) (k : Nat) : (setSlot s k).chn = s.chn := rfl
@[simp] theorem setSlot_lanes (s : State) (k : Nat) : (setSlot s k).lanes = s.lanes := rfl
@[simp] theorem setSlot_codec (s : State) (k : Nat) : (setSlot s k).codec = s.codec := rfl
@[simp] theorem setSlot_cam (s : State) (k : Nat) : (setSlot s k).cam = s.cam := rfl
@[simp] theorem setSlot_cry (s : State) (k : Nat) : (setSlot s k).cry = s.cry := rfl
@[simp] theorem setSlot_sch (s : State) (k : Nat) : (setSlot s k).sch = s.sch := rfl
@[simp] theorem setSlot_drc (s : State) (k : Nat) : (setSlot s k).drc = s.drc := rfl
@[simp] theorem setSlot_stw (s : State) (k : Nat) : (setSlot s k).stw = s.stw := rfl
@[simp] theorem setSlot_therm (s : State) (k : Nat) : (setSlot s k).therm = s.therm := rfl
@[simp] theorem setSlot_cas (s : State) (k : Nat) : (setSlot s k).cas = s.cas := rfl
@[simp] theorem setSlot_tenants_recs (s : State) (k : Nat) : (setSlot s k).tenants.recs = s.tenants.recs := rfl
@[simp] theorem setSlot_tenants_bind (s : State) (k : Nat) : (setSlot s k).tenants.bind = s.tenants.bind := rfl
@[simp] theorem setSlot_tenants_regions (s : State) (k : Nat) : (setSlot s k).tenants.regions = s.tenants.regions := rfl
@[simp] theorem setSlot_tenants_frames (s : State) (k : Nat) : (setSlot s k).tenants.frames = s.tenants.frames := rfl
@[simp] theorem setSlot_tenants_frameNo (s : State) (k : Nat) : (setSlot s k).tenants.frameNo = s.tenants.frameNo := rfl
@[simp] theorem setSlot_tenants_badLines (s : State) (k : Nat) : (setSlot s k).tenants.badLines = s.tenants.badLines := rfl

/-! ### dropProgram -/

@[simp] theorem dropProgram_pending (s : State) (id : Nat) : (dropProgram s id).pending = s.pending := rfl
@[simp] theorem dropProgram_freeCount (s : State) (id : Nat) : (dropProgram s id).freeCount = s.freeCount := rfl
@[simp] theorem dropProgram_bus (s : State) (id : Nat) : (dropProgram s id).bus = s.bus := rfl
@[simp] theorem dropProgram_time (s : State) (id : Nat) : (dropProgram s id).time = s.time := rfl
@[simp] theorem dropProgram_power (s : State) (id : Nat) : (dropProgram s id).power = s.power := rfl
@[simp] theorem dropProgram_media (s : State) (id : Nat) : (dropProgram s id).media = s.media := rfl
@[simp] theorem dropProgram_pcs (s : State) (id : Nat) : (dropProgram s id).pcs = s.pcs := rfl
@[simp] theorem dropProgram_ftl (s : State) (id : Nat) : (dropProgram s id).ftl = s.ftl := rfl
@[simp] theorem dropProgram_etch (s : State) (id : Nat) : (dropProgram s id).etch = s.etch := rfl
@[simp] theorem dropProgram_host (s : State) (id : Nat) : (dropProgram s id).host = s.host := rfl
@[simp] theorem dropProgram_tenants (s : State) (id : Nat) : (dropProgram s id).tenants = s.tenants := rfl
@[simp] theorem dropProgram_lanes (s : State) (id : Nat) : (dropProgram s id).lanes = s.lanes := rfl
@[simp] theorem dropProgram_codec (s : State) (id : Nat) : (dropProgram s id).codec = s.codec := rfl
@[simp] theorem dropProgram_cam (s : State) (id : Nat) : (dropProgram s id).cam = s.cam := rfl
@[simp] theorem dropProgram_cry (s : State) (id : Nat) : (dropProgram s id).cry = s.cry := rfl
@[simp] theorem dropProgram_sch (s : State) (id : Nat) : (dropProgram s id).sch = s.sch := rfl
@[simp] theorem dropProgram_drc (s : State) (id : Nat) : (dropProgram s id).drc = s.drc := rfl
@[simp] theorem dropProgram_stw (s : State) (id : Nat) : (dropProgram s id).stw = s.stw := rfl
@[simp] theorem dropProgram_therm (s : State) (id : Nat) : (dropProgram s id).therm = s.therm := rfl
@[simp] theorem dropProgram_cas (s : State) (id : Nat) : (dropProgram s id).cas = s.cas := rfl
@[simp] theorem dropProgram_chn_slots (s : State) (id : Nat) : (dropProgram s id).chn.slots = s.chn.slots := rfl
@[simp] theorem dropProgram_chn_gens (s : State) (id : Nat) : (dropProgram s id).chn.gens = s.chn.gens := rfl
@[simp] theorem dropProgram_chn_epoch (s : State) (id : Nat) : (dropProgram s id).chn.epoch = s.chn.epoch := rfl
@[simp] theorem dropProgram_chn_freed (s : State) (id : Nat) : (dropProgram s id).chn.freed = s.chn.freed := rfl
@[simp] theorem dropProgram_chn_used (s : State) (id : Nat) : (dropProgram s id).chn.used = s.chn.used := rfl
@[simp] theorem dropProgram_chn_pepoch (s : State) (id : Nat) : (dropProgram s id).chn.pepoch = s.chn.pepoch := rfl
@[simp] theorem dropProgram_chn_pused (s : State) (id : Nat) : (dropProgram s id).chn.pused = s.chn.pused := rfl
@[simp] theorem dropProgram_chn_jobs (s : State) (id : Nat) : (dropProgram s id).chn.jobs = s.chn.jobs := rfl
@[simp] theorem dropProgram_chn_nextJob (s : State) (id : Nat) : (dropProgram s id).chn.nextJob = s.chn.nextJob := rfl
@[simp] theorem dropProgram_chn_drains (s : State) (id : Nat) : (dropProgram s id).chn.drains = s.chn.drains := rfl
@[simp] theorem dropProgram_chn_destroys (s : State) (id : Nat) : (dropProgram s id).chn.destroys = s.chn.destroys := rfl

/-! ### updLane -/

@[simp] theorem updLane_pending (s : State) (l : Nat) (g : Lane → Lane) : (updLane s l g).pending = s.pending := rfl
@[simp] theorem updLane_freeCount (s : State) (l : Nat) (g : Lane → Lane) : (updLane s l g).freeCount = s.freeCount := rfl
@[simp] theorem updLane_bus (s : State) (l : Nat) (g : Lane → Lane) : (updLane s l g).bus = s.bus := rfl
@[simp] theorem updLane_time (s : State) (l : Nat) (g : Lane → Lane) : (updLane s l g).time = s.time := rfl
@[simp] theorem updLane_power (s : State) (l : Nat) (g : Lane → Lane) : (updLane s l g).power = s.power := rfl
@[simp] theorem updLane_media (s : State) (l : Nat) (g : Lane → Lane) : (updLane s l g).media = s.media := rfl
@[simp] theorem updLane_pcs (s : State) (l : Nat) (g : Lane → Lane) : (updLane s l g).pcs = s.pcs := rfl
@[simp] theorem updLane_ftl (s : State) (l : Nat) (g : Lane → Lane) : (updLane s l g).ftl = s.ftl := rfl
@[simp] theorem updLane_etch (s : State) (l : Nat) (g : Lane → Lane) : (updLane s l g).etch = s.etch := rfl
@[simp] theorem updLane_host (s : State) (l : Nat) (g : Lane → Lane) : (updLane s l g).host = s.host := rfl
@[simp] theorem updLane_tenants (s : State) (l : Nat) (g : Lane → Lane) : (updLane s l g).tenants = s.tenants := rfl
@[simp] theorem updLane_chn (s : State) (l : Nat) (g : Lane → Lane) : (updLane s l g).chn = s.chn := rfl
@[simp] theorem updLane_codec (s : State) (l : Nat) (g : Lane → Lane) : (updLane s l g).codec = s.codec := rfl
@[simp] theorem updLane_cam (s : State) (l : Nat) (g : Lane → Lane) : (updLane s l g).cam = s.cam := rfl
@[simp] theorem updLane_cry (s : State) (l : Nat) (g : Lane → Lane) : (updLane s l g).cry = s.cry := rfl
@[simp] theorem updLane_sch (s : State) (l : Nat) (g : Lane → Lane) : (updLane s l g).sch = s.sch := rfl
@[simp] theorem updLane_drc (s : State) (l : Nat) (g : Lane → Lane) : (updLane s l g).drc = s.drc := rfl
@[simp] theorem updLane_stw (s : State) (l : Nat) (g : Lane → Lane) : (updLane s l g).stw = s.stw := rfl
@[simp] theorem updLane_therm (s : State) (l : Nat) (g : Lane → Lane) : (updLane s l g).therm = s.therm := rfl
@[simp] theorem updLane_cas (s : State) (l : Nat) (g : Lane → Lane) : (updLane s l g).cas = s.cas := rfl
@[simp] theorem updLane_lanes_queue (s : State) (l : Nat) (g : Lane → Lane) : (updLane s l g).lanes.queue = s.lanes.queue := rfl
@[simp] theorem updLane_lanes_jobs (s : State) (l : Nat) (g : Lane → Lane) : (updLane s l g).lanes.jobs = s.lanes.jobs := rfl

/-! ### camPut -/

@[simp] theorem camPut_pending (s : State) (i : Nat) (e : CamEntry) : (camPut s i e).pending = s.pending := rfl
@[simp] theorem camPut_freeCount (s : State) (i : Nat) (e : CamEntry) : (camPut s i e).freeCount = s.freeCount := rfl
@[simp] theorem camPut_bus (s : State) (i : Nat) (e : CamEntry) : (camPut s i e).bus = s.bus := rfl
@[simp] theorem camPut_time (s : State) (i : Nat) (e : CamEntry) : (camPut s i e).time = s.time := rfl
@[simp] theorem camPut_power (s : State) (i : Nat) (e : CamEntry) : (camPut s i e).power = s.power := rfl
@[simp] theorem camPut_media (s : State) (i : Nat) (e : CamEntry) : (camPut s i e).media = s.media := rfl
@[simp] theorem camPut_pcs (s : State) (i : Nat) (e : CamEntry) : (camPut s i e).pcs = s.pcs := rfl
@[simp] theorem camPut_ftl (s : State) (i : Nat) (e : CamEntry) : (camPut s i e).ftl = s.ftl := rfl
@[simp] theorem camPut_etch (s : State) (i : Nat) (e : CamEntry) : (camPut s i e).etch = s.etch := rfl
@[simp] theorem camPut_host (s : State) (i : Nat) (e : CamEntry) : (camPut s i e).host = s.host := rfl
@[simp] theorem camPut_tenants (s : State) (i : Nat) (e : CamEntry) : (camPut s i e).tenants = s.tenants := rfl
@[simp] theorem camPut_chn (s : State) (i : Nat) (e : CamEntry) : (camPut s i e).chn = s.chn := rfl
@[simp] theorem camPut_lanes (s : State) (i : Nat) (e : CamEntry) : (camPut s i e).lanes = s.lanes := rfl
@[simp] theorem camPut_codec (s : State) (i : Nat) (e : CamEntry) : (camPut s i e).codec = s.codec := rfl
@[simp] theorem camPut_cry (s : State) (i : Nat) (e : CamEntry) : (camPut s i e).cry = s.cry := rfl
@[simp] theorem camPut_sch (s : State) (i : Nat) (e : CamEntry) : (camPut s i e).sch = s.sch := rfl
@[simp] theorem camPut_drc (s : State) (i : Nat) (e : CamEntry) : (camPut s i e).drc = s.drc := rfl
@[simp] theorem camPut_stw (s : State) (i : Nat) (e : CamEntry) : (camPut s i e).stw = s.stw := rfl
@[simp] theorem camPut_therm (s : State) (i : Nat) (e : CamEntry) : (camPut s i e).therm = s.therm := rfl
@[simp] theorem camPut_cas (s : State) (i : Nat) (e : CamEntry) : (camPut s i e).cas = s.cas := rfl
@[simp] theorem camPut_cam_steps (s : State) (i : Nat) (e : CamEntry) : (camPut s i e).cam.steps = s.cam.steps := rfl
@[simp] theorem camPut_cam_banksOk (s : State) (i : Nat) (e : CamEntry) : (camPut s i e).cam.banksOk = s.cam.banksOk := rfl
@[simp] theorem camPut_cam_epoch (s : State) (i : Nat) (e : CamEntry) : (camPut s i e).cam.epoch = s.cam.epoch := rfl
@[simp] theorem camPut_cam_answer (s : State) (i : Nat) (e : CamEntry) : (camPut s i e).cam.answer = s.cam.answer := rfl
@[simp] theorem camPut_cam_answerBad (s : State) (i : Nat) (e : CamEntry) : (camPut s i e).cam.answerBad = s.cam.answerBad := rfl
@[simp] theorem camPut_cam_matchOut (s : State) (i : Nat) (e : CamEntry) : (camPut s i e).cam.matchOut = s.cam.matchOut := rfl
@[simp] theorem camPut_cam_winner (s : State) (i : Nat) (e : CamEntry) : (camPut s i e).cam.winner = s.cam.winner := rfl
@[simp] theorem camPut_cam_checkedAt (s : State) (i : Nat) (e : CamEntry) : (camPut s i e).cam.checkedAt = s.cam.checkedAt := rfl

/-! ### camValid -/

@[simp] theorem camValid_pending (s : State) (is : List Nat) (v : Bool) : (camValid s is v).pending = s.pending := rfl
@[simp] theorem camValid_freeCount (s : State) (is : List Nat) (v : Bool) : (camValid s is v).freeCount = s.freeCount := rfl
@[simp] theorem camValid_bus (s : State) (is : List Nat) (v : Bool) : (camValid s is v).bus = s.bus := rfl
@[simp] theorem camValid_time (s : State) (is : List Nat) (v : Bool) : (camValid s is v).time = s.time := rfl
@[simp] theorem camValid_power (s : State) (is : List Nat) (v : Bool) : (camValid s is v).power = s.power := rfl
@[simp] theorem camValid_media (s : State) (is : List Nat) (v : Bool) : (camValid s is v).media = s.media := rfl
@[simp] theorem camValid_pcs (s : State) (is : List Nat) (v : Bool) : (camValid s is v).pcs = s.pcs := rfl
@[simp] theorem camValid_ftl (s : State) (is : List Nat) (v : Bool) : (camValid s is v).ftl = s.ftl := rfl
@[simp] theorem camValid_etch (s : State) (is : List Nat) (v : Bool) : (camValid s is v).etch = s.etch := rfl
@[simp] theorem camValid_host (s : State) (is : List Nat) (v : Bool) : (camValid s is v).host = s.host := rfl
@[simp] theorem camValid_tenants (s : State) (is : List Nat) (v : Bool) : (camValid s is v).tenants = s.tenants := rfl
@[simp] theorem camValid_chn (s : State) (is : List Nat) (v : Bool) : (camValid s is v).chn = s.chn := rfl
@[simp] theorem camValid_lanes (s : State) (is : List Nat) (v : Bool) : (camValid s is v).lanes = s.lanes := rfl
@[simp] theorem camValid_codec (s : State) (is : List Nat) (v : Bool) : (camValid s is v).codec = s.codec := rfl
@[simp] theorem camValid_cry (s : State) (is : List Nat) (v : Bool) : (camValid s is v).cry = s.cry := rfl
@[simp] theorem camValid_sch (s : State) (is : List Nat) (v : Bool) : (camValid s is v).sch = s.sch := rfl
@[simp] theorem camValid_drc (s : State) (is : List Nat) (v : Bool) : (camValid s is v).drc = s.drc := rfl
@[simp] theorem camValid_stw (s : State) (is : List Nat) (v : Bool) : (camValid s is v).stw = s.stw := rfl
@[simp] theorem camValid_therm (s : State) (is : List Nat) (v : Bool) : (camValid s is v).therm = s.therm := rfl
@[simp] theorem camValid_cas (s : State) (is : List Nat) (v : Bool) : (camValid s is v).cas = s.cas := rfl
@[simp] theorem camValid_cam_steps (s : State) (is : List Nat) (v : Bool) : (camValid s is v).cam.steps = s.cam.steps := rfl
@[simp] theorem camValid_cam_banksOk (s : State) (is : List Nat) (v : Bool) : (camValid s is v).cam.banksOk = s.cam.banksOk := rfl
@[simp] theorem camValid_cam_epoch (s : State) (is : List Nat) (v : Bool) : (camValid s is v).cam.epoch = s.cam.epoch := rfl
@[simp] theorem camValid_cam_answer (s : State) (is : List Nat) (v : Bool) : (camValid s is v).cam.answer = s.cam.answer := rfl
@[simp] theorem camValid_cam_answerBad (s : State) (is : List Nat) (v : Bool) : (camValid s is v).cam.answerBad = s.cam.answerBad := rfl
@[simp] theorem camValid_cam_matchOut (s : State) (is : List Nat) (v : Bool) : (camValid s is v).cam.matchOut = s.cam.matchOut := rfl
@[simp] theorem camValid_cam_winner (s : State) (is : List Nat) (v : Bool) : (camValid s is v).cam.winner = s.cam.winner := rfl
@[simp] theorem camValid_cam_checkedAt (s : State) (is : List Nat) (v : Bool) : (camValid s is v).cam.checkedAt = s.cam.checkedAt := rfl

/-! ### updSlot -/

@[simp] theorem updSlot_pending (s : State) (slot : Nat) (g : KeySlot → KeySlot) : (updSlot s slot g).pending = s.pending := rfl
@[simp] theorem updSlot_freeCount (s : State) (slot : Nat) (g : KeySlot → KeySlot) : (updSlot s slot g).freeCount = s.freeCount := rfl
@[simp] theorem updSlot_bus (s : State) (slot : Nat) (g : KeySlot → KeySlot) : (updSlot s slot g).bus = s.bus := rfl
@[simp] theorem updSlot_time (s : State) (slot : Nat) (g : KeySlot → KeySlot) : (updSlot s slot g).time = s.time := rfl
@[simp] theorem updSlot_power (s : State) (slot : Nat) (g : KeySlot → KeySlot) : (updSlot s slot g).power = s.power := rfl
@[simp] theorem updSlot_media (s : State) (slot : Nat) (g : KeySlot → KeySlot) : (updSlot s slot g).media = s.media := rfl
@[simp] theorem updSlot_pcs (s : State) (slot : Nat) (g : KeySlot → KeySlot) : (updSlot s slot g).pcs = s.pcs := rfl
@[simp] theorem updSlot_ftl (s : State) (slot : Nat) (g : KeySlot → KeySlot) : (updSlot s slot g).ftl = s.ftl := rfl
@[simp] theorem updSlot_etch (s : State) (slot : Nat) (g : KeySlot → KeySlot) : (updSlot s slot g).etch = s.etch := rfl
@[simp] theorem updSlot_host (s : State) (slot : Nat) (g : KeySlot → KeySlot) : (updSlot s slot g).host = s.host := rfl
@[simp] theorem updSlot_tenants (s : State) (slot : Nat) (g : KeySlot → KeySlot) : (updSlot s slot g).tenants = s.tenants := rfl
@[simp] theorem updSlot_chn (s : State) (slot : Nat) (g : KeySlot → KeySlot) : (updSlot s slot g).chn = s.chn := rfl
@[simp] theorem updSlot_lanes (s : State) (slot : Nat) (g : KeySlot → KeySlot) : (updSlot s slot g).lanes = s.lanes := rfl
@[simp] theorem updSlot_codec (s : State) (slot : Nat) (g : KeySlot → KeySlot) : (updSlot s slot g).codec = s.codec := rfl
@[simp] theorem updSlot_cam (s : State) (slot : Nat) (g : KeySlot → KeySlot) : (updSlot s slot g).cam = s.cam := rfl
@[simp] theorem updSlot_sch (s : State) (slot : Nat) (g : KeySlot → KeySlot) : (updSlot s slot g).sch = s.sch := rfl
@[simp] theorem updSlot_drc (s : State) (slot : Nat) (g : KeySlot → KeySlot) : (updSlot s slot g).drc = s.drc := rfl
@[simp] theorem updSlot_stw (s : State) (slot : Nat) (g : KeySlot → KeySlot) : (updSlot s slot g).stw = s.stw := rfl
@[simp] theorem updSlot_therm (s : State) (slot : Nat) (g : KeySlot → KeySlot) : (updSlot s slot g).therm = s.therm := rfl
@[simp] theorem updSlot_cas (s : State) (slot : Nat) (g : KeySlot → KeySlot) : (updSlot s slot g).cas = s.cas := rfl
@[simp] theorem updSlot_cry_nsKeys (s : State) (slot : Nat) (g : KeySlot → KeySlot) : (updSlot s slot g).cry.nsKeys = s.cry.nsKeys := rfl
@[simp] theorem updSlot_cry_assemblies (s : State) (slot : Nat) (g : KeySlot → KeySlot) : (updSlot s slot g).cry.assemblies = s.cry.assemblies := rfl
@[simp] theorem updSlot_cry_drbgOk (s : State) (slot : Nat) (g : KeySlot → KeySlot) : (updSlot s slot g).cry.drbgOk = s.cry.drbgOk := rfl
@[simp] theorem updSlot_cry_draws (s : State) (slot : Nat) (g : KeySlot → KeySlot) : (updSlot s slot g).cry.draws = s.cry.draws := rfl
@[simp] theorem updSlot_cry_reseedAt (s : State) (slot : Nat) (g : KeySlot → KeySlot) : (updSlot s slot g).cry.reseedAt = s.cry.reseedAt := rfl
@[simp] theorem updSlot_cry_burin (s : State) (slot : Nat) (g : KeySlot → KeySlot) : (updSlot s slot g).cry.burin = s.cry.burin := rfl
@[simp] theorem updSlot_cry_msgs (s : State) (slot : Nat) (g : KeySlot → KeySlot) : (updSlot s slot g).cry.msgs = s.cry.msgs := rfl
@[simp] theorem updSlot_cry_msgOrder (s : State) (slot : Nat) (g : KeySlot → KeySlot) : (updSlot s slot g).cry.msgOrder = s.cry.msgOrder := rfl
@[simp] theorem updSlot_cry_expect (s : State) (slot : Nat) (g : KeySlot → KeySlot) : (updSlot s slot g).cry.expect = s.cry.expect := rfl
@[simp] theorem updSlot_cry_verdicts (s : State) (slot : Nat) (g : KeySlot → KeySlot) : (updSlot s slot g).cry.verdicts = s.cry.verdicts := rfl
@[simp] theorem updSlot_cry_early (s : State) (slot : Nat) (g : KeySlot → KeySlot) : (updSlot s slot g).cry.early = s.cry.early := rfl

/-! ### updBurin -/

@[simp] theorem updBurin_pending (s : State) (i : Nat) (g : Burin → Burin) : (updBurin s i g).pending = s.pending := rfl
@[simp] theorem updBurin_freeCount (s : State) (i : Nat) (g : Burin → Burin) : (updBurin s i g).freeCount = s.freeCount := rfl
@[simp] theorem updBurin_bus (s : State) (i : Nat) (g : Burin → Burin) : (updBurin s i g).bus = s.bus := rfl
@[simp] theorem updBurin_time (s : State) (i : Nat) (g : Burin → Burin) : (updBurin s i g).time = s.time := rfl
@[simp] theorem updBurin_power (s : State) (i : Nat) (g : Burin → Burin) : (updBurin s i g).power = s.power := rfl
@[simp] theorem updBurin_media (s : State) (i : Nat) (g : Burin → Burin) : (updBurin s i g).media = s.media := rfl
@[simp] theorem updBurin_pcs (s : State) (i : Nat) (g : Burin → Burin) : (updBurin s i g).pcs = s.pcs := rfl
@[simp] theorem updBurin_ftl (s : State) (i : Nat) (g : Burin → Burin) : (updBurin s i g).ftl = s.ftl := rfl
@[simp] theorem updBurin_etch (s : State) (i : Nat) (g : Burin → Burin) : (updBurin s i g).etch = s.etch := rfl
@[simp] theorem updBurin_host (s : State) (i : Nat) (g : Burin → Burin) : (updBurin s i g).host = s.host := rfl
@[simp] theorem updBurin_tenants (s : State) (i : Nat) (g : Burin → Burin) : (updBurin s i g).tenants = s.tenants := rfl
@[simp] theorem updBurin_chn (s : State) (i : Nat) (g : Burin → Burin) : (updBurin s i g).chn = s.chn := rfl
@[simp] theorem updBurin_lanes (s : State) (i : Nat) (g : Burin → Burin) : (updBurin s i g).lanes = s.lanes := rfl
@[simp] theorem updBurin_codec (s : State) (i : Nat) (g : Burin → Burin) : (updBurin s i g).codec = s.codec := rfl
@[simp] theorem updBurin_cam (s : State) (i : Nat) (g : Burin → Burin) : (updBurin s i g).cam = s.cam := rfl
@[simp] theorem updBurin_sch (s : State) (i : Nat) (g : Burin → Burin) : (updBurin s i g).sch = s.sch := rfl
@[simp] theorem updBurin_drc (s : State) (i : Nat) (g : Burin → Burin) : (updBurin s i g).drc = s.drc := rfl
@[simp] theorem updBurin_stw (s : State) (i : Nat) (g : Burin → Burin) : (updBurin s i g).stw = s.stw := rfl
@[simp] theorem updBurin_therm (s : State) (i : Nat) (g : Burin → Burin) : (updBurin s i g).therm = s.therm := rfl
@[simp] theorem updBurin_cas (s : State) (i : Nat) (g : Burin → Burin) : (updBurin s i g).cas = s.cas := rfl
@[simp] theorem updBurin_cry_slots (s : State) (i : Nat) (g : Burin → Burin) : (updBurin s i g).cry.slots = s.cry.slots := rfl
@[simp] theorem updBurin_cry_nsKeys (s : State) (i : Nat) (g : Burin → Burin) : (updBurin s i g).cry.nsKeys = s.cry.nsKeys := rfl
@[simp] theorem updBurin_cry_assemblies (s : State) (i : Nat) (g : Burin → Burin) : (updBurin s i g).cry.assemblies = s.cry.assemblies := rfl
@[simp] theorem updBurin_cry_drbgOk (s : State) (i : Nat) (g : Burin → Burin) : (updBurin s i g).cry.drbgOk = s.cry.drbgOk := rfl
@[simp] theorem updBurin_cry_draws (s : State) (i : Nat) (g : Burin → Burin) : (updBurin s i g).cry.draws = s.cry.draws := rfl
@[simp] theorem updBurin_cry_reseedAt (s : State) (i : Nat) (g : Burin → Burin) : (updBurin s i g).cry.reseedAt = s.cry.reseedAt := rfl
@[simp] theorem updBurin_cry_msgs (s : State) (i : Nat) (g : Burin → Burin) : (updBurin s i g).cry.msgs = s.cry.msgs := rfl
@[simp] theorem updBurin_cry_msgOrder (s : State) (i : Nat) (g : Burin → Burin) : (updBurin s i g).cry.msgOrder = s.cry.msgOrder := rfl
@[simp] theorem updBurin_cry_expect (s : State) (i : Nat) (g : Burin → Burin) : (updBurin s i g).cry.expect = s.cry.expect := rfl
@[simp] theorem updBurin_cry_verdicts (s : State) (i : Nat) (g : Burin → Burin) : (updBurin s i g).cry.verdicts = s.cry.verdicts := rfl
@[simp] theorem updBurin_cry_early (s : State) (i : Nat) (g : Burin → Burin) : (updBurin s i g).cry.early = s.cry.early := rfl

/-! ### setMsg -/

@[simp] theorem setMsg_pending (s : State) (o : DgsOwner) (m : Msg) : (setMsg s o m).pending = s.pending := rfl
@[simp] theorem setMsg_freeCount (s : State) (o : DgsOwner) (m : Msg) : (setMsg s o m).freeCount = s.freeCount := rfl
@[simp] theorem setMsg_bus (s : State) (o : DgsOwner) (m : Msg) : (setMsg s o m).bus = s.bus := rfl
@[simp] theorem setMsg_time (s : State) (o : DgsOwner) (m : Msg) : (setMsg s o m).time = s.time := rfl
@[simp] theorem setMsg_power (s : State) (o : DgsOwner) (m : Msg) : (setMsg s o m).power = s.power := rfl
@[simp] theorem setMsg_media (s : State) (o : DgsOwner) (m : Msg) : (setMsg s o m).media = s.media := rfl
@[simp] theorem setMsg_pcs (s : State) (o : DgsOwner) (m : Msg) : (setMsg s o m).pcs = s.pcs := rfl
@[simp] theorem setMsg_ftl (s : State) (o : DgsOwner) (m : Msg) : (setMsg s o m).ftl = s.ftl := rfl
@[simp] theorem setMsg_etch (s : State) (o : DgsOwner) (m : Msg) : (setMsg s o m).etch = s.etch := rfl
@[simp] theorem setMsg_host (s : State) (o : DgsOwner) (m : Msg) : (setMsg s o m).host = s.host := rfl
@[simp] theorem setMsg_tenants (s : State) (o : DgsOwner) (m : Msg) : (setMsg s o m).tenants = s.tenants := rfl
@[simp] theorem setMsg_chn (s : State) (o : DgsOwner) (m : Msg) : (setMsg s o m).chn = s.chn := rfl
@[simp] theorem setMsg_lanes (s : State) (o : DgsOwner) (m : Msg) : (setMsg s o m).lanes = s.lanes := rfl
@[simp] theorem setMsg_codec (s : State) (o : DgsOwner) (m : Msg) : (setMsg s o m).codec = s.codec := rfl
@[simp] theorem setMsg_cam (s : State) (o : DgsOwner) (m : Msg) : (setMsg s o m).cam = s.cam := rfl
@[simp] theorem setMsg_sch (s : State) (o : DgsOwner) (m : Msg) : (setMsg s o m).sch = s.sch := rfl
@[simp] theorem setMsg_drc (s : State) (o : DgsOwner) (m : Msg) : (setMsg s o m).drc = s.drc := rfl
@[simp] theorem setMsg_stw (s : State) (o : DgsOwner) (m : Msg) : (setMsg s o m).stw = s.stw := rfl
@[simp] theorem setMsg_therm (s : State) (o : DgsOwner) (m : Msg) : (setMsg s o m).therm = s.therm := rfl
@[simp] theorem setMsg_cas (s : State) (o : DgsOwner) (m : Msg) : (setMsg s o m).cas = s.cas := rfl
@[simp] theorem setMsg_cry_slots (s : State) (o : DgsOwner) (m : Msg) : (setMsg s o m).cry.slots = s.cry.slots := rfl
@[simp] theorem setMsg_cry_nsKeys (s : State) (o : DgsOwner) (m : Msg) : (setMsg s o m).cry.nsKeys = s.cry.nsKeys := rfl
@[simp] theorem setMsg_cry_assemblies (s : State) (o : DgsOwner) (m : Msg) : (setMsg s o m).cry.assemblies = s.cry.assemblies := rfl
@[simp] theorem setMsg_cry_drbgOk (s : State) (o : DgsOwner) (m : Msg) : (setMsg s o m).cry.drbgOk = s.cry.drbgOk := rfl
@[simp] theorem setMsg_cry_draws (s : State) (o : DgsOwner) (m : Msg) : (setMsg s o m).cry.draws = s.cry.draws := rfl
@[simp] theorem setMsg_cry_reseedAt (s : State) (o : DgsOwner) (m : Msg) : (setMsg s o m).cry.reseedAt = s.cry.reseedAt := rfl
@[simp] theorem setMsg_cry_burin (s : State) (o : DgsOwner) (m : Msg) : (setMsg s o m).cry.burin = s.cry.burin := rfl
@[simp] theorem setMsg_cry_msgOrder (s : State) (o : DgsOwner) (m : Msg) : (setMsg s o m).cry.msgOrder = s.cry.msgOrder := rfl
@[simp] theorem setMsg_cry_expect (s : State) (o : DgsOwner) (m : Msg) : (setMsg s o m).cry.expect = s.cry.expect := rfl
@[simp] theorem setMsg_cry_verdicts (s : State) (o : DgsOwner) (m : Msg) : (setMsg s o m).cry.verdicts = s.cry.verdicts := rfl
@[simp] theorem setMsg_cry_early (s : State) (o : DgsOwner) (m : Msg) : (setMsg s o m).cry.early = s.cry.early := rfl

/-! ### setExpect -/

@[simp] theorem setExpect_pending (s : State) (o : DgsOwner) (b : List Byte) : (setExpect s o b).pending = s.pending := rfl
@[simp] theorem setExpect_freeCount (s : State) (o : DgsOwner) (b : List Byte) : (setExpect s o b).freeCount = s.freeCount := rfl
@[simp] theorem setExpect_bus (s : State) (o : DgsOwner) (b : List Byte) : (setExpect s o b).bus = s.bus := rfl
@[simp] theorem setExpect_time (s : State) (o : DgsOwner) (b : List Byte) : (setExpect s o b).time = s.time := rfl
@[simp] theorem setExpect_power (s : State) (o : DgsOwner) (b : List Byte) : (setExpect s o b).power = s.power := rfl
@[simp] theorem setExpect_media (s : State) (o : DgsOwner) (b : List Byte) : (setExpect s o b).media = s.media := rfl
@[simp] theorem setExpect_pcs (s : State) (o : DgsOwner) (b : List Byte) : (setExpect s o b).pcs = s.pcs := rfl
@[simp] theorem setExpect_ftl (s : State) (o : DgsOwner) (b : List Byte) : (setExpect s o b).ftl = s.ftl := rfl
@[simp] theorem setExpect_etch (s : State) (o : DgsOwner) (b : List Byte) : (setExpect s o b).etch = s.etch := rfl
@[simp] theorem setExpect_host (s : State) (o : DgsOwner) (b : List Byte) : (setExpect s o b).host = s.host := rfl
@[simp] theorem setExpect_tenants (s : State) (o : DgsOwner) (b : List Byte) : (setExpect s o b).tenants = s.tenants := rfl
@[simp] theorem setExpect_chn (s : State) (o : DgsOwner) (b : List Byte) : (setExpect s o b).chn = s.chn := rfl
@[simp] theorem setExpect_lanes (s : State) (o : DgsOwner) (b : List Byte) : (setExpect s o b).lanes = s.lanes := rfl
@[simp] theorem setExpect_codec (s : State) (o : DgsOwner) (b : List Byte) : (setExpect s o b).codec = s.codec := rfl
@[simp] theorem setExpect_cam (s : State) (o : DgsOwner) (b : List Byte) : (setExpect s o b).cam = s.cam := rfl
@[simp] theorem setExpect_sch (s : State) (o : DgsOwner) (b : List Byte) : (setExpect s o b).sch = s.sch := rfl
@[simp] theorem setExpect_drc (s : State) (o : DgsOwner) (b : List Byte) : (setExpect s o b).drc = s.drc := rfl
@[simp] theorem setExpect_stw (s : State) (o : DgsOwner) (b : List Byte) : (setExpect s o b).stw = s.stw := rfl
@[simp] theorem setExpect_therm (s : State) (o : DgsOwner) (b : List Byte) : (setExpect s o b).therm = s.therm := rfl
@[simp] theorem setExpect_cas (s : State) (o : DgsOwner) (b : List Byte) : (setExpect s o b).cas = s.cas := rfl
@[simp] theorem setExpect_cry_slots (s : State) (o : DgsOwner) (b : List Byte) : (setExpect s o b).cry.slots = s.cry.slots := rfl
@[simp] theorem setExpect_cry_nsKeys (s : State) (o : DgsOwner) (b : List Byte) : (setExpect s o b).cry.nsKeys = s.cry.nsKeys := rfl
@[simp] theorem setExpect_cry_assemblies (s : State) (o : DgsOwner) (b : List Byte) : (setExpect s o b).cry.assemblies = s.cry.assemblies := rfl
@[simp] theorem setExpect_cry_drbgOk (s : State) (o : DgsOwner) (b : List Byte) : (setExpect s o b).cry.drbgOk = s.cry.drbgOk := rfl
@[simp] theorem setExpect_cry_draws (s : State) (o : DgsOwner) (b : List Byte) : (setExpect s o b).cry.draws = s.cry.draws := rfl
@[simp] theorem setExpect_cry_reseedAt (s : State) (o : DgsOwner) (b : List Byte) : (setExpect s o b).cry.reseedAt = s.cry.reseedAt := rfl
@[simp] theorem setExpect_cry_burin (s : State) (o : DgsOwner) (b : List Byte) : (setExpect s o b).cry.burin = s.cry.burin := rfl
@[simp] theorem setExpect_cry_msgs (s : State) (o : DgsOwner) (b : List Byte) : (setExpect s o b).cry.msgs = s.cry.msgs := rfl
@[simp] theorem setExpect_cry_msgOrder (s : State) (o : DgsOwner) (b : List Byte) : (setExpect s o b).cry.msgOrder = s.cry.msgOrder := rfl
@[simp] theorem setExpect_cry_verdicts (s : State) (o : DgsOwner) (b : List Byte) : (setExpect s o b).cry.verdicts = s.cry.verdicts := rfl
@[simp] theorem setExpect_cry_early (s : State) (o : DgsOwner) (b : List Byte) : (setExpect s o b).cry.early = s.cry.early := rfl

/-! ### setAssembly -/

@[simp] theorem setAssembly_pending (s : State) (f : Nat) (a : Assembly) : (setAssembly s f a).pending = s.pending := rfl
@[simp] theorem setAssembly_freeCount (s : State) (f : Nat) (a : Assembly) : (setAssembly s f a).freeCount = s.freeCount := rfl
@[simp] theorem setAssembly_bus (s : State) (f : Nat) (a : Assembly) : (setAssembly s f a).bus = s.bus := rfl
@[simp] theorem setAssembly_time (s : State) (f : Nat) (a : Assembly) : (setAssembly s f a).time = s.time := rfl
@[simp] theorem setAssembly_power (s : State) (f : Nat) (a : Assembly) : (setAssembly s f a).power = s.power := rfl
@[simp] theorem setAssembly_media (s : State) (f : Nat) (a : Assembly) : (setAssembly s f a).media = s.media := rfl
@[simp] theorem setAssembly_pcs (s : State) (f : Nat) (a : Assembly) : (setAssembly s f a).pcs = s.pcs := rfl
@[simp] theorem setAssembly_ftl (s : State) (f : Nat) (a : Assembly) : (setAssembly s f a).ftl = s.ftl := rfl
@[simp] theorem setAssembly_etch (s : State) (f : Nat) (a : Assembly) : (setAssembly s f a).etch = s.etch := rfl
@[simp] theorem setAssembly_host (s : State) (f : Nat) (a : Assembly) : (setAssembly s f a).host = s.host := rfl
@[simp] theorem setAssembly_tenants (s : State) (f : Nat) (a : Assembly) : (setAssembly s f a).tenants = s.tenants := rfl
@[simp] theorem setAssembly_chn (s : State) (f : Nat) (a : Assembly) : (setAssembly s f a).chn = s.chn := rfl
@[simp] theorem setAssembly_lanes (s : State) (f : Nat) (a : Assembly) : (setAssembly s f a).lanes = s.lanes := rfl
@[simp] theorem setAssembly_codec (s : State) (f : Nat) (a : Assembly) : (setAssembly s f a).codec = s.codec := rfl
@[simp] theorem setAssembly_cam (s : State) (f : Nat) (a : Assembly) : (setAssembly s f a).cam = s.cam := rfl
@[simp] theorem setAssembly_sch (s : State) (f : Nat) (a : Assembly) : (setAssembly s f a).sch = s.sch := rfl
@[simp] theorem setAssembly_drc (s : State) (f : Nat) (a : Assembly) : (setAssembly s f a).drc = s.drc := rfl
@[simp] theorem setAssembly_stw (s : State) (f : Nat) (a : Assembly) : (setAssembly s f a).stw = s.stw := rfl
@[simp] theorem setAssembly_therm (s : State) (f : Nat) (a : Assembly) : (setAssembly s f a).therm = s.therm := rfl
@[simp] theorem setAssembly_cas (s : State) (f : Nat) (a : Assembly) : (setAssembly s f a).cas = s.cas := rfl
@[simp] theorem setAssembly_cry_slots (s : State) (f : Nat) (a : Assembly) : (setAssembly s f a).cry.slots = s.cry.slots := rfl
@[simp] theorem setAssembly_cry_nsKeys (s : State) (f : Nat) (a : Assembly) : (setAssembly s f a).cry.nsKeys = s.cry.nsKeys := rfl
@[simp] theorem setAssembly_cry_drbgOk (s : State) (f : Nat) (a : Assembly) : (setAssembly s f a).cry.drbgOk = s.cry.drbgOk := rfl
@[simp] theorem setAssembly_cry_draws (s : State) (f : Nat) (a : Assembly) : (setAssembly s f a).cry.draws = s.cry.draws := rfl
@[simp] theorem setAssembly_cry_reseedAt (s : State) (f : Nat) (a : Assembly) : (setAssembly s f a).cry.reseedAt = s.cry.reseedAt := rfl
@[simp] theorem setAssembly_cry_burin (s : State) (f : Nat) (a : Assembly) : (setAssembly s f a).cry.burin = s.cry.burin := rfl
@[simp] theorem setAssembly_cry_msgs (s : State) (f : Nat) (a : Assembly) : (setAssembly s f a).cry.msgs = s.cry.msgs := rfl
@[simp] theorem setAssembly_cry_msgOrder (s : State) (f : Nat) (a : Assembly) : (setAssembly s f a).cry.msgOrder = s.cry.msgOrder := rfl
@[simp] theorem setAssembly_cry_expect (s : State) (f : Nat) (a : Assembly) : (setAssembly s f a).cry.expect = s.cry.expect := rfl
@[simp] theorem setAssembly_cry_verdicts (s : State) (f : Nat) (a : Assembly) : (setAssembly s f a).cry.verdicts = s.cry.verdicts := rfl
@[simp] theorem setAssembly_cry_early (s : State) (f : Nat) (a : Assembly) : (setAssembly s f a).cry.early = s.cry.early := rfl

/-! ### dropAssembly -/

@[simp] theorem dropAssembly_pending (s : State) (f : Nat) : (dropAssembly s f).pending = s.pending := rfl
@[simp] theorem dropAssembly_freeCount (s : State) (f : Nat) : (dropAssembly s f).freeCount = s.freeCount := rfl
@[simp] theorem dropAssembly_bus (s : State) (f : Nat) : (dropAssembly s f).bus = s.bus := rfl
@[simp] theorem dropAssembly_time (s : State) (f : Nat) : (dropAssembly s f).time = s.time := rfl
@[simp] theorem dropAssembly_power (s : State) (f : Nat) : (dropAssembly s f).power = s.power := rfl
@[simp] theorem dropAssembly_media (s : State) (f : Nat) : (dropAssembly s f).media = s.media := rfl
@[simp] theorem dropAssembly_pcs (s : State) (f : Nat) : (dropAssembly s f).pcs = s.pcs := rfl
@[simp] theorem dropAssembly_ftl (s : State) (f : Nat) : (dropAssembly s f).ftl = s.ftl := rfl
@[simp] theorem dropAssembly_etch (s : State) (f : Nat) : (dropAssembly s f).etch = s.etch := rfl
@[simp] theorem dropAssembly_host (s : State) (f : Nat) : (dropAssembly s f).host = s.host := rfl
@[simp] theorem dropAssembly_tenants (s : State) (f : Nat) : (dropAssembly s f).tenants = s.tenants := rfl
@[simp] theorem dropAssembly_chn (s : State) (f : Nat) : (dropAssembly s f).chn = s.chn := rfl
@[simp] theorem dropAssembly_lanes (s : State) (f : Nat) : (dropAssembly s f).lanes = s.lanes := rfl
@[simp] theorem dropAssembly_codec (s : State) (f : Nat) : (dropAssembly s f).codec = s.codec := rfl
@[simp] theorem dropAssembly_cam (s : State) (f : Nat) : (dropAssembly s f).cam = s.cam := rfl
@[simp] theorem dropAssembly_sch (s : State) (f : Nat) : (dropAssembly s f).sch = s.sch := rfl
@[simp] theorem dropAssembly_drc (s : State) (f : Nat) : (dropAssembly s f).drc = s.drc := rfl
@[simp] theorem dropAssembly_stw (s : State) (f : Nat) : (dropAssembly s f).stw = s.stw := rfl
@[simp] theorem dropAssembly_therm (s : State) (f : Nat) : (dropAssembly s f).therm = s.therm := rfl
@[simp] theorem dropAssembly_cas (s : State) (f : Nat) : (dropAssembly s f).cas = s.cas := rfl
@[simp] theorem dropAssembly_cry_slots (s : State) (f : Nat) : (dropAssembly s f).cry.slots = s.cry.slots := rfl
@[simp] theorem dropAssembly_cry_nsKeys (s : State) (f : Nat) : (dropAssembly s f).cry.nsKeys = s.cry.nsKeys := rfl
@[simp] theorem dropAssembly_cry_drbgOk (s : State) (f : Nat) : (dropAssembly s f).cry.drbgOk = s.cry.drbgOk := rfl
@[simp] theorem dropAssembly_cry_draws (s : State) (f : Nat) : (dropAssembly s f).cry.draws = s.cry.draws := rfl
@[simp] theorem dropAssembly_cry_reseedAt (s : State) (f : Nat) : (dropAssembly s f).cry.reseedAt = s.cry.reseedAt := rfl
@[simp] theorem dropAssembly_cry_burin (s : State) (f : Nat) : (dropAssembly s f).cry.burin = s.cry.burin := rfl
@[simp] theorem dropAssembly_cry_msgs (s : State) (f : Nat) : (dropAssembly s f).cry.msgs = s.cry.msgs := rfl
@[simp] theorem dropAssembly_cry_msgOrder (s : State) (f : Nat) : (dropAssembly s f).cry.msgOrder = s.cry.msgOrder := rfl
@[simp] theorem dropAssembly_cry_expect (s : State) (f : Nat) : (dropAssembly s f).cry.expect = s.cry.expect := rfl
@[simp] theorem dropAssembly_cry_verdicts (s : State) (f : Nat) : (dropAssembly s f).cry.verdicts = s.cry.verdicts := rfl
@[simp] theorem dropAssembly_cry_early (s : State) (f : Nat) : (dropAssembly s f).cry.early = s.cry.early := rfl

/-! ### updDesc -/

@[simp] theorem updDesc_pending (s : State) (d : Nat) (g : Desc → Desc) : (updDesc s d g).pending = s.pending := rfl
@[simp] theorem updDesc_freeCount (s : State) (d : Nat) (g : Desc → Desc) : (updDesc s d g).freeCount = s.freeCount := rfl
@[simp] theorem updDesc_bus (s : State) (d : Nat) (g : Desc → Desc) : (updDesc s d g).bus = s.bus := rfl
@[simp] theorem updDesc_time (s : State) (d : Nat) (g : Desc → Desc) : (updDesc s d g).time = s.time := rfl
@[simp] theorem updDesc_power (s : State) (d : Nat) (g : Desc → Desc) : (updDesc s d g).power = s.power := rfl
@[simp] theorem updDesc_media (s : State) (d : Nat) (g : Desc → Desc) : (updDesc s d g).media = s.media := rfl
@[simp] theorem updDesc_pcs (s : State) (d : Nat) (g : Desc → Desc) : (updDesc s d g).pcs = s.pcs := rfl
@[simp] theorem updDesc_ftl (s : State) (d : Nat) (g : Desc → Desc) : (updDesc s d g).ftl = s.ftl := rfl
@[simp] theorem updDesc_etch (s : State) (d : Nat) (g : Desc → Desc) : (updDesc s d g).etch = s.etch := rfl
@[simp] theorem updDesc_host (s : State) (d : Nat) (g : Desc → Desc) : (updDesc s d g).host = s.host := rfl
@[simp] theorem updDesc_tenants (s : State) (d : Nat) (g : Desc → Desc) : (updDesc s d g).tenants = s.tenants := rfl
@[simp] theorem updDesc_chn (s : State) (d : Nat) (g : Desc → Desc) : (updDesc s d g).chn = s.chn := rfl
@[simp] theorem updDesc_lanes (s : State) (d : Nat) (g : Desc → Desc) : (updDesc s d g).lanes = s.lanes := rfl
@[simp] theorem updDesc_codec (s : State) (d : Nat) (g : Desc → Desc) : (updDesc s d g).codec = s.codec := rfl
@[simp] theorem updDesc_cam (s : State) (d : Nat) (g : Desc → Desc) : (updDesc s d g).cam = s.cam := rfl
@[simp] theorem updDesc_cry (s : State) (d : Nat) (g : Desc → Desc) : (updDesc s d g).cry = s.cry := rfl
@[simp] theorem updDesc_drc (s : State) (d : Nat) (g : Desc → Desc) : (updDesc s d g).drc = s.drc := rfl
@[simp] theorem updDesc_stw (s : State) (d : Nat) (g : Desc → Desc) : (updDesc s d g).stw = s.stw := rfl
@[simp] theorem updDesc_therm (s : State) (d : Nat) (g : Desc → Desc) : (updDesc s d g).therm = s.therm := rfl
@[simp] theorem updDesc_cas (s : State) (d : Nat) (g : Desc → Desc) : (updDesc s d g).cas = s.cas := rfl
@[simp] theorem updDesc_sch_queues (s : State) (d : Nat) (g : Desc → Desc) : (updDesc s d g).sch.queues = s.sch.queues := rfl
@[simp] theorem updDesc_sch_skips (s : State) (d : Nat) (g : Desc → Desc) : (updDesc s d g).sch.skips = s.sch.skips := rfl
@[simp] theorem updDesc_sch_cores (s : State) (d : Nat) (g : Desc → Desc) : (updDesc s d g).sch.cores = s.sch.cores := rfl
@[simp] theorem updDesc_sch_flows (s : State) (d : Nat) (g : Desc → Desc) : (updDesc s d g).sch.flows = s.sch.flows := rfl
@[simp] theorem updDesc_sch_cluster (s : State) (d : Nat) (g : Desc → Desc) : (updDesc s d g).sch.cluster = s.sch.cluster := rfl
@[simp] theorem updDesc_sch_locals (s : State) (d : Nat) (g : Desc → Desc) : (updDesc s d g).sch.locals = s.sch.locals := rfl
@[simp] theorem updDesc_sch_codes (s : State) (d : Nat) (g : Desc → Desc) : (updDesc s d g).sch.codes = s.sch.codes := rfl
@[simp] theorem updDesc_sch_created (s : State) (d : Nat) (g : Desc → Desc) : (updDesc s d g).sch.created = s.sch.created := rfl
@[simp] theorem updDesc_sch_sched11 (s : State) (d : Nat) (g : Desc → Desc) : (updDesc s d g).sch.sched11 = s.sch.sched11 := rfl

/-! ### updCore -/

@[simp] theorem updCore_pending (s : State) (c : Nat) (g : Core → Core) : (updCore s c g).pending = s.pending := rfl
@[simp] theorem updCore_freeCount (s : State) (c : Nat) (g : Core → Core) : (updCore s c g).freeCount = s.freeCount := rfl
@[simp] theorem updCore_bus (s : State) (c : Nat) (g : Core → Core) : (updCore s c g).bus = s.bus := rfl
@[simp] theorem updCore_time (s : State) (c : Nat) (g : Core → Core) : (updCore s c g).time = s.time := rfl
@[simp] theorem updCore_power (s : State) (c : Nat) (g : Core → Core) : (updCore s c g).power = s.power := rfl
@[simp] theorem updCore_media (s : State) (c : Nat) (g : Core → Core) : (updCore s c g).media = s.media := rfl
@[simp] theorem updCore_pcs (s : State) (c : Nat) (g : Core → Core) : (updCore s c g).pcs = s.pcs := rfl
@[simp] theorem updCore_ftl (s : State) (c : Nat) (g : Core → Core) : (updCore s c g).ftl = s.ftl := rfl
@[simp] theorem updCore_etch (s : State) (c : Nat) (g : Core → Core) : (updCore s c g).etch = s.etch := rfl
@[simp] theorem updCore_host (s : State) (c : Nat) (g : Core → Core) : (updCore s c g).host = s.host := rfl
@[simp] theorem updCore_tenants (s : State) (c : Nat) (g : Core → Core) : (updCore s c g).tenants = s.tenants := rfl
@[simp] theorem updCore_chn (s : State) (c : Nat) (g : Core → Core) : (updCore s c g).chn = s.chn := rfl
@[simp] theorem updCore_lanes (s : State) (c : Nat) (g : Core → Core) : (updCore s c g).lanes = s.lanes := rfl
@[simp] theorem updCore_codec (s : State) (c : Nat) (g : Core → Core) : (updCore s c g).codec = s.codec := rfl
@[simp] theorem updCore_cam (s : State) (c : Nat) (g : Core → Core) : (updCore s c g).cam = s.cam := rfl
@[simp] theorem updCore_cry (s : State) (c : Nat) (g : Core → Core) : (updCore s c g).cry = s.cry := rfl
@[simp] theorem updCore_drc (s : State) (c : Nat) (g : Core → Core) : (updCore s c g).drc = s.drc := rfl
@[simp] theorem updCore_stw (s : State) (c : Nat) (g : Core → Core) : (updCore s c g).stw = s.stw := rfl
@[simp] theorem updCore_therm (s : State) (c : Nat) (g : Core → Core) : (updCore s c g).therm = s.therm := rfl
@[simp] theorem updCore_cas (s : State) (c : Nat) (g : Core → Core) : (updCore s c g).cas = s.cas := rfl
@[simp] theorem updCore_sch_descs (s : State) (c : Nat) (g : Core → Core) : (updCore s c g).sch.descs = s.sch.descs := rfl
@[simp] theorem updCore_sch_queues (s : State) (c : Nat) (g : Core → Core) : (updCore s c g).sch.queues = s.sch.queues := rfl
@[simp] theorem updCore_sch_skips (s : State) (c : Nat) (g : Core → Core) : (updCore s c g).sch.skips = s.sch.skips := rfl
@[simp] theorem updCore_sch_flows (s : State) (c : Nat) (g : Core → Core) : (updCore s c g).sch.flows = s.sch.flows := rfl
@[simp] theorem updCore_sch_cluster (s : State) (c : Nat) (g : Core → Core) : (updCore s c g).sch.cluster = s.sch.cluster := rfl
@[simp] theorem updCore_sch_locals (s : State) (c : Nat) (g : Core → Core) : (updCore s c g).sch.locals = s.sch.locals := rfl
@[simp] theorem updCore_sch_codes (s : State) (c : Nat) (g : Core → Core) : (updCore s c g).sch.codes = s.sch.codes := rfl
@[simp] theorem updCore_sch_created (s : State) (c : Nat) (g : Core → Core) : (updCore s c g).sch.created = s.sch.created := rfl
@[simp] theorem updCore_sch_sched11 (s : State) (c : Nat) (g : Core → Core) : (updCore s c g).sch.sched11 = s.sch.sched11 := rfl

/-! ### setQueue -/

@[simp] theorem setQueue_pending (s : State) (k : Nat) (q : List Nat) : (setQueue s k q).pending = s.pending := rfl
@[simp] theorem setQueue_freeCount (s : State) (k : Nat) (q : List Nat) : (setQueue s k q).freeCount = s.freeCount := rfl
@[simp] theorem setQueue_bus (s : State) (k : Nat) (q : List Nat) : (setQueue s k q).bus = s.bus := rfl
@[simp] theorem setQueue_time (s : State) (k : Nat) (q : List Nat) : (setQueue s k q).time = s.time := rfl
@[simp] theorem setQueue_power (s : State) (k : Nat) (q : List Nat) : (setQueue s k q).power = s.power := rfl
@[simp] theorem setQueue_media (s : State) (k : Nat) (q : List Nat) : (setQueue s k q).media = s.media := rfl
@[simp] theorem setQueue_pcs (s : State) (k : Nat) (q : List Nat) : (setQueue s k q).pcs = s.pcs := rfl
@[simp] theorem setQueue_ftl (s : State) (k : Nat) (q : List Nat) : (setQueue s k q).ftl = s.ftl := rfl
@[simp] theorem setQueue_etch (s : State) (k : Nat) (q : List Nat) : (setQueue s k q).etch = s.etch := rfl
@[simp] theorem setQueue_host (s : State) (k : Nat) (q : List Nat) : (setQueue s k q).host = s.host := rfl
@[simp] theorem setQueue_tenants (s : State) (k : Nat) (q : List Nat) : (setQueue s k q).tenants = s.tenants := rfl
@[simp] theorem setQueue_chn (s : State) (k : Nat) (q : List Nat) : (setQueue s k q).chn = s.chn := rfl
@[simp] theorem setQueue_lanes (s : State) (k : Nat) (q : List Nat) : (setQueue s k q).lanes = s.lanes := rfl
@[simp] theorem setQueue_codec (s : State) (k : Nat) (q : List Nat) : (setQueue s k q).codec = s.codec := rfl
@[simp] theorem setQueue_cam (s : State) (k : Nat) (q : List Nat) : (setQueue s k q).cam = s.cam := rfl
@[simp] theorem setQueue_cry (s : State) (k : Nat) (q : List Nat) : (setQueue s k q).cry = s.cry := rfl
@[simp] theorem setQueue_drc (s : State) (k : Nat) (q : List Nat) : (setQueue s k q).drc = s.drc := rfl
@[simp] theorem setQueue_stw (s : State) (k : Nat) (q : List Nat) : (setQueue s k q).stw = s.stw := rfl
@[simp] theorem setQueue_therm (s : State) (k : Nat) (q : List Nat) : (setQueue s k q).therm = s.therm := rfl
@[simp] theorem setQueue_cas (s : State) (k : Nat) (q : List Nat) : (setQueue s k q).cas = s.cas := rfl
@[simp] theorem setQueue_sch_descs (s : State) (k : Nat) (q : List Nat) : (setQueue s k q).sch.descs = s.sch.descs := rfl
@[simp] theorem setQueue_sch_skips (s : State) (k : Nat) (q : List Nat) : (setQueue s k q).sch.skips = s.sch.skips := rfl
@[simp] theorem setQueue_sch_cores (s : State) (k : Nat) (q : List Nat) : (setQueue s k q).sch.cores = s.sch.cores := rfl
@[simp] theorem setQueue_sch_flows (s : State) (k : Nat) (q : List Nat) : (setQueue s k q).sch.flows = s.sch.flows := rfl
@[simp] theorem setQueue_sch_cluster (s : State) (k : Nat) (q : List Nat) : (setQueue s k q).sch.cluster = s.sch.cluster := rfl
@[simp] theorem setQueue_sch_locals (s : State) (k : Nat) (q : List Nat) : (setQueue s k q).sch.locals = s.sch.locals := rfl
@[simp] theorem setQueue_sch_codes (s : State) (k : Nat) (q : List Nat) : (setQueue s k q).sch.codes = s.sch.codes := rfl
@[simp] theorem setQueue_sch_created (s : State) (k : Nat) (q : List Nat) : (setQueue s k q).sch.created = s.sch.created := rfl
@[simp] theorem setQueue_sch_sched11 (s : State) (k : Nat) (q : List Nat) : (setQueue s k q).sch.sched11 = s.sch.sched11 := rfl

/-! ### setFlow -/

@[simp] theorem setFlow_pending (s : State) (f : Nat) (x : Flow) : (setFlow s f x).pending = s.pending := rfl
@[simp] theorem setFlow_freeCount (s : State) (f : Nat) (x : Flow) : (setFlow s f x).freeCount = s.freeCount := rfl
@[simp] theorem setFlow_bus (s : State) (f : Nat) (x : Flow) : (setFlow s f x).bus = s.bus := rfl
@[simp] theorem setFlow_time (s : State) (f : Nat) (x : Flow) : (setFlow s f x).time = s.time := rfl
@[simp] theorem setFlow_power (s : State) (f : Nat) (x : Flow) : (setFlow s f x).power = s.power := rfl
@[simp] theorem setFlow_media (s : State) (f : Nat) (x : Flow) : (setFlow s f x).media = s.media := rfl
@[simp] theorem setFlow_pcs (s : State) (f : Nat) (x : Flow) : (setFlow s f x).pcs = s.pcs := rfl
@[simp] theorem setFlow_ftl (s : State) (f : Nat) (x : Flow) : (setFlow s f x).ftl = s.ftl := rfl
@[simp] theorem setFlow_etch (s : State) (f : Nat) (x : Flow) : (setFlow s f x).etch = s.etch := rfl
@[simp] theorem setFlow_host (s : State) (f : Nat) (x : Flow) : (setFlow s f x).host = s.host := rfl
@[simp] theorem setFlow_tenants (s : State) (f : Nat) (x : Flow) : (setFlow s f x).tenants = s.tenants := rfl
@[simp] theorem setFlow_chn (s : State) (f : Nat) (x : Flow) : (setFlow s f x).chn = s.chn := rfl
@[simp] theorem setFlow_lanes (s : State) (f : Nat) (x : Flow) : (setFlow s f x).lanes = s.lanes := rfl
@[simp] theorem setFlow_codec (s : State) (f : Nat) (x : Flow) : (setFlow s f x).codec = s.codec := rfl
@[simp] theorem setFlow_cam (s : State) (f : Nat) (x : Flow) : (setFlow s f x).cam = s.cam := rfl
@[simp] theorem setFlow_cry (s : State) (f : Nat) (x : Flow) : (setFlow s f x).cry = s.cry := rfl
@[simp] theorem setFlow_drc (s : State) (f : Nat) (x : Flow) : (setFlow s f x).drc = s.drc := rfl
@[simp] theorem setFlow_stw (s : State) (f : Nat) (x : Flow) : (setFlow s f x).stw = s.stw := rfl
@[simp] theorem setFlow_therm (s : State) (f : Nat) (x : Flow) : (setFlow s f x).therm = s.therm := rfl
@[simp] theorem setFlow_cas (s : State) (f : Nat) (x : Flow) : (setFlow s f x).cas = s.cas := rfl
@[simp] theorem setFlow_sch_descs (s : State) (f : Nat) (x : Flow) : (setFlow s f x).sch.descs = s.sch.descs := rfl
@[simp] theorem setFlow_sch_queues (s : State) (f : Nat) (x : Flow) : (setFlow s f x).sch.queues = s.sch.queues := rfl
@[simp] theorem setFlow_sch_skips (s : State) (f : Nat) (x : Flow) : (setFlow s f x).sch.skips = s.sch.skips := rfl
@[simp] theorem setFlow_sch_cores (s : State) (f : Nat) (x : Flow) : (setFlow s f x).sch.cores = s.sch.cores := rfl
@[simp] theorem setFlow_sch_cluster (s : State) (f : Nat) (x : Flow) : (setFlow s f x).sch.cluster = s.sch.cluster := rfl
@[simp] theorem setFlow_sch_locals (s : State) (f : Nat) (x : Flow) : (setFlow s f x).sch.locals = s.sch.locals := rfl
@[simp] theorem setFlow_sch_codes (s : State) (f : Nat) (x : Flow) : (setFlow s f x).sch.codes = s.sch.codes := rfl
@[simp] theorem setFlow_sch_created (s : State) (f : Nat) (x : Flow) : (setFlow s f x).sch.created = s.sch.created := rfl
@[simp] theorem setFlow_sch_sched11 (s : State) (f : Nat) (x : Flow) : (setFlow s f x).sch.sched11 = s.sch.sched11 := rfl

/-! ### updArb -/

@[simp] theorem updArb_pending (s : State) (a : Nat) (g : Arb → Arb) : (updArb s a g).pending = s.pending := rfl
@[simp] theorem updArb_freeCount (s : State) (a : Nat) (g : Arb → Arb) : (updArb s a g).freeCount = s.freeCount := rfl
@[simp] theorem updArb_bus (s : State) (a : Nat) (g : Arb → Arb) : (updArb s a g).bus = s.bus := rfl
@[simp] theorem updArb_time (s : State) (a : Nat) (g : Arb → Arb) : (updArb s a g).time = s.time := rfl
@[simp] theorem updArb_power (s : State) (a : Nat) (g : Arb → Arb) : (updArb s a g).power = s.power := rfl
@[simp] theorem updArb_media (s : State) (a : Nat) (g : Arb → Arb) : (updArb s a g).media = s.media := rfl
@[simp] theorem updArb_pcs (s : State) (a : Nat) (g : Arb → Arb) : (updArb s a g).pcs = s.pcs := rfl
@[simp] theorem updArb_ftl (s : State) (a : Nat) (g : Arb → Arb) : (updArb s a g).ftl = s.ftl := rfl
@[simp] theorem updArb_etch (s : State) (a : Nat) (g : Arb → Arb) : (updArb s a g).etch = s.etch := rfl
@[simp] theorem updArb_host (s : State) (a : Nat) (g : Arb → Arb) : (updArb s a g).host = s.host := rfl
@[simp] theorem updArb_tenants (s : State) (a : Nat) (g : Arb → Arb) : (updArb s a g).tenants = s.tenants := rfl
@[simp] theorem updArb_chn (s : State) (a : Nat) (g : Arb → Arb) : (updArb s a g).chn = s.chn := rfl
@[simp] theorem updArb_lanes (s : State) (a : Nat) (g : Arb → Arb) : (updArb s a g).lanes = s.lanes := rfl
@[simp] theorem updArb_codec (s : State) (a : Nat) (g : Arb → Arb) : (updArb s a g).codec = s.codec := rfl
@[simp] theorem updArb_cam (s : State) (a : Nat) (g : Arb → Arb) : (updArb s a g).cam = s.cam := rfl
@[simp] theorem updArb_cry (s : State) (a : Nat) (g : Arb → Arb) : (updArb s a g).cry = s.cry := rfl
@[simp] theorem updArb_sch (s : State) (a : Nat) (g : Arb → Arb) : (updArb s a g).sch = s.sch := rfl
@[simp] theorem updArb_stw (s : State) (a : Nat) (g : Arb → Arb) : (updArb s a g).stw = s.stw := rfl
@[simp] theorem updArb_therm (s : State) (a : Nat) (g : Arb → Arb) : (updArb s a g).therm = s.therm := rfl
@[simp] theorem updArb_cas (s : State) (a : Nat) (g : Arb → Arb) : (updArb s a g).cas = s.cas := rfl
@[simp] theorem updArb_drc_chans (s : State) (a : Nat) (g : Arb → Arb) : (updArb s a g).drc.chans = s.drc.chans := rfl
@[simp] theorem updArb_drc_population (s : State) (a : Nat) (g : Arb → Arb) : (updArb s a g).drc.population = s.drc.population := rfl
@[simp] theorem updArb_drc_dram (s : State) (a : Nat) (g : Arb → Arb) : (updArb s a g).drc.dram = s.drc.dram := rfl

/-! ### updDchan -/

@[simp] theorem updDchan_pending (s : State) (c : Nat) (g : DChan → DChan) : (updDchan s c g).pending = s.pending := rfl
@[simp] theorem updDchan_freeCount (s : State) (c : Nat) (g : DChan → DChan) : (updDchan s c g).freeCount = s.freeCount := rfl
@[simp] theorem updDchan_bus (s : State) (c : Nat) (g : DChan → DChan) : (updDchan s c g).bus = s.bus := rfl
@[simp] theorem updDchan_time (s : State) (c : Nat) (g : DChan → DChan) : (updDchan s c g).time = s.time := rfl
@[simp] theorem updDchan_power (s : State) (c : Nat) (g : DChan → DChan) : (updDchan s c g).power = s.power := rfl
@[simp] theorem updDchan_media (s : State) (c : Nat) (g : DChan → DChan) : (updDchan s c g).media = s.media := rfl
@[simp] theorem updDchan_pcs (s : State) (c : Nat) (g : DChan → DChan) : (updDchan s c g).pcs = s.pcs := rfl
@[simp] theorem updDchan_ftl (s : State) (c : Nat) (g : DChan → DChan) : (updDchan s c g).ftl = s.ftl := rfl
@[simp] theorem updDchan_etch (s : State) (c : Nat) (g : DChan → DChan) : (updDchan s c g).etch = s.etch := rfl
@[simp] theorem updDchan_host (s : State) (c : Nat) (g : DChan → DChan) : (updDchan s c g).host = s.host := rfl
@[simp] theorem updDchan_tenants (s : State) (c : Nat) (g : DChan → DChan) : (updDchan s c g).tenants = s.tenants := rfl
@[simp] theorem updDchan_chn (s : State) (c : Nat) (g : DChan → DChan) : (updDchan s c g).chn = s.chn := rfl
@[simp] theorem updDchan_lanes (s : State) (c : Nat) (g : DChan → DChan) : (updDchan s c g).lanes = s.lanes := rfl
@[simp] theorem updDchan_codec (s : State) (c : Nat) (g : DChan → DChan) : (updDchan s c g).codec = s.codec := rfl
@[simp] theorem updDchan_cam (s : State) (c : Nat) (g : DChan → DChan) : (updDchan s c g).cam = s.cam := rfl
@[simp] theorem updDchan_cry (s : State) (c : Nat) (g : DChan → DChan) : (updDchan s c g).cry = s.cry := rfl
@[simp] theorem updDchan_sch (s : State) (c : Nat) (g : DChan → DChan) : (updDchan s c g).sch = s.sch := rfl
@[simp] theorem updDchan_stw (s : State) (c : Nat) (g : DChan → DChan) : (updDchan s c g).stw = s.stw := rfl
@[simp] theorem updDchan_therm (s : State) (c : Nat) (g : DChan → DChan) : (updDchan s c g).therm = s.therm := rfl
@[simp] theorem updDchan_cas (s : State) (c : Nat) (g : DChan → DChan) : (updDchan s c g).cas = s.cas := rfl
@[simp] theorem updDchan_drc_population (s : State) (c : Nat) (g : DChan → DChan) : (updDchan s c g).drc.population = s.drc.population := rfl
@[simp] theorem updDchan_drc_arbs (s : State) (c : Nat) (g : DChan → DChan) : (updDchan s c g).drc.arbs = s.drc.arbs := rfl
@[simp] theorem updDchan_drc_dram (s : State) (c : Nat) (g : DChan → DChan) : (updDchan s c g).drc.dram = s.drc.dram := rfl

/-! ### updBank -/

@[simp] theorem updBank_pending (s : State) (ch b : Nat) (g : RhBank → RhBank) : (updBank s ch b g).pending = s.pending := rfl
@[simp] theorem updBank_freeCount (s : State) (ch b : Nat) (g : RhBank → RhBank) : (updBank s ch b g).freeCount = s.freeCount := rfl
@[simp] theorem updBank_bus (s : State) (ch b : Nat) (g : RhBank → RhBank) : (updBank s ch b g).bus = s.bus := rfl
@[simp] theorem updBank_time (s : State) (ch b : Nat) (g : RhBank → RhBank) : (updBank s ch b g).time = s.time := rfl
@[simp] theorem updBank_power (s : State) (ch b : Nat) (g : RhBank → RhBank) : (updBank s ch b g).power = s.power := rfl
@[simp] theorem updBank_media (s : State) (ch b : Nat) (g : RhBank → RhBank) : (updBank s ch b g).media = s.media := rfl
@[simp] theorem updBank_pcs (s : State) (ch b : Nat) (g : RhBank → RhBank) : (updBank s ch b g).pcs = s.pcs := rfl
@[simp] theorem updBank_ftl (s : State) (ch b : Nat) (g : RhBank → RhBank) : (updBank s ch b g).ftl = s.ftl := rfl
@[simp] theorem updBank_etch (s : State) (ch b : Nat) (g : RhBank → RhBank) : (updBank s ch b g).etch = s.etch := rfl
@[simp] theorem updBank_host (s : State) (ch b : Nat) (g : RhBank → RhBank) : (updBank s ch b g).host = s.host := rfl
@[simp] theorem updBank_tenants (s : State) (ch b : Nat) (g : RhBank → RhBank) : (updBank s ch b g).tenants = s.tenants := rfl
@[simp] theorem updBank_chn (s : State) (ch b : Nat) (g : RhBank → RhBank) : (updBank s ch b g).chn = s.chn := rfl
@[simp] theorem updBank_lanes (s : State) (ch b : Nat) (g : RhBank → RhBank) : (updBank s ch b g).lanes = s.lanes := rfl
@[simp] theorem updBank_codec (s : State) (ch b : Nat) (g : RhBank → RhBank) : (updBank s ch b g).codec = s.codec := rfl
@[simp] theorem updBank_cam (s : State) (ch b : Nat) (g : RhBank → RhBank) : (updBank s ch b g).cam = s.cam := rfl
@[simp] theorem updBank_cry (s : State) (ch b : Nat) (g : RhBank → RhBank) : (updBank s ch b g).cry = s.cry := rfl
@[simp] theorem updBank_sch (s : State) (ch b : Nat) (g : RhBank → RhBank) : (updBank s ch b g).sch = s.sch := rfl
@[simp] theorem updBank_stw (s : State) (ch b : Nat) (g : RhBank → RhBank) : (updBank s ch b g).stw = s.stw := rfl
@[simp] theorem updBank_therm (s : State) (ch b : Nat) (g : RhBank → RhBank) : (updBank s ch b g).therm = s.therm := rfl
@[simp] theorem updBank_cas (s : State) (ch b : Nat) (g : RhBank → RhBank) : (updBank s ch b g).cas = s.cas := rfl
@[simp] theorem updBank_drc_population (s : State) (ch b : Nat) (g : RhBank → RhBank) : (updBank s ch b g).drc.population = s.drc.population := rfl
@[simp] theorem updBank_drc_arbs (s : State) (ch b : Nat) (g : RhBank → RhBank) : (updBank s ch b g).drc.arbs = s.drc.arbs := rfl
@[simp] theorem updBank_drc_dram (s : State) (ch b : Nat) (g : RhBank → RhBank) : (updBank s ch b g).drc.dram = s.drc.dram := rfl

/-! ### updGroup -/

@[simp] theorem updGroup_pending (s : State) (i : Nat) (g : Group → Group) : (updGroup s i g).pending = s.pending := rfl
@[simp] theorem updGroup_freeCount (s : State) (i : Nat) (g : Group → Group) : (updGroup s i g).freeCount = s.freeCount := rfl
@[simp] theorem updGroup_bus (s : State) (i : Nat) (g : Group → Group) : (updGroup s i g).bus = s.bus := rfl
@[simp] theorem updGroup_time (s : State) (i : Nat) (g : Group → Group) : (updGroup s i g).time = s.time := rfl
@[simp] theorem updGroup_power (s : State) (i : Nat) (g : Group → Group) : (updGroup s i g).power = s.power := rfl
@[simp] theorem updGroup_media (s : State) (i : Nat) (g : Group → Group) : (updGroup s i g).media = s.media := rfl
@[simp] theorem updGroup_pcs (s : State) (i : Nat) (g : Group → Group) : (updGroup s i g).pcs = s.pcs := rfl
@[simp] theorem updGroup_ftl (s : State) (i : Nat) (g : Group → Group) : (updGroup s i g).ftl = s.ftl := rfl
@[simp] theorem updGroup_etch (s : State) (i : Nat) (g : Group → Group) : (updGroup s i g).etch = s.etch := rfl
@[simp] theorem updGroup_host (s : State) (i : Nat) (g : Group → Group) : (updGroup s i g).host = s.host := rfl
@[simp] theorem updGroup_tenants (s : State) (i : Nat) (g : Group → Group) : (updGroup s i g).tenants = s.tenants := rfl
@[simp] theorem updGroup_chn (s : State) (i : Nat) (g : Group → Group) : (updGroup s i g).chn = s.chn := rfl
@[simp] theorem updGroup_lanes (s : State) (i : Nat) (g : Group → Group) : (updGroup s i g).lanes = s.lanes := rfl
@[simp] theorem updGroup_codec (s : State) (i : Nat) (g : Group → Group) : (updGroup s i g).codec = s.codec := rfl
@[simp] theorem updGroup_cam (s : State) (i : Nat) (g : Group → Group) : (updGroup s i g).cam = s.cam := rfl
@[simp] theorem updGroup_cry (s : State) (i : Nat) (g : Group → Group) : (updGroup s i g).cry = s.cry := rfl
@[simp] theorem updGroup_sch (s : State) (i : Nat) (g : Group → Group) : (updGroup s i g).sch = s.sch := rfl
@[simp] theorem updGroup_drc (s : State) (i : Nat) (g : Group → Group) : (updGroup s i g).drc = s.drc := rfl
@[simp] theorem updGroup_therm (s : State) (i : Nat) (g : Group → Group) : (updGroup s i g).therm = s.therm := rfl
@[simp] theorem updGroup_cas (s : State) (i : Nat) (g : Group → Group) : (updGroup s i g).cas = s.cas := rfl

/-! ### updCas -/

@[simp] theorem updCas_pending (s : State) (g : Cas → Cas) : (updCas s g).pending = s.pending := rfl
@[simp] theorem updCas_freeCount (s : State) (g : Cas → Cas) : (updCas s g).freeCount = s.freeCount := rfl
@[simp] theorem updCas_bus (s : State) (g : Cas → Cas) : (updCas s g).bus = s.bus := rfl
@[simp] theorem updCas_time (s : State) (g : Cas → Cas) : (updCas s g).time = s.time := rfl
@[simp] theorem updCas_power (s : State) (g : Cas → Cas) : (updCas s g).power = s.power := rfl
@[simp] theorem updCas_media (s : State) (g : Cas → Cas) : (updCas s g).media = s.media := rfl
@[simp] theorem updCas_pcs (s : State) (g : Cas → Cas) : (updCas s g).pcs = s.pcs := rfl
@[simp] theorem updCas_ftl (s : State) (g : Cas → Cas) : (updCas s g).ftl = s.ftl := rfl
@[simp] theorem updCas_etch (s : State) (g : Cas → Cas) : (updCas s g).etch = s.etch := rfl
@[simp] theorem updCas_host (s : State) (g : Cas → Cas) : (updCas s g).host = s.host := rfl
@[simp] theorem updCas_tenants (s : State) (g : Cas → Cas) : (updCas s g).tenants = s.tenants := rfl
@[simp] theorem updCas_chn (s : State) (g : Cas → Cas) : (updCas s g).chn = s.chn := rfl
@[simp] theorem updCas_lanes (s : State) (g : Cas → Cas) : (updCas s g).lanes = s.lanes := rfl
@[simp] theorem updCas_codec (s : State) (g : Cas → Cas) : (updCas s g).codec = s.codec := rfl
@[simp] theorem updCas_cam (s : State) (g : Cas → Cas) : (updCas s g).cam = s.cam := rfl
@[simp] theorem updCas_cry (s : State) (g : Cas → Cas) : (updCas s g).cry = s.cry := rfl
@[simp] theorem updCas_sch (s : State) (g : Cas → Cas) : (updCas s g).sch = s.sch := rfl
@[simp] theorem updCas_drc (s : State) (g : Cas → Cas) : (updCas s g).drc = s.drc := rfl
@[simp] theorem updCas_stw (s : State) (g : Cas → Cas) : (updCas s g).stw = s.stw := rfl
@[simp] theorem updCas_therm (s : State) (g : Cas → Cas) : (updCas s g).therm = s.therm := rfl

/-! ### updLink -/

@[simp] theorem updLink_pending (s : State) (l : Nat) (g : Link → Link) : (updLink s l g).pending = s.pending := rfl
@[simp] theorem updLink_freeCount (s : State) (l : Nat) (g : Link → Link) : (updLink s l g).freeCount = s.freeCount := rfl
@[simp] theorem updLink_bus (s : State) (l : Nat) (g : Link → Link) : (updLink s l g).bus = s.bus := rfl
@[simp] theorem updLink_time (s : State) (l : Nat) (g : Link → Link) : (updLink s l g).time = s.time := rfl
@[simp] theorem updLink_power (s : State) (l : Nat) (g : Link → Link) : (updLink s l g).power = s.power := rfl
@[simp] theorem updLink_media (s : State) (l : Nat) (g : Link → Link) : (updLink s l g).media = s.media := rfl
@[simp] theorem updLink_pcs (s : State) (l : Nat) (g : Link → Link) : (updLink s l g).pcs = s.pcs := rfl
@[simp] theorem updLink_ftl (s : State) (l : Nat) (g : Link → Link) : (updLink s l g).ftl = s.ftl := rfl
@[simp] theorem updLink_etch (s : State) (l : Nat) (g : Link → Link) : (updLink s l g).etch = s.etch := rfl
@[simp] theorem updLink_host (s : State) (l : Nat) (g : Link → Link) : (updLink s l g).host = s.host := rfl
@[simp] theorem updLink_tenants (s : State) (l : Nat) (g : Link → Link) : (updLink s l g).tenants = s.tenants := rfl
@[simp] theorem updLink_chn (s : State) (l : Nat) (g : Link → Link) : (updLink s l g).chn = s.chn := rfl
@[simp] theorem updLink_lanes (s : State) (l : Nat) (g : Link → Link) : (updLink s l g).lanes = s.lanes := rfl
@[simp] theorem updLink_codec (s : State) (l : Nat) (g : Link → Link) : (updLink s l g).codec = s.codec := rfl
@[simp] theorem updLink_cam (s : State) (l : Nat) (g : Link → Link) : (updLink s l g).cam = s.cam := rfl
@[simp] theorem updLink_cry (s : State) (l : Nat) (g : Link → Link) : (updLink s l g).cry = s.cry := rfl
@[simp] theorem updLink_sch (s : State) (l : Nat) (g : Link → Link) : (updLink s l g).sch = s.sch := rfl
@[simp] theorem updLink_drc (s : State) (l : Nat) (g : Link → Link) : (updLink s l g).drc = s.drc := rfl
@[simp] theorem updLink_stw (s : State) (l : Nat) (g : Link → Link) : (updLink s l g).stw = s.stw := rfl
@[simp] theorem updLink_therm (s : State) (l : Nat) (g : Link → Link) : (updLink s l g).therm = s.therm := rfl
@[simp] theorem updLink_cas_roleCode (s : State) (l : Nat) (g : Link → Link) : (updLink s l g).cas.roleCode = s.cas.roleCode := rfl
@[simp] theorem updLink_cas_pos (s : State) (l : Nat) (g : Link → Link) : (updLink s l g).cas.pos = s.cas.pos := rfl
@[simp] theorem updLink_cas_count (s : State) (l : Nat) (g : Link → Link) : (updLink s l g).cas.count = s.cas.count := rfl
@[simp] theorem updLink_cas_conflict (s : State) (l : Nat) (g : Link → Link) : (updLink s l g).cas.conflict = s.cas.conflict := rfl
@[simp] theorem updLink_cas_ready (s : State) (l : Nat) (g : Link → Link) : (updLink s l g).cas.ready = s.cas.ready := rfl
@[simp] theorem updLink_cas_opened (s : State) (l : Nat) (g : Link → Link) : (updLink s l g).cas.opened = s.cas.opened := rfl
@[simp] theorem updLink_cas_startAt (s : State) (l : Nat) (g : Link → Link) : (updLink s l g).cas.startAt = s.cas.startAt := rfl
@[simp] theorem updLink_cas_settled (s : State) (l : Nat) (g : Link → Link) : (updLink s l g).cas.settled = s.cas.settled := rfl
@[simp] theorem updLink_cas_roles (s : State) (l : Nat) (g : Link → Link) : (updLink s l g).cas.roles = s.cas.roles := rfl
@[simp] theorem updLink_cas_serials (s : State) (l : Nat) (g : Link → Link) : (updLink s l g).cas.serials = s.cas.serials := rfl
@[simp] theorem updLink_cas_dupPos (s : State) (l : Nat) (g : Link → Link) : (updLink s l g).cas.dupPos = s.cas.dupPos := rfl
@[simp] theorem updLink_cas_chainFault (s : State) (l : Nat) (g : Link → Link) : (updLink s l g).cas.chainFault = s.cas.chainFault := rfl
@[simp] theorem updLink_cas_heard (s : State) (l : Nat) (g : Link → Link) : (updLink s l g).cas.heard = s.cas.heard := rfl
@[simp] theorem updLink_cas_stages (s : State) (l : Nat) (g : Link → Link) : (updLink s l g).cas.stages = s.cas.stages := rfl
@[simp] theorem updLink_cas_topo (s : State) (l : Nat) (g : Link → Link) : (updLink s l g).cas.topo = s.cas.topo := rfl
@[simp] theorem updLink_cas_recvSeq (s : State) (l : Nat) (g : Link → Link) : (updLink s l g).cas.recvSeq = s.cas.recvSeq := rfl
@[simp] theorem updLink_cas_heldFlits (s : State) (l : Nat) (g : Link → Link) : (updLink s l g).cas.heldFlits = s.cas.heldFlits := rfl
@[simp] theorem updLink_cas_delivered (s : State) (l : Nat) (g : Link → Link) : (updLink s l g).cas.delivered = s.cas.delivered := rfl
@[simp] theorem updLink_cas_tcbQueue (s : State) (l : Nat) (g : Link → Link) : (updLink s l g).cas.tcbQueue = s.cas.tcbQueue := rfl
@[simp] theorem updLink_cas_remote (s : State) (l : Nat) (g : Link → Link) : (updLink s l g).cas.remote = s.cas.remote := rfl
@[simp] theorem updLink_cas_rmtResult (s : State) (l : Nat) (g : Link → Link) : (updLink s l g).cas.rmtResult = s.cas.rmtResult := rfl
@[simp] theorem updLink_cas_joining (s : State) (l : Nat) (g : Link → Link) : (updLink s l g).cas.joining = s.cas.joining := rfl
@[simp] theorem updLink_cas_lost (s : State) (l : Nat) (g : Link → Link) : (updLink s l g).cas.lost = s.cas.lost := rfl

/-! ### raiseIf -/

@[simp] theorem raiseIf_pending (s : State) (c : Bool) (off bit : Nat) : (raiseIf c s off bit).pending = s.pending := by unfold raiseIf; split <;> rfl
@[simp] theorem raiseIf_freeCount (s : State) (c : Bool) (off bit : Nat) : (raiseIf c s off bit).freeCount = s.freeCount := by unfold raiseIf; split <;> rfl
@[simp] theorem raiseIf_time (s : State) (c : Bool) (off bit : Nat) : (raiseIf c s off bit).time = s.time := by unfold raiseIf; split <;> rfl
@[simp] theorem raiseIf_power (s : State) (c : Bool) (off bit : Nat) : (raiseIf c s off bit).power = s.power := by unfold raiseIf; split <;> rfl
@[simp] theorem raiseIf_media (s : State) (c : Bool) (off bit : Nat) : (raiseIf c s off bit).media = s.media := by unfold raiseIf; split <;> rfl
@[simp] theorem raiseIf_pcs (s : State) (c : Bool) (off bit : Nat) : (raiseIf c s off bit).pcs = s.pcs := by unfold raiseIf; split <;> rfl
@[simp] theorem raiseIf_ftl (s : State) (c : Bool) (off bit : Nat) : (raiseIf c s off bit).ftl = s.ftl := by unfold raiseIf; split <;> rfl
@[simp] theorem raiseIf_etch (s : State) (c : Bool) (off bit : Nat) : (raiseIf c s off bit).etch = s.etch := by unfold raiseIf; split <;> rfl
@[simp] theorem raiseIf_host (s : State) (c : Bool) (off bit : Nat) : (raiseIf c s off bit).host = s.host := by unfold raiseIf; split <;> rfl
@[simp] theorem raiseIf_tenants (s : State) (c : Bool) (off bit : Nat) : (raiseIf c s off bit).tenants = s.tenants := by unfold raiseIf; split <;> rfl
@[simp] theorem raiseIf_chn (s : State) (c : Bool) (off bit : Nat) : (raiseIf c s off bit).chn = s.chn := by unfold raiseIf; split <;> rfl
@[simp] theorem raiseIf_lanes (s : State) (c : Bool) (off bit : Nat) : (raiseIf c s off bit).lanes = s.lanes := by unfold raiseIf; split <;> rfl
@[simp] theorem raiseIf_codec (s : State) (c : Bool) (off bit : Nat) : (raiseIf c s off bit).codec = s.codec := by unfold raiseIf; split <;> rfl
@[simp] theorem raiseIf_cam (s : State) (c : Bool) (off bit : Nat) : (raiseIf c s off bit).cam = s.cam := by unfold raiseIf; split <;> rfl
@[simp] theorem raiseIf_cry (s : State) (c : Bool) (off bit : Nat) : (raiseIf c s off bit).cry = s.cry := by unfold raiseIf; split <;> rfl
@[simp] theorem raiseIf_sch (s : State) (c : Bool) (off bit : Nat) : (raiseIf c s off bit).sch = s.sch := by unfold raiseIf; split <;> rfl
@[simp] theorem raiseIf_drc (s : State) (c : Bool) (off bit : Nat) : (raiseIf c s off bit).drc = s.drc := by unfold raiseIf; split <;> rfl
@[simp] theorem raiseIf_stw (s : State) (c : Bool) (off bit : Nat) : (raiseIf c s off bit).stw = s.stw := by unfold raiseIf; split <;> rfl
@[simp] theorem raiseIf_therm (s : State) (c : Bool) (off bit : Nat) : (raiseIf c s off bit).therm = s.therm := by unfold raiseIf; split <;> rfl
@[simp] theorem raiseIf_cas (s : State) (c : Bool) (off bit : Nat) : (raiseIf c s off bit).cas = s.cas := by unfold raiseIf; split <;> rfl

/-! ### updJob -/

@[simp] theorem updJob_pending (s : State) (j : Nat) (g : Job → Job) : (updJob s j g).pending = s.pending := by unfold updJob; split <;> rfl
@[simp] theorem updJob_freeCount (s : State) (j : Nat) (g : Job → Job) : (updJob s j g).freeCount = s.freeCount := by unfold updJob; split <;> rfl
@[simp] theorem updJob_bus (s : State) (j : Nat) (g : Job → Job) : (updJob s j g).bus = s.bus := by unfold updJob; split <;> rfl
@[simp] theorem updJob_time (s : State) (j : Nat) (g : Job → Job) : (updJob s j g).time = s.time := by unfold updJob; split <;> rfl
@[simp] theorem updJob_power (s : State) (j : Nat) (g : Job → Job) : (updJob s j g).power = s.power := by unfold updJob; split <;> rfl
@[simp] theorem updJob_media (s : State) (j : Nat) (g : Job → Job) : (updJob s j g).media = s.media := by unfold updJob; split <;> rfl
@[simp] theorem updJob_pcs (s : State) (j : Nat) (g : Job → Job) : (updJob s j g).pcs = s.pcs := by unfold updJob; split <;> rfl
@[simp] theorem updJob_ftl (s : State) (j : Nat) (g : Job → Job) : (updJob s j g).ftl = s.ftl := by unfold updJob; split <;> rfl
@[simp] theorem updJob_etch (s : State) (j : Nat) (g : Job → Job) : (updJob s j g).etch = s.etch := by unfold updJob; split <;> rfl
@[simp] theorem updJob_host (s : State) (j : Nat) (g : Job → Job) : (updJob s j g).host = s.host := by unfold updJob; split <;> rfl
@[simp] theorem updJob_tenants (s : State) (j : Nat) (g : Job → Job) : (updJob s j g).tenants = s.tenants := by unfold updJob; split <;> rfl
@[simp] theorem updJob_lanes (s : State) (j : Nat) (g : Job → Job) : (updJob s j g).lanes = s.lanes := by unfold updJob; split <;> rfl
@[simp] theorem updJob_codec (s : State) (j : Nat) (g : Job → Job) : (updJob s j g).codec = s.codec := by unfold updJob; split <;> rfl
@[simp] theorem updJob_cam (s : State) (j : Nat) (g : Job → Job) : (updJob s j g).cam = s.cam := by unfold updJob; split <;> rfl
@[simp] theorem updJob_cry (s : State) (j : Nat) (g : Job → Job) : (updJob s j g).cry = s.cry := by unfold updJob; split <;> rfl
@[simp] theorem updJob_sch (s : State) (j : Nat) (g : Job → Job) : (updJob s j g).sch = s.sch := by unfold updJob; split <;> rfl
@[simp] theorem updJob_drc (s : State) (j : Nat) (g : Job → Job) : (updJob s j g).drc = s.drc := by unfold updJob; split <;> rfl
@[simp] theorem updJob_stw (s : State) (j : Nat) (g : Job → Job) : (updJob s j g).stw = s.stw := by unfold updJob; split <;> rfl
@[simp] theorem updJob_therm (s : State) (j : Nat) (g : Job → Job) : (updJob s j g).therm = s.therm := by unfold updJob; split <;> rfl
@[simp] theorem updJob_cas (s : State) (j : Nat) (g : Job → Job) : (updJob s j g).cas = s.cas := by unfold updJob; split <;> rfl

/-! ### updChannel -/

@[simp] theorem updChannel_pending (s : State) (i : Nat) (g : Channel → Channel) : (updChannel s i g).pending = s.pending := by unfold updChannel; split <;> rfl
@[simp] theorem updChannel_freeCount (s : State) (i : Nat) (g : Channel → Channel) : (updChannel s i g).freeCount = s.freeCount := by unfold updChannel; split <;> rfl
@[simp] theorem updChannel_bus (s : State) (i : Nat) (g : Channel → Channel) : (updChannel s i g).bus = s.bus := by unfold updChannel; split <;> rfl
@[simp] theorem updChannel_time (s : State) (i : Nat) (g : Channel → Channel) : (updChannel s i g).time = s.time := by unfold updChannel; split <;> rfl
@[simp] theorem updChannel_power (s : State) (i : Nat) (g : Channel → Channel) : (updChannel s i g).power = s.power := by unfold updChannel; split <;> rfl
@[simp] theorem updChannel_media (s : State) (i : Nat) (g : Channel → Channel) : (updChannel s i g).media = s.media := by unfold updChannel; split <;> rfl
@[simp] theorem updChannel_pcs (s : State) (i : Nat) (g : Channel → Channel) : (updChannel s i g).pcs = s.pcs := by unfold updChannel; split <;> rfl
@[simp] theorem updChannel_ftl (s : State) (i : Nat) (g : Channel → Channel) : (updChannel s i g).ftl = s.ftl := by unfold updChannel; split <;> rfl
@[simp] theorem updChannel_etch (s : State) (i : Nat) (g : Channel → Channel) : (updChannel s i g).etch = s.etch := by unfold updChannel; split <;> rfl
@[simp] theorem updChannel_host (s : State) (i : Nat) (g : Channel → Channel) : (updChannel s i g).host = s.host := by unfold updChannel; split <;> rfl
@[simp] theorem updChannel_tenants (s : State) (i : Nat) (g : Channel → Channel) : (updChannel s i g).tenants = s.tenants := by unfold updChannel; split <;> rfl
@[simp] theorem updChannel_lanes (s : State) (i : Nat) (g : Channel → Channel) : (updChannel s i g).lanes = s.lanes := by unfold updChannel; split <;> rfl
@[simp] theorem updChannel_codec (s : State) (i : Nat) (g : Channel → Channel) : (updChannel s i g).codec = s.codec := by unfold updChannel; split <;> rfl
@[simp] theorem updChannel_cam (s : State) (i : Nat) (g : Channel → Channel) : (updChannel s i g).cam = s.cam := by unfold updChannel; split <;> rfl
@[simp] theorem updChannel_cry (s : State) (i : Nat) (g : Channel → Channel) : (updChannel s i g).cry = s.cry := by unfold updChannel; split <;> rfl
@[simp] theorem updChannel_sch (s : State) (i : Nat) (g : Channel → Channel) : (updChannel s i g).sch = s.sch := by unfold updChannel; split <;> rfl
@[simp] theorem updChannel_drc (s : State) (i : Nat) (g : Channel → Channel) : (updChannel s i g).drc = s.drc := by unfold updChannel; split <;> rfl
@[simp] theorem updChannel_stw (s : State) (i : Nat) (g : Channel → Channel) : (updChannel s i g).stw = s.stw := by unfold updChannel; split <;> rfl
@[simp] theorem updChannel_therm (s : State) (i : Nat) (g : Channel → Channel) : (updChannel s i g).therm = s.therm := by unfold updChannel; split <;> rfl
@[simp] theorem updChannel_cas (s : State) (i : Nat) (g : Channel → Channel) : (updChannel s i g).cas = s.cas := by unfold updChannel; split <;> rfl

/-! ### updMsg -/

@[simp] theorem updMsg_pending (s : State) (o : DgsOwner) (g : Msg → Msg) : (updMsg s o g).pending = s.pending := by unfold updMsg; split <;> rfl
@[simp] theorem updMsg_freeCount (s : State) (o : DgsOwner) (g : Msg → Msg) : (updMsg s o g).freeCount = s.freeCount := by unfold updMsg; split <;> rfl
@[simp] theorem updMsg_bus (s : State) (o : DgsOwner) (g : Msg → Msg) : (updMsg s o g).bus = s.bus := by unfold updMsg; split <;> rfl
@[simp] theorem updMsg_time (s : State) (o : DgsOwner) (g : Msg → Msg) : (updMsg s o g).time = s.time := by unfold updMsg; split <;> rfl
@[simp] theorem updMsg_power (s : State) (o : DgsOwner) (g : Msg → Msg) : (updMsg s o g).power = s.power := by unfold updMsg; split <;> rfl
@[simp] theorem updMsg_media (s : State) (o : DgsOwner) (g : Msg → Msg) : (updMsg s o g).media = s.media := by unfold updMsg; split <;> rfl
@[simp] theorem updMsg_pcs (s : State) (o : DgsOwner) (g : Msg → Msg) : (updMsg s o g).pcs = s.pcs := by unfold updMsg; split <;> rfl
@[simp] theorem updMsg_ftl (s : State) (o : DgsOwner) (g : Msg → Msg) : (updMsg s o g).ftl = s.ftl := by unfold updMsg; split <;> rfl
@[simp] theorem updMsg_etch (s : State) (o : DgsOwner) (g : Msg → Msg) : (updMsg s o g).etch = s.etch := by unfold updMsg; split <;> rfl
@[simp] theorem updMsg_host (s : State) (o : DgsOwner) (g : Msg → Msg) : (updMsg s o g).host = s.host := by unfold updMsg; split <;> rfl
@[simp] theorem updMsg_tenants (s : State) (o : DgsOwner) (g : Msg → Msg) : (updMsg s o g).tenants = s.tenants := by unfold updMsg; split <;> rfl
@[simp] theorem updMsg_chn (s : State) (o : DgsOwner) (g : Msg → Msg) : (updMsg s o g).chn = s.chn := by unfold updMsg; split <;> rfl
@[simp] theorem updMsg_lanes (s : State) (o : DgsOwner) (g : Msg → Msg) : (updMsg s o g).lanes = s.lanes := by unfold updMsg; split <;> rfl
@[simp] theorem updMsg_codec (s : State) (o : DgsOwner) (g : Msg → Msg) : (updMsg s o g).codec = s.codec := by unfold updMsg; split <;> rfl
@[simp] theorem updMsg_cam (s : State) (o : DgsOwner) (g : Msg → Msg) : (updMsg s o g).cam = s.cam := by unfold updMsg; split <;> rfl
@[simp] theorem updMsg_sch (s : State) (o : DgsOwner) (g : Msg → Msg) : (updMsg s o g).sch = s.sch := by unfold updMsg; split <;> rfl
@[simp] theorem updMsg_drc (s : State) (o : DgsOwner) (g : Msg → Msg) : (updMsg s o g).drc = s.drc := by unfold updMsg; split <;> rfl
@[simp] theorem updMsg_stw (s : State) (o : DgsOwner) (g : Msg → Msg) : (updMsg s o g).stw = s.stw := by unfold updMsg; split <;> rfl
@[simp] theorem updMsg_therm (s : State) (o : DgsOwner) (g : Msg → Msg) : (updMsg s o g).therm = s.therm := by unfold updMsg; split <;> rfl
@[simp] theorem updMsg_cas (s : State) (o : DgsOwner) (g : Msg → Msg) : (updMsg s o g).cas = s.cas := by unfold updMsg; split <;> rfl

/-! ### updNsKey -/

@[simp] theorem updNsKey_pending (s : State) (n : Nat) (k : Namespace) (g : KeySlot → KeySlot) : (updNsKey s n k g).pending = s.pending := by unfold updNsKey; split <;> first | rfl | (split <;> rfl)
@[simp] theorem updNsKey_freeCount (s : State) (n : Nat) (k : Namespace) (g : KeySlot → KeySlot) : (updNsKey s n k g).freeCount = s.freeCount := by unfold updNsKey; split <;> first | rfl | (split <;> rfl)
@[simp] theorem updNsKey_bus (s : State) (n : Nat) (k : Namespace) (g : KeySlot → KeySlot) : (updNsKey s n k g).bus = s.bus := by unfold updNsKey; split <;> first | rfl | (split <;> rfl)
@[simp] theorem updNsKey_time (s : State) (n : Nat) (k : Namespace) (g : KeySlot → KeySlot) : (updNsKey s n k g).time = s.time := by unfold updNsKey; split <;> first | rfl | (split <;> rfl)
@[simp] theorem updNsKey_power (s : State) (n : Nat) (k : Namespace) (g : KeySlot → KeySlot) : (updNsKey s n k g).power = s.power := by unfold updNsKey; split <;> first | rfl | (split <;> rfl)
@[simp] theorem updNsKey_media (s : State) (n : Nat) (k : Namespace) (g : KeySlot → KeySlot) : (updNsKey s n k g).media = s.media := by unfold updNsKey; split <;> first | rfl | (split <;> rfl)
@[simp] theorem updNsKey_pcs (s : State) (n : Nat) (k : Namespace) (g : KeySlot → KeySlot) : (updNsKey s n k g).pcs = s.pcs := by unfold updNsKey; split <;> first | rfl | (split <;> rfl)
@[simp] theorem updNsKey_ftl (s : State) (n : Nat) (k : Namespace) (g : KeySlot → KeySlot) : (updNsKey s n k g).ftl = s.ftl := by unfold updNsKey; split <;> first | rfl | (split <;> rfl)
@[simp] theorem updNsKey_etch (s : State) (n : Nat) (k : Namespace) (g : KeySlot → KeySlot) : (updNsKey s n k g).etch = s.etch := by unfold updNsKey; split <;> first | rfl | (split <;> rfl)
@[simp] theorem updNsKey_host (s : State) (n : Nat) (k : Namespace) (g : KeySlot → KeySlot) : (updNsKey s n k g).host = s.host := by unfold updNsKey; split <;> first | rfl | (split <;> rfl)
@[simp] theorem updNsKey_tenants (s : State) (n : Nat) (k : Namespace) (g : KeySlot → KeySlot) : (updNsKey s n k g).tenants = s.tenants := by unfold updNsKey; split <;> first | rfl | (split <;> rfl)
@[simp] theorem updNsKey_chn (s : State) (n : Nat) (k : Namespace) (g : KeySlot → KeySlot) : (updNsKey s n k g).chn = s.chn := by unfold updNsKey; split <;> first | rfl | (split <;> rfl)
@[simp] theorem updNsKey_lanes (s : State) (n : Nat) (k : Namespace) (g : KeySlot → KeySlot) : (updNsKey s n k g).lanes = s.lanes := by unfold updNsKey; split <;> first | rfl | (split <;> rfl)
@[simp] theorem updNsKey_codec (s : State) (n : Nat) (k : Namespace) (g : KeySlot → KeySlot) : (updNsKey s n k g).codec = s.codec := by unfold updNsKey; split <;> first | rfl | (split <;> rfl)
@[simp] theorem updNsKey_cam (s : State) (n : Nat) (k : Namespace) (g : KeySlot → KeySlot) : (updNsKey s n k g).cam = s.cam := by unfold updNsKey; split <;> first | rfl | (split <;> rfl)
@[simp] theorem updNsKey_sch (s : State) (n : Nat) (k : Namespace) (g : KeySlot → KeySlot) : (updNsKey s n k g).sch = s.sch := by unfold updNsKey; split <;> first | rfl | (split <;> rfl)
@[simp] theorem updNsKey_drc (s : State) (n : Nat) (k : Namespace) (g : KeySlot → KeySlot) : (updNsKey s n k g).drc = s.drc := by unfold updNsKey; split <;> first | rfl | (split <;> rfl)
@[simp] theorem updNsKey_stw (s : State) (n : Nat) (k : Namespace) (g : KeySlot → KeySlot) : (updNsKey s n k g).stw = s.stw := by unfold updNsKey; split <;> first | rfl | (split <;> rfl)
@[simp] theorem updNsKey_therm (s : State) (n : Nat) (k : Namespace) (g : KeySlot → KeySlot) : (updNsKey s n k g).therm = s.therm := by unfold updNsKey; split <;> first | rfl | (split <;> rfl)
@[simp] theorem updNsKey_cas (s : State) (n : Nat) (k : Namespace) (g : KeySlot → KeySlot) : (updNsKey s n k g).cas = s.cas := by unfold updNsKey; split <;> first | rfl | (split <;> rfl)

/-! ### writeLoc -/

@[simp] theorem writeLoc_pending (s : State) (l : WLoc) (w : W36) : (writeLoc s l w).pending = s.pending := by unfold writeLoc; split <;> rfl
@[simp] theorem writeLoc_freeCount (s : State) (l : WLoc) (w : W36) : (writeLoc s l w).freeCount = s.freeCount := by unfold writeLoc; split <;> rfl
@[simp] theorem writeLoc_bus (s : State) (l : WLoc) (w : W36) : (writeLoc s l w).bus = s.bus := by unfold writeLoc; split <;> rfl
@[simp] theorem writeLoc_time (s : State) (l : WLoc) (w : W36) : (writeLoc s l w).time = s.time := by unfold writeLoc; split <;> rfl
@[simp] theorem writeLoc_power (s : State) (l : WLoc) (w : W36) : (writeLoc s l w).power = s.power := by unfold writeLoc; split <;> rfl
@[simp] theorem writeLoc_media (s : State) (l : WLoc) (w : W36) : (writeLoc s l w).media = s.media := by unfold writeLoc; split <;> rfl
@[simp] theorem writeLoc_pcs (s : State) (l : WLoc) (w : W36) : (writeLoc s l w).pcs = s.pcs := by unfold writeLoc; split <;> rfl
@[simp] theorem writeLoc_ftl (s : State) (l : WLoc) (w : W36) : (writeLoc s l w).ftl = s.ftl := by unfold writeLoc; split <;> rfl
@[simp] theorem writeLoc_etch (s : State) (l : WLoc) (w : W36) : (writeLoc s l w).etch = s.etch := by unfold writeLoc; split <;> rfl
@[simp] theorem writeLoc_host (s : State) (l : WLoc) (w : W36) : (writeLoc s l w).host = s.host := by unfold writeLoc; split <;> rfl
@[simp] theorem writeLoc_tenants (s : State) (l : WLoc) (w : W36) : (writeLoc s l w).tenants = s.tenants := by unfold writeLoc; split <;> rfl
@[simp] theorem writeLoc_chn (s : State) (l : WLoc) (w : W36) : (writeLoc s l w).chn = s.chn := by unfold writeLoc; split <;> rfl
@[simp] theorem writeLoc_lanes (s : State) (l : WLoc) (w : W36) : (writeLoc s l w).lanes = s.lanes := by unfold writeLoc; split <;> rfl
@[simp] theorem writeLoc_codec (s : State) (l : WLoc) (w : W36) : (writeLoc s l w).codec = s.codec := by unfold writeLoc; split <;> rfl
@[simp] theorem writeLoc_cam (s : State) (l : WLoc) (w : W36) : (writeLoc s l w).cam = s.cam := by unfold writeLoc; split <;> rfl
@[simp] theorem writeLoc_cry (s : State) (l : WLoc) (w : W36) : (writeLoc s l w).cry = s.cry := by unfold writeLoc; split <;> rfl
@[simp] theorem writeLoc_drc (s : State) (l : WLoc) (w : W36) : (writeLoc s l w).drc = s.drc := by unfold writeLoc; split <;> rfl
@[simp] theorem writeLoc_stw (s : State) (l : WLoc) (w : W36) : (writeLoc s l w).stw = s.stw := by unfold writeLoc; split <;> rfl
@[simp] theorem writeLoc_therm (s : State) (l : WLoc) (w : W36) : (writeLoc s l w).therm = s.therm := by unfold writeLoc; split <;> rfl
@[simp] theorem writeLoc_cas (s : State) (l : WLoc) (w : W36) : (writeLoc s l w).cas = s.cas := by unfold writeLoc; split <;> rfl

/-! ### addWork -/

@[simp] theorem addWork_pending (s : State) (w : Work) : (addWork s w).pending = s.pending := by unfold addWork; split <;> rfl
@[simp] theorem addWork_freeCount (s : State) (w : Work) : (addWork s w).freeCount = s.freeCount := by unfold addWork; split <;> rfl
@[simp] theorem addWork_bus (s : State) (w : Work) : (addWork s w).bus = s.bus := by unfold addWork; split <;> rfl
@[simp] theorem addWork_time (s : State) (w : Work) : (addWork s w).time = s.time := by unfold addWork; split <;> rfl
@[simp] theorem addWork_power (s : State) (w : Work) : (addWork s w).power = s.power := by unfold addWork; split <;> rfl
@[simp] theorem addWork_media (s : State) (w : Work) : (addWork s w).media = s.media := by unfold addWork; split <;> rfl
@[simp] theorem addWork_pcs (s : State) (w : Work) : (addWork s w).pcs = s.pcs := by unfold addWork; split <;> rfl
@[simp] theorem addWork_etch (s : State) (w : Work) : (addWork s w).etch = s.etch := by unfold addWork; split <;> rfl
@[simp] theorem addWork_host (s : State) (w : Work) : (addWork s w).host = s.host := by unfold addWork; split <;> rfl
@[simp] theorem addWork_tenants (s : State) (w : Work) : (addWork s w).tenants = s.tenants := by unfold addWork; split <;> rfl
@[simp] theorem addWork_chn (s : State) (w : Work) : (addWork s w).chn = s.chn := by unfold addWork; split <;> rfl
@[simp] theorem addWork_lanes (s : State) (w : Work) : (addWork s w).lanes = s.lanes := by unfold addWork; split <;> rfl
@[simp] theorem addWork_codec (s : State) (w : Work) : (addWork s w).codec = s.codec := by unfold addWork; split <;> rfl
@[simp] theorem addWork_cam (s : State) (w : Work) : (addWork s w).cam = s.cam := by unfold addWork; split <;> rfl
@[simp] theorem addWork_cry (s : State) (w : Work) : (addWork s w).cry = s.cry := by unfold addWork; split <;> rfl
@[simp] theorem addWork_sch (s : State) (w : Work) : (addWork s w).sch = s.sch := by unfold addWork; split <;> rfl
@[simp] theorem addWork_drc (s : State) (w : Work) : (addWork s w).drc = s.drc := by unfold addWork; split <;> rfl
@[simp] theorem addWork_stw (s : State) (w : Work) : (addWork s w).stw = s.stw := by unfold addWork; split <;> rfl
@[simp] theorem addWork_therm (s : State) (w : Work) : (addWork s w).therm = s.therm := by unfold addWork; split <;> rfl
@[simp] theorem addWork_cas (s : State) (w : Work) : (addWork s w).cas = s.cas := by unfold addWork; split <;> rfl

end Sys2Proof.Machine
end

