-- ==== Sys2Proof/Laws/Ops.lean ====
section
/-! SUPPORT. What the shared operations on registers, event registers and tables can do: each is read back, and what it does not
name stays; and how they keep the canonical form of the state. -/

namespace Sys2Proof.Machine

open Sys2Proof.Safety

/-! ### Registers -/

/-- A register's value depends on the stored values alone. -/
theorem regAt_congr {s t : State} (h : t.bus.active = s.bus.active) (k : Nat) : regAt t k = regAt s k := by
  simp [regAt, h]

theorem regAt_setReg_same (s : State) (k : Nat) (v : Dword) (h : tabWf s.bus.active = true) : regAt (setReg s k v) k = v :=
  tabAt_set_same _ _ k v h

/-- A key that is not written reads as before, whatever the defaults of the two keys. -/
theorem tabAt_set_elsewhere (d e : Dword) (t : List (Nat × Dword)) (k i : Nat) (v : Dword) (h : i ≠ k) :
    tabAt e (tabSet d t k v) i = tabAt e t i := by
  unfold tabSet
  split
  · simp [tabAt, tabGet_del_other t k i h]
  · exact tabAt_put_other e t k i v h

theorem regAt_setReg_other (s : State) (k i : Nat) (v : Dword) (h : i ≠ k) : regAt (setReg s k v) i = regAt s i :=
  tabAt_set_elsewhere _ _ _ k i v h

@[simp] theorem regAt_raiseBits (s : State) (off k : Nat) (bits : List Nat) : regAt (raiseBits s off bits) k = regAt s k := rfl
@[simp] theorem regAt_raise (s : State) (off bit k : Nat) : regAt (raise s off bit) k = regAt s k := rfl
@[simp] theorem regAt_takeFree (s : State) (k : Nat) : regAt (takeFree s) k = regAt s k := rfl
@[simp] theorem regAt_updDesc (s : State) (d k : Nat) (g : Desc → Desc) : regAt (updDesc s d g) k = regAt s k := rfl
@[simp] theorem regAt_updCtrl (s : State) (f k : Nat) (g : Ctrl → Ctrl) : regAt (updCtrl s f g) k = regAt s k := rfl
@[simp] theorem regAt_answerRead (s : State) (p : Path) (v : Dword) (k : Nat) : regAt (answerRead s p v) k = regAt s k := rfl

/-! ### Event registers -/

theorem rsqAt_raiseBits_same (s : State) (off : Nat) (bits : List Nat) :
    rsqAt (raiseBits s off bits) off = rsqSet (rsqAt s off) bits := by
  simp [rsqAt, raiseBits, tabUpd, tabAt, tabGet_put_same]

theorem rsqAt_raiseBits_other (s : State) (off i : Nat) (bits : List Nat) (h : i ≠ off) :
    rsqAt (raiseBits s off bits) i = rsqAt s i := by
  simp [rsqAt, raiseBits, tabUpd, tabAt, tabGet_put_other _ _ _ _ h]

theorem rsqAt_raise_same (s : State) (off bit : Nat) : rsqAt (raise s off bit) off = rsqSet (rsqAt s off) [bit] :=
  rsqAt_raiseBits_same s off [bit]

theorem rsqAt_raise_other (s : State) (off bit i : Nat) (h : i ≠ off) : rsqAt (raise s off bit) i = rsqAt s i :=
  rsqAt_raiseBits_other s off i [bit] h

@[simp] theorem rsqAt_setReg (s : State) (k off : Nat) (v : Dword) : rsqAt (setReg s k v) off = rsqAt s off := rfl
@[simp] theorem rsqAt_takeFree (s : State) (off : Nat) : rsqAt (takeFree s) off = rsqAt s off := rfl
@[simp] theorem now_setReg (s : State) (k : Nat) (v : Dword) : now (setReg s k v) = now s := rfl
@[simp] theorem now_raise (s : State) (off bit : Nat) : now (raise s off bit) = now s := rfl
@[simp] theorem now_takeFree (s : State) : now (takeFree s) = now s := rfl

/-! ### Keyed parts of the state -/

theorem coreAt_updCore_same (s : State) (c : Nat) (g : Core → Core) : coreAt (updCore s c g) c = g (coreAt s c) := by
  simp [coreAt, updCore, tabUpd, tabAt, tabGet_put_same]
theorem coreAt_updCore_other (s : State) (c i : Nat) (g : Core → Core) (h : i ≠ c) : coreAt (updCore s c g) i = coreAt s i := by
  simp [coreAt, updCore, tabUpd, tabAt, tabGet_put_other _ _ _ _ h]
theorem ctrlAt_updCtrl_same (s : State) (f : Nat) (g : Ctrl → Ctrl) : ctrlAt (updCtrl s f g) f = g (ctrlAt s f) := by
  simp [ctrlAt, updCtrl, tabUpd, tabAt, tabGet_put_same]
theorem ctrlAt_updCtrl_other (s : State) (f i : Nat) (g : Ctrl → Ctrl) (h : i ≠ f) : ctrlAt (updCtrl s f g) i = ctrlAt s i := by
  simp [ctrlAt, updCtrl, tabUpd, tabAt, tabGet_put_other _ _ _ _ h]
theorem linkAt_updLink_same (s : State) (l : Nat) (g : Link → Link) : linkAt (updLink s l g) l = g (linkAt s l) := by
  simp [linkAt, updLink, updCas, tabUpd, tabAt, tabGet_put_same]
theorem linkAt_updLink_other (s : State) (l i : Nat) (g : Link → Link) (h : i ≠ l) : linkAt (updLink s l g) i = linkAt s i := by
  simp [linkAt, updLink, updCas, tabUpd, tabAt, tabGet_put_other _ _ _ _ h]
theorem arbAt_updArb_same (s : State) (a : Nat) (g : Arb → Arb) : arbAt (updArb s a g) a = g (arbAt s a) := by
  simp [arbAt, updArb, tabUpd, tabAt, tabGet_put_same]
theorem arbAt_updArb_other (s : State) (a i : Nat) (g : Arb → Arb) (h : i ≠ a) : arbAt (updArb s a g) i = arbAt s i := by
  simp [arbAt, updArb, tabUpd, tabAt, tabGet_put_other _ _ _ _ h]
theorem chanAt_updChan_same (s : State) (n : Nat) (g : Chan → Chan) : chanAt (updChan s n g) n = g (chanAt s n) := by
  simp [chanAt, updChan, tabUpd, tabAt, tabGet_put_same]
theorem chanAt_updChan_other (s : State) (n i : Nat) (g : Chan → Chan) (h : i ≠ n) : chanAt (updChan s n g) i = chanAt s i := by
  simp [chanAt, updChan, tabUpd, tabAt, tabGet_put_other _ _ _ _ h]
theorem groupAt_updGroup_same (s : State) (n : Nat) (g : Group → Group) : groupAt (updGroup s n g) n = g (groupAt s n) := by
  simp [groupAt, updGroup, tabUpd, tabAt, tabGet_put_same]
theorem groupAt_updGroup_other (s : State) (n i : Nat) (g : Group → Group) (h : i ≠ n) : groupAt (updGroup s n g) i = groupAt s i := by
  simp [groupAt, updGroup, tabUpd, tabAt, tabGet_put_other _ _ _ _ h]

/-! ### The canonical form -/

/-- An entry of a table after a write is an old one or the one written. -/
theorem mem_tabPut {α : Type} (t : List (Nat × α)) (k : Nat) (v : α) (e : Nat × α) (h : e ∈ tabPut t k v) : e ∈ t ∨ e = (k, v) := by
  induction t with
  | nil => exact .inr (by simpa [tabPut] using h)
  | cons f t ih =>
    obtain ⟨j, w⟩ := f
    simp only [tabPut] at h
    split at h
    · rcases List.mem_cons.mp h with h | h
      · exact .inr h
      · exact .inl h
    · split at h
      · rcases List.mem_cons.mp h with h | h
        · exact .inr h
        · exact .inl (List.mem_cons_of_mem _ h)
      · rcases List.mem_cons.mp h with h | h
        · exact .inl (h ▸ List.mem_cons_self)
        · rcases ih h with h | h
          · exact .inl (List.mem_cons_of_mem _ h)
          · exact .inr h

/-- What is found in a table is one of its entries. -/
theorem mem_of_tabGet {α : Type} (t : List (Nat × α)) (k : Nat) (v : α) (h : tabGet t k = some v) : (k, v) ∈ t := by
  induction t with
  | nil => cases h
  | cons e t ih =>
    obtain ⟨j, w⟩ := e
    simp only [tabGet] at h
    split at h
    · rename_i hj
      cases h
      exact hj ▸ List.mem_cons_self
    · exact List.mem_cons_of_mem _ (ih h)

/-- A property of every value of a table stays under an update that keeps it. -/
theorem all_tabUpd {α : Type} {P : α → Prop} (d : α) (t : List (Nat × α)) (k : Nat) (f : α → α) (h : ∀ e ∈ t, P e.2)
    (hd : P d) (hf : ∀ x, P x → P (f x)) : ∀ e ∈ tabUpd d t k f, P e.2 := by
  intro e he
  rcases mem_tabPut _ _ _ _ he with h1 | rfl
  · exact h e h1
  · apply hf
    unfold tabAt
    cases hg : tabGet t k with
    | none => exact hd
    | some v => exact h _ (mem_of_tabGet t k v hg)

/-- Values changed and keys kept: the table keeps its form. -/
theorem risesFrom_map {α : Type} (f : Nat × α → Nat × α) (hf : ∀ e, (f e).1 = e.1) (t : List (Nat × α)) (lo : Nat)
    (h : risesFrom lo t = true) : risesFrom lo (t.map f) = true := by
  induction t generalizing lo with
  | nil => rfl
  | cons e t ih =>
    obtain ⟨j, w⟩ := e
    have hj := hf (j, w)
    simp only [risesFrom, Bool.and_eq_true] at h
    simp only [List.map_cons]
    cases hfe : f (j, w) with
    | mk a b =>
      rw [hfe] at hj
      simp only at hj
      subst hj
      simp only [risesFrom, Bool.and_eq_true]
      exact ⟨h.1, ih _ h.2⟩

theorem tabWf_rsqSet_bits (q : BitVec 8) (bs : List Nat) (t : List (Nat × BitVec 8)) (h : tabWf t = true) :
    tabWf (bs.foldl (fun t b => tabPut t b q) t) = true := by
  induction bs generalizing t with
  | nil => exact h
  | cons b bs ih => exact ih _ (tabWf_put t b q h)

theorem canonical_setReg {s : State} (k : Nat) (v : Dword) (h : canonical s) : canonical (setReg s k v) :=
  ⟨h.1, h.2.1, tabWf_set _ _ k v h.2.2.1, h.2.2.2⟩

theorem canonical_setRegFld {s : State} (k lo w n : Nat) (h : canonical s) : canonical (setRegFld s k lo w n) := canonical_setReg k _ h

theorem canonical_raiseBits {s : State} (off : Nat) (bits : List Nat) (h : canonical s) : canonical (raiseBits s off bits) := by
  obtain ⟨h1, h2, h3, h4, h5, h6⟩ := h
  refine ⟨h1, h2, h3, h4, ?_, h6⟩
  refine all_tabUpd (P := fun r : Rsq => tabWf r.bits = true) {} s.bus.rsq off (rsqSet · bits) h5 rfl ?_
  intro r hr
  refine tabWf_rsqSet_bits _ bits _ (risesFrom_map _ ?_ r.bits 0 hr)
  intro e
  split <;> rfl

theorem canonical_raise {s : State} (off bit : Nat) (h : canonical s) : canonical (raise s off bit) := canonical_raiseBits off [bit] h

theorem canonical_raiseIf {s : State} (c : Bool) (off bit : Nat) (h : canonical s) : canonical (raiseIf c s off bit) := by
  unfold raiseIf
  split
  · exact canonical_raise off bit h
  · exact h

theorem canonical_dropGuard {s : State} (p : Path) (h : canonical s) : canonical (dropGuard s p) := by
  obtain ⟨h1, h2, h3, h4, h5⟩ := h
  exact ⟨h1, h2, h3, tabWf_del _ _ h4, h5⟩

theorem canonical_updCtrl {s : State} (f : Nat) (g : Ctrl → Ctrl) (h : canonical s)
    (hg : ∀ k : Ctrl, tabWf k.cqs = true → tabWf (g k).cqs = true) : canonical (updCtrl s f g) := by
  obtain ⟨a1, a2, a3, a4, a5, a6, a7, a8, a9, a10, a11, a12, a13, a14, rest⟩ := h
  exact ⟨a1, a2, a3, a4, a5, a6, a7, a8, a9, a10, a11, a12, a13,
    all_tabUpd (P := fun k : Ctrl => tabWf k.cqs = true) {} s.host.ctrls f g a14 rfl hg, rest⟩

theorem canonical_updArb {s : State} (a : Nat) (g : Arb → Arb) (h : canonical s)
    (hg : ∀ x : Arb, tabWf x.grants = true → tabWf (g x).grants = true) : canonical (updArb s a g) := by
  obtain ⟨a1, a2, a3, a4, a5, a6, a7, a8, a9, a10, a11, a12, a13, a14, a15, a16, a17, a18, a19, a20, rest⟩ := h
  exact ⟨a1, a2, a3, a4, a5, a6, a7, a8, a9, a10, a11, a12, a13, a14, a15, a16, a17, a18, a19,
    all_tabUpd (P := fun x : Arb => tabWf x.grants = true) {} s.drc.arbs a g a20 rfl hg, rest⟩

theorem canonical_updLink {s : State} (l : Nat) (g : Link → Link) (h : canonical s) : canonical (updLink s l g) := by
  obtain ⟨a1, a2, a3, a4, a5, a6, a7, a8, a9, a10, a11, a12, a13, a14, a15, a16, a17, a18, a19, a20, a21, rest⟩ := h
  exact ⟨a1, a2, a3, a4, a5, a6, a7, a8, a9, a10, a11, a12, a13, a14, a15, a16, a17, a18, a19, a20, tabWf_upd _ _ _ _ a21, rest⟩

theorem canonical_updDesc {s : State} (d : Nat) (g : Desc → Desc) (h : canonical s)
    (hg : ∀ x : Desc, tabWf x.g = true → tabWf (g x).g = true) : canonical (updDesc s d g) := by
  obtain ⟨a1, a2, a3, a4, a5, a6, a7, a8, a9, a10, a11, a12, a13, a14, a15, a16, a17, a18, a19, a20, a21, a22, a23, a24, a25, a26, a27⟩ := h
  exact ⟨a1, a2, a3, a4, a5, a6, a7, a8, a9, a10, a11, a12, a13, a14, a15, a16, a17, a18, a19, a20, a21, tabWf_upd _ _ _ _ a22,
    a23, a24, a25, all_tabUpd (P := fun x : Desc => tabWf x.g = true) {} s.sch.descs d g a26 rfl hg, a27⟩

theorem canonical_setFlow {s : State} (f : Nat) (x : Flow) (h : canonical s) : canonical (setFlow s f x) := by
  obtain ⟨a1, a2, a3, a4, a5, a6, a7, a8, a9, a10, a11, a12, a13, a14, a15, a16, a17, a18, a19, a20, a21, a22, a23, rest⟩ := h
  exact ⟨a1, a2, a3, a4, a5, a6, a7, a8, a9, a10, a11, a12, a13, a14, a15, a16, a17, a18, a19, a20, a21, a22, tabWf_set _ _ _ _ a23, rest⟩

theorem canonical_writeLoc {s : State} (l : WLoc) (w : W36) (h : canonical s) : canonical (writeLoc s l w) := by
  obtain ⟨a1, a2, a3, a4, a5, a6, a7, a8, a9, a10, a11, a12, a13, a14, a15, a16, a17, a18, a19, a20, a21, a22, a23, a24, a25, rest⟩ := h
  unfold writeLoc
  split
  · exact ⟨a1, a2, a3, a4, a5, a6, a7, a8, a9, a10, a11, a12, a13, a14, a15, a16, a17, a18, a19, a20, a21, a22, a23, a24,
      tabWf_set _ _ _ _ a25, rest⟩
  · exact ⟨a1, a2, a3, a4, a5, a6, a7, a8, a9, a10, a11, a12, a13, a14, a15, a16, a17, a18, a19, a20, a21, a22, a23,
      tabWf_set _ _ _ _ a24, a25, rest⟩
  · exact ⟨a1, a2, a3, a4, a5, a6, a7, a8, a9, a10, a11, a12, a13, a14, a15, a16, a17, a18, a19, a20, a21, a22, a23, a24, a25, rest⟩

/-! Updates of parts that `canonical` does not name keep it. -/

theorem canonical_answerRead {s : State} (p : Path) (v : Dword) (h : canonical s) : canonical (answerRead s p v) := h
theorem canonical_setWaiting {s : State} (p : Path) (l : List Arrived) (h : canonical s) : canonical (setWaiting s p l) := h
theorem canonical_setLate {s : State} (p : Path) (l : List Arrived) (h : canonical s) : canonical (setLate s p l) := h
theorem canonical_holdRwb {s : State} (p : Path) (off : Nat) (v : Dword) (h : canonical s) : canonical (holdRwb s p off v) := h
theorem canonical_dropPends {s : State} (lo hi : Nat) (h : canonical s) : canonical (dropPends s lo hi) := h
theorem canonical_takeFree {s : State} (h : canonical s) : canonical (takeFree s) := h
theorem canonical_takeFrees {s : State} (n : Nat) (h : canonical s) : canonical (takeFrees s n) := h
theorem canonical_takeDraw {s : State} (h : canonical s) : canonical (takeDraw s) := h
theorem canonical_updChan {s : State} (n : Nat) (g : Chan → Chan) (h : canonical s) : canonical (updChan s n g) := h
theorem canonical_updDie {s : State} (die : Nat) (g : Die → Die) (h : canonical s) : canonical (updDie s die g) := h
theorem canonical_updBlock {s : State} (k : Nat) (g : BlockRec → BlockRec) (h : canonical s) : canonical (updBlock s k g) := h
theorem canonical_queueRec {s : State} (type : Nat) (es : List JEntry) (h : canonical s) : canonical (queueRec s type es) := h
theorem canonical_updCmd {s : State} (id : CmdId) (g : ExecCmd → ExecCmd) (h : canonical s) : canonical (updCmd s id g) := h
theorem canonical_dropCmds {s : State} (p : CmdId → Bool) (h : canonical s) : canonical (dropCmds s p) := h
theorem canonical_dropLink {s : State} (port : Nat) (h : canonical s) : canonical (dropLink s port) := h
theorem canonical_setReservation {s : State} (nsid : Nat) (r : Reservation) (h : canonical s) : canonical (setReservation s nsid r) := h
theorem canonical_updTenant {s : State} (t : Nat) (g : Tenant → Tenant) (h : canonical s) : canonical (updTenant s t g) := h
theorem canonical_setSlot {s : State} (k : Nat) (h : canonical s) : canonical (setSlot s k) := h
theorem canonical_updLane {s : State} (l : Nat) (g : Lane → Lane) (h : canonical s) : canonical (updLane s l g) := h
theorem canonical_updSlot {s : State} (slot : Nat) (g : KeySlot → KeySlot) (h : canonical s) : canonical (updSlot s slot g) := h
theorem canonical_updBurin {s : State} (i : Nat) (g : Burin → Burin) (h : canonical s) : canonical (updBurin s i g) := h
theorem canonical_setMsg {s : State} (o : DgsOwner) (m : Msg) (h : canonical s) : canonical (setMsg s o m) := h
theorem canonical_setExpect {s : State} (o : DgsOwner) (b : List Byte) (h : canonical s) : canonical (setExpect s o b) := h
theorem canonical_updCore {s : State} (c : Nat) (g : Core → Core) (h : canonical s) : canonical (updCore s c g) := h
theorem canonical_setQueue {s : State} (k : Nat) (q : List Nat) (h : canonical s) : canonical (setQueue s k q) := h
theorem canonical_updDchan {s : State} (c : Nat) (g : DChan → DChan) (h : canonical s) : canonical (updDchan s c g) := h
theorem canonical_updBank {s : State} (ch b : Nat) (g : RhBank → RhBank) (h : canonical s) : canonical (updBank s ch b g) := h
theorem canonical_updGroup {s : State} (i : Nat) (g : Group → Group) (h : canonical s) : canonical (updGroup s i g) := h

end Sys2Proof.Machine
end

