-- ==== Sys2Proof/Tests/Slice0.lean ====
section
/-! SUPPORT. Tests of fixed values, from words and rules of the manual, and a witness for the hypotheses of every statement
of Certificates/Slice0/Obligations.lean. -/

namespace Sys2Proof.Tests

open Sys2Proof.Machine
open Sys2Proof.Safety

/-! ### Threads -/

/-- Quiet where the thread's core has no preemption waiting. -/
theorem quiet_of_core {s : State} {t c : Nat} (h : coreRunning s t = some c) (hp : (coreAt s c).pend = false) : quiet s t := by
  intro d hd
  rw [h] at hd
  obtain rfl := Option.some.inj hd
  simp [hp]

/-- Thread 0 in supervisor mode on core 0, with the given registers. -/
def sup (x : Desc) : State :=
  { State.reset with sch := { descs := [(0, x)], cores := [(0, { run := some 0 })] } }

/-- A supervisor thread's registers: PC 200h, SP 1000h, and G1 to G4 7, −1 of quality 9h, 2^31 and a NaN. -/
def supDesc : Desc :=
  { st := 2, sup := true, pc := 0x200, sp := 0x1000, fl := 0x100,
    g := [(1, mkW 0 7), (2, mkW 9 0xFFFFFFFF), (3, mkW 0 0x80000000), (4, mkW 0 0x7FC00000)] }

/-- A stage on island 0 with 64 words of CODE, DATA and STACK, an output buffer of 16 bytes and window 2 on region 1. -/
def stage0 : ImStage :=
  { prog := 0, island := 0, codeBase := 0, codeLen := 64, dataBase := 64, dataLen := 64, stackLen := 64, stackBases := [128, 192],
    outCap := 16, exactOut := false, out := [], windows := [(2, 1, true)], descs := [0, 1], limitMs := 0, coreUs := 0,
    regions := [], done := false }

/-- Job 0 of tenant 1, item 5, with 20 bytes of input. -/
def job0 : Job :=
  { cmd := { fn := 0, qid := 1, cid := 1 }, slot := 0, head := 0, tenant := 1, desc := {}, item := 5,
    input := [1, 2, 3, 4, 5, 6, 7, 8, 9, 10, 11, 12, 13, 14, 15, 16, 17, 18, 19, 20], im := some stage0 }

/-- Program 0 of tenant 1. -/
def prog0 : Program := { tenant := 1, kind := 0, gen := 1, image := [], loaded := 0, runs := 1, faults := 0 }

/-- Thread 0 in user mode, the entry thread of job 0, on core 0. -/
def usr (x : Desc) : State :=
  { State.reset with
    sch := { descs := [(0, x)], cores := [(0, { run := some 0 })] }
    chn := { jobs := [(0, job0)], programs := [(0, prog0)] }
    tenants :=
      { recs := [(1, tenantOne)]
        regions := [(0, { base := 0, last := 3, tenant := 1, read := true, write := true, exec := true, space := 8, named := false }),
          (1, { base := 0, last := 1, tenant := 1, read := true, write := true, exec := false, space := 0, named := false })] } }

/-- A user thread's registers, at the first word of CODE with the empty stack. -/
def usrDesc : Desc :=
  { st := 2, job := some 0, tenant := 1, pc := 0x200000, sp := 0x600040, g := [(1, mkW 0 7), (2, mkW 9 0x400000)] }

/-- Both threads issue and are quiet: what almost every statement about an instruction asks. -/
theorem test_sup_issues : issues (sup supDesc) 0 0 ∧ quiet (sup supDesc) 0 :=
  ⟨⟨by decide, ⟨0x200, by decide⟩, by decide⟩, quiet_of_core (c := 0) (by decide) (by decide)⟩

theorem test_usr_issues : issues (usr usrDesc) 0 0 ∧ quiet (usr usrDesc) 0 :=
  ⟨⟨by decide, ⟨0, by decide⟩, by decide⟩, quiet_of_core (c := 0) (by decide) (by decide)⟩

/-- Register and immediate forms of thread 0. -/
def rg (d a b : BitVec 5) (n : BitVec 11) : Rg := { t := 0, cond := 0, rd := d, ra := a, rb := b, fn := n }
def im (d a : BitVec 5) (n : BitVec 16) : Im := { t := 0, cond := 0, rd := d, ra := a, imm := n }

/-! ### Witnesses: Imlas-36 -/

theorem test_hyp_IntegerResultsAndFlags :
    (issues (sup supDesc) 0 0 ∧ quiet (sup supDesc) 0) ∧ (rg 5 1 2 0x700).fn.extractLsb' 6 2 = 0
      ∧ (rg 5 1 2 0x204).fn.extractLsb' 6 2 = 0 ∧ (rg 5 1 2 0x204).fn.getLsbD 8 = false ∧ (rg 5 1 2 0x204).fn.getLsbD 10 = false :=
  ⟨test_sup_issues, by decide⟩

theorem test_hyp_QuotientsMinimaMovesAndBitCounts :
    (issues (sup supDesc) 0 0 ∧ quiet (sup supDesc) 0) ∧ (rg 5 0 0 0x217).fn.extractLsb' 6 2 = 0
      ∧ (rg 5 0 0 0x217).fn.getLsbD 8 = false ∧ (rg 5 0 0 0x217).fn.getLsbD 10 = false
      ∧ (rg 5 0 0 0x217).ra = 0 ∧ (rg 5 0 0 0x217).rb = 0 :=
  ⟨test_sup_issues, by decide⟩

theorem test_hyp_ImmediateInstructionsSetNoFlagButCmpi :
    (issues (sup supDesc) 0 0 ∧ quiet (sup supDesc) 0) ∧ (im 5 1 31).imm.toNat < 32 ∧ (im 5 0 0xFFFF).ra = 0
      ∧ (im 5 1 15).imm.toNat < 16 ∧ (im 0 1 0x8000).rd = 0 :=
  ⟨test_sup_issues, by decide⟩

/-- Each clause of the float statements: results, a NaN operand, a zero divisor, both orders, equal values, both zeros and a
conversion in range, below and above it. -/
theorem test_hyp_FloatArithmeticRoundsToNearestEven :
    (issues (sup supDesc) 0 0 ∧ quiet (sup supDesc) 0) ∧ (rg 5 4 1 0x200).fn.getLsbD 10 = false
      ∧ (rg 5 4 1 0x200).fn.getLsbD 8 = false ∧ (rg 5 4 1 0x200).fn.extractLsb' 5 3 = 0 ∧ (rg 5 4 0 0x20C).rb = 0
      ∧ f32.add 0x3F800000 0x3F800000 = some 0x40000000 ∧ f32.add 0x7F800000 0xFF800000 = none :=
  ⟨test_sup_issues, by decide⟩

theorem test_hyp_FloatSelectionComparisonAndConversion :
    (issues (sup supDesc) 0 0 ∧ quiet (sup supDesc) 0)
      ∧ (isNan 0x7FC00000 = true ∧ isNan 7 = false)
      ∧ f32.cmp 0x3F800000 0x40000000 = .lt ∧ f32.cmp 0x40000000 0x3F800000 = .gt ∧ f32.cmp 0x7FC00000 0 = .unordered
      ∧ f32.cmp 0x80000000 0 = .eq ∧ f32.cmp 7 7 = .eq
      ∧ f32.trunc 0xBFC00000 = some (-1) ∧ f32.trunc 0x4F000000 = some (2 ^ 31) ∧ f32.trunc 0xCF000001 = some (-2147483904) :=
  ⟨test_sup_issues, by decide⟩

theorem test_hyp_QualityAndSpecialRegisterMoves :
    (issues (sup supDesc) 0 0 ∧ quiet (sup supDesc) 0) ∧ (issues (usr usrDesc) 0 0 ∧ quiet (usr usrDesc) 0)
      ∧ (rg 5 1 0 2).fn.extractLsb' 3 8 = 0 ∧ wQ (mkW 3 0) / 4 = 0 ∧ wQ (mkW 7 0) / 4 = 1 ∧ wQ (mkW 11 0) / 4 = 2
      ∧ wQ (mkW 12 0) / 4 = 3 ∧ supMode (sup supDesc) 0 = true ∧ supMode (usr usrDesc) 0 = false
      ∧ (gReg usrDesc 1).extractLsb' 8 2 = usrDesc.fl.extractLsb' 8 2 ∧ (coreAt (sup supDesc) 0).pend = false :=
  ⟨test_sup_issues, test_usr_issues, by decide⟩

theorem test_hyp_WordLoadsStoresAndCompareSwap :
    (issues (usr usrDesc) 0 0 ∧ quiet (usr usrDesc) 0)
      ∧ wLoc (usr usrDesc) 0 0x40003F .read = .cluster 127 ∧ wLoc (usr usrDesc) 0 0x40003F .write = .cluster 127
      ∧ wLoc (usr usrDesc) 0 0x400000 .read = .cluster 64 ∧ wLoc (sup supDesc) 0 0x1FFFF .write = .core 0x1FFFF
      ∧ readLoc (usr usrDesc) (.cluster 64) = gReg usrDesc 3 ∧ readLoc (usr usrDesc) (.cluster 64) ≠ gReg usrDesc 1 :=
  ⟨test_usr_issues, by decide⟩

theorem test_hyp_WordsAndBytesAreReadBackAndOthersStay :
    tabWf (sup supDesc).sch.locals = true ∧ tabWf (sup supDesc).sch.cluster = true ∧ Memory.wf [(3, 1), (7, 0xFF)] = true := by
  decide

theorem test_hyp_GeneralRegisterReadsBackAndG0IsZero : tabWf supDesc.g = true ∧ (31 : BitVec 5) ≠ 0 ∧ (31 : BitVec 5) ≠ 30 := by
  decide

/-- A load that ends at the end of the input and one that crosses it, a store at the end of the output buffer and one in a
region. -/
theorem test_hyp_ByteLoadsExtendAndStoresWriteTheirBytes :
    (issues (usr usrDesc) 0 0 ∧ quiet (usr usrDesc) 0)
      ∧ bsLegal (.imm (im 5 0 0)) = true ∧ bsLegal (.reg (rg 5 1 0 5)) = true
      ∧ bLoc (usr usrDesc) 0 0 15 5 .read = .input 15 ∧ bLoc (usr usrDesc) 0 0 16 5 .read = .input 16
      ∧ pendingUe (usr usrDesc) (.input 15) 5 = false
      ∧ bLoc (usr usrDesc) 0 1 15 1 .write = .output 15 ∧ bLoc (usr usrDesc) 0 2 8191 1 .write = .dram 8191 :=
  ⟨test_usr_issues, by decide⟩

theorem test_hyp_BranchesCallsAndTheStack :
    (issues (usr usrDesc) 0 0 ∧ quiet (usr usrDesc) 0)
      ∧ wLoc (usr usrDesc) 0 (usrDesc.sp - 1) .write = .cluster 191 ∧ 0x600000 ≤ (usrDesc.sp - 1).toNat
      ∧ wLoc (usr { usrDesc with sp := 0x60003F }) 0 0x60003F .read = .cluster 191
      ∧ 0x60003F < stackTop (usr { usrDesc with sp := 0x60003F }) 0
      ∧ wLoc (sup supDesc) 0 (supDesc.sp - 1) .write = .core 0xFFF ∧ wLoc (sup supDesc) 0 supDesc.sp .read = .core 0x1000 :=
  ⟨test_usr_issues, by decide⟩

/-- A legal instruction with a false condition, and one that is illegal all the same. -/
theorem test_hyp_FalseConditionHasNoEffect :
    (issuer (.imAdd { rg 5 1 2 0 with cond := 1 }) = some (0, 1) ∧ executes (sup supDesc) 0 = true
        ∧ condTrue (descAt (sup supDesc) 0).fl 1 = false)
      ∧ fetches (sup supDesc) 0 ∧ quiet (sup supDesc) 0 :=
  ⟨by decide, test_sup_issues.1.2.1, test_sup_issues.2⟩

theorem test_hyp_ExceptionsEnterTheHandlerOrEndTheStage :
    (supMode (sup supDesc) 0 = true ∧ coreRunning (sup supDesc) 0 = some 0
        ∧ wLoc (sup supDesc) 0 (supDesc.sp - 1) .write = .core 0xFFF ∧ wLoc (sup supDesc) 0 (supDesc.sp - 1 - 1) .write = .core 0xFFE)
      ∧ supMode (usr usrDesc) 0 = false ∧ (descAt (usr usrDesc) 0).job = some 0 ∧ jobAt (usr usrDesc) 0 = some job0
      ∧ job0.im = some stage0 ∧ job0.failed = none ∧ tabGet (usr usrDesc).chn.programs stage0.prog = some prog0 := by
  decide

theorem test_hyp_stackRoom : stackRoom (sup supDesc) 0 0 (.core 0xFFF) (.core 0xFFE) :=
  ⟨by decide, by decide, by decide, by decide, by intro l h; rcases h with rfl | rfl <;> decide⟩

theorem test_hyp_IllegalPrivilegedAndFetchExceptions :
    executes (usr usrDesc) 0 = true ∧ fetches (usr usrDesc) 0 ∧ supMode (usr usrDesc) 0 = false
      ∧ (rg 5 1 2 0x40).fn.extractLsb' 6 2 ≠ 0 ∧ (rg 5 1 2 0x404).fn.getLsbD 10 = true ∧ 7 ≤ (rg 5 7 0 0).ra.toNat
      ∧ (rg 5 1 2 0x780).fn.extractLsb' 7 4 = 0xF ∧ condTrue usrDesc.fl 0 = true ∧ (rg 0 0 0 9).fn.extractLsb' 4 7 = 0
      ∧ (gReg (descAt (usr { usrDesc with g := [(1, 0x100)] }) 0) 1).extractLsb' 8 2 ≠ usrDesc.fl.extractLsb' 8 2
      ∧ wLoc (usr { usrDesc with pc := 0x200040 }) 0 0x200040 .exec = .fault :=
  ⟨by decide, test_usr_issues.1.2.1, by decide, by decide, by decide, by decide, by decide, by decide, by decide, by decide, by decide⟩

theorem test_hyp_SystemInstructionsHaveTheirEffects :
    (issues (sup supDesc) 0 0 ∧ quiet (sup supDesc) 0) ∧ supMode (sup supDesc) 0 = true
      ∧ wVal (gReg supDesc 0) = 0 ∧ wVal (gReg { supDesc with g := [(1, 1)] } 1) = 1 ∧ 1 < (wVal (gReg supDesc 1)).toNat
      ∧ islandTime (sup supDesc) (isSward 0) = 0 ∧ (wVal (gReg supDesc 1)).toNat + (wVal (gReg supDesc 0)).toNat * 2 ^ 32 = 7
      ∧ wLoc (sup supDesc) 0 supDesc.sp .read = .core 0x1000 ∧ wLoc (sup supDesc) 0 (supDesc.sp + 1) .read = .core 0x1001
      ∧ (coreAt (sup supDesc) 0).pend = false ∧ tabWf (sup supDesc).sch.locals = true :=
  ⟨test_sup_issues, by decide⟩

/-- Descriptor 1 is free for a spawn; with both descriptors in use there is none. -/
theorem test_hyp_ProgramThreadsSpawnTakeItemsAndEnd :
    (issues (usr usrDesc) 0 0 ∧ quiet (usr usrDesc) 0)
      ∧ (descAt (usr usrDesc) 0).job = some 0 ∧ jobAt (usr usrDesc) 0 = some job0 ∧ job0.im = some stage0
      ∧ freeIndex (usr usrDesc) stage0 = some (1, 1)
      ∧ freeIndex { usr usrDesc with sch := { descs := [(0, usrDesc), (1, { usrDesc with st := 1, index := 1 })] } } stage0 = none
      ∧ usrDesc.index = 0 ∧ 16 ≤ stage0.outCap ∧ stage0.outCap < 17 ∧ ({ usrDesc with index := 1 } : Desc).index ≠ 0 :=
  ⟨test_usr_issues, by decide⟩

/-- Firmware flow 0 enabled, with the given counters. -/
def flowState (y : Flow) (x : Desc) : State :=
  { sup x with
    bus := { active := [(0x1C10000, 0x80000000)] }
    sch := { descs := [(0, x)], cores := [(0, { run := some 0 })], flows := [(0, y)] } }

theorem test_hyp_FirmwareFlowsTakeAndReleaseItems :
    (issues (flowState { next := 3 } { supDesc with flowEn := true }) 0 0 ∧ quiet (flowState { next := 3 } { supDesc with flowEn := true }) 0)
      ∧ (descAt (flowState { next := 3 } { supDesc with flowEn := true }) 0).job = none
      ∧ flowEnabled (flowState { next := 3 } { supDesc with flowEn := true }) 0 = true
      ∧ 0 < fwFlows (flowState { next := 3 } { supDesc with flowEn := true })
      ∧ (3 + 2 ^ 32 - 0) % 2 ^ 32 ≠ 256 ∧ (256 + 2 ^ 32 - 0) % 2 ^ 32 = 256 ∧ tabWf [(0, ({ next := 256 } : Flow))] = true
      ∧ (2 + 2 ^ 32 - 0) % 2 ^ 32 < (3 + 2 ^ 32 - 0) % 2 ^ 32 ∧ ({ next := 3 } : Flow).done.contains 2 = false
      ∧ (wVal (gReg supDesc 0)).toNat = ({ next := 3 } : Flow).rel ∧ ({ supDesc with flowFail := true } : Desc).flowFail = true :=
  ⟨⟨⟨by decide, ⟨0x200, by decide⟩, by decide⟩, quiet_of_core (c := 0) (by decide) (by decide)⟩, by decide⟩

/-- The elements of each string instruction: input to output, input to DATA, DATA to output, and an open message. -/
def strDesc : Desc := { usrDesc with ba := mkW 0 0, bb := mkW 1 0, bn := 1 }

theorem test_hyp_StringElementsMoveStopAndRepeat :
    (issues (usr strDesc) 0 0 ∧ quiet (usr strDesc) 0) ∧ strDesc.bn ≠ 0 ∧ ({ strDesc with bn := 0 } : Desc).bn = 0
      ∧ bLoc (usr strDesc) 0 0 0 1 .read = .input 0 ∧ bLoc (usr strDesc) 0 1 0 1 .write = .output 0
      ∧ bLoc (usr strDesc) 0 0 0 5 .read = .input 0 ∧ bLoc (usr strDesc) 0 1 11 5 .write = .output 11
      ∧ bLoc (usr strDesc) 0 1 0 1 .read = .output 0
      ∧ (bGet (usr strDesc) 0 (.input 0) 1).1 = [(wVal (mkW 0 1)).extractLsb' 0 8]
      ∧ (bGet (usr strDesc) 0 (.input 0) 1).1 ≠ (bGet (usr strDesc) 0 (.output 0) 1).1
      ∧ wLoc (usr strDesc) 0 0x400000 .read = .cluster 64 ∧ wLoc (usr strDesc) 0 0x40003F .write = .cluster 127
      ∧ (msgOf (openMsg (usr strDesc) (.thread 0) 0 0 1 []) (.thread 0)).map (·.waiting) = some false
      ∧ (∀ i, i < 2 → bLoc (usr { strDesc with bb := mkW 2 0, bn := 2 }) 0 2 ((0 : Dword) + BitVec.ofNat 32 i).toNat 1 .write
            = .dram (0 + i)) :=
  ⟨⟨⟨by decide, ⟨0, by decide⟩, by decide⟩, quiet_of_core (c := 0) (by decide) (by decide)⟩, by decide⟩

/-- Bytes that DRAM answers at BA and BB, 16 apart, and words that cluster memory answers. -/
def farDesc (a b : W36) : Desc := { usrDesc with ba := a, bb := b, bn := 2 }

theorem test_hyp_StringsRepeat :
    (let s := usr (farDesc (mkW 2 0) (mkW 2 16))
     issues s 0 0 ∧ quiet s 0 ∧ bytesAnswered s 0 (mkW 2 0) .read 1 2 0 ∧ bytesAnswered s 0 (mkW 2 16) .write 1 2 16
       ∧ bytesAnswered s 0 (mkW 2 16) .read 1 2 16 ∧ bytesAnswered s 0 (mkW 2 16) .write 5 2 16 ∧ 0 + 2 ≤ 16
       ∧ (descAt s 0).bn.toNat = 2 ∧ tabWf (descAt s 0).g = true ∧ tabWf s.sch.cluster = true ∧ Memory.wf s.drc.dram = true
       ∧ (∀ i, i < 2 → memByte s.drc.dram (0 + i) = memByte s.drc.dram (16 + i)) ∧ (memByte s.drc.dram 0 ≠ (1 : Byte)))
      ∧ (let s := usr (farDesc (mkW 15 0x400000) (mkW 15 0x400010))
         issues s 0 0 ∧ quiet s 0 ∧ wordsAnswered s 0 (mkW 15 0x400000) .read 2 64 ∧ wordsAnswered s 0 (mkW 15 0x400010) .write 2 80) :=
  ⟨⟨⟨by decide, ⟨0, by decide⟩, by decide⟩, quiet_of_core (c := 0) (by decide) (by decide), by unfold bytesAnswered; decide,
      by unfold bytesAnswered; decide, by unfold bytesAnswered; decide, by unfold bytesAnswered; decide, by decide⟩,
    ⟨by decide, ⟨0, by decide⟩, by decide⟩, quiet_of_core (c := 0) (by decide) (by decide), by unfold wordsAnswered; decide,
    by unfold wordsAnswered; decide⟩

theorem test_hyp_SearchAndDigestPortsAnswer :
    (issues (usr usrDesc) 0 0 ∧ quiet (usr usrDesc) 0)
      ∧ bLoc (usr usrDesc) 0 0 0 18 .read = .input 0 ∧ pendingUe (usr usrDesc) (.input 0) 18 = false
      ∧ servesTenant (usr usrDesc) 1 = true
      ∧ (camLookup (usr usrDesc) 1 7 (bGet (usr usrDesc) 0 (.input 0) 18).1 ⟨[], [], []⟩).bad = false
      ∧ (camLookup (usr usrDesc) 1 7 (bGet (usr usrDesc) 0 (.input 0) 18).1 ⟨[], [], []⟩).index = none
      ∧ msgOf (usr usrDesc) (.thread 0) = none :=
  ⟨test_usr_issues, by decide⟩

/-! ### Witnesses: registers, time, power -/

/-- The device started, in PS0, with its Etch fence lowered. -/
def on : State :=
  { State.reset with
    power := { pwrOk := true, perstN := true, aonOk := true, started := true, ready := true, fence := false, wpg := 0xFF,
               firstStart := false, mediaPwrEn := true, tested := true, settingsIn := true } }

/-- The same with a pending first write of host software at 40h. -/
def guarded (v : Dword) (at_ : Nat) : State :=
  { on with bus := { guards := [(0, { off := 0x40, val := v, at_ := at_ })] } }

theorem test_hyp_SequenceNumbersDecideWhatAClearClears :
    tabWf [(0, (5 : BitVec 8)), (3, 132)] = true
      ∧ (∀ e ∈ [(0, (5 : BitVec 8)), (3, 132)], ((132 : BitVec 8) - e.2).toNat < 128) := by
  decide

/-- An RSQ register of the host island, an RWB register of it, and one of the always-on island whose KEEP fields are written. -/
theorem test_hyp_BufferedWritesWaitAndABoundaryAppliesThem :
    (rootFree on .host ∧ guardOf on .host = none)
      ∧ ((regDesc 0x60).map (fun d => (d.cls, clockRuns on d.island)) = some (.rsq, true) ∧ accessFault on .host 0x60 = none)
      ∧ ((regDesc 0x1000008).map (fun d => (d.cls, clockRuns on d.island, (3 : Nat) &&& keepMask d)) = some (.rwb, true, 0)
          ∧ accessFault on .host 0x1000008 = none)
      ∧ (regDesc 0x1000008).map (fun d => decide (0x10000 &&& keepMask d ≠ 0)) = some true
      ∧ (let s := { on with bus := { rwb := [{ off := 0x1000008, val := 3, path := .host }] } }
         s.bus.rwb.all (fun w => ((regDesc w.off).map (fun d => clockRuns s d.island)).getD false) = true
           ∧ (s.bus.rwb.map (fun w => (regDesc w.off).map (·.block))) = [some 0x1000000] ∧ tabWf s.bus.active = true) :=
  ⟨⟨⟨by decide, by decide⟩, by decide⟩, by decide⟩

theorem test_hyp_GuardSequencesCommitOrFail :
    (rootFree on .host ∧ guardOf on .host = none ∧ tabWf on.bus.guards = true)
      ∧ (guardOf (guarded 2 0) .host = some { off := 0x40, val := 2, at_ := 0 } ∧ tabWf (guarded 2 0).bus.guards = true)
      ∧ busTime (guarded 2 0) .host ≤ 0 + 1000 ∧ (2 : Dword).toNat < 3 ∧ 3 ≤ (15 : Dword).toNat % 16
      ∧ (0 : Nat) + 1000 < busTime { guarded 2 0 with time := { master := 1001 } } .host :=
  ⟨⟨⟨by decide, by decide⟩, by decide⟩, by decide⟩

/-- A keeper window, the debug window, an offset of no register, and registers of the classes RW and RO in the host island. -/
theorem test_hyp_RegisterWritesActByClassAndAlignment :
    (rootFree on .host ∧ guardOf on .host = none)
      ∧ (0x70 % 4 = 0 ∧ 0x72 % 4 ≠ 0 ∧ 0x72 % 8 ≠ 0)
      ∧ (0x1B00000 ≤ 0x1B00000 ∧ 0x1BFFFFC < 0x1C00000 ∧ dbgOpen on = false ∧ accessFault on .host 0x24 = some 0)
      ∧ ((regDesc 0x70).map (fun d => (d.cls, d.x, d.perPath, clockRuns on d.island, keepMask d)) = some (.rw, false, false, true, 0)
          ∧ isKept 0x70 = false ∧ accessFault on .host 0x70 = none)
      ∧ ((regDesc 0x8).map (fun d => (d.cls, d.x, clockRuns on d.island, keepMask d)) = some (.ro, false, true, 0)
          ∧ accessFault on .host 0x8 = none)
      ∧ (regDesc 0x200010).map (fun d => (d.x, clockRuns on d.island)) = some (true, true)
      ∧ accessFault on .host 0x200010 = none :=
  ⟨⟨⟨by decide, by decide⟩, by decide⟩, by decide⟩

/-- An access of host software to a register of another island, in a power state, that has been in progress since time 0, now 2,000. -/
def crossing (off : Nat) (ps : Nat) (wr : Option Dword) : State :=
  { on with
    power := { on.power with pstate := ps }
    time := { master := 2000 }
    bus := { waiting := [(0, [{ access := { path := .host, off := off, wr := wr }, at_ := 0, tag := 0, start := some 0 }])] } }

theorem test_hyp_ReadsPairsAndCrossingAccesses :
    clockRuns on isHost = true
      ∧ (isHiHalf 0x14 = true ∧ accessFault on .host 0x14 = none ∧ (regDesc 0x14).map (fun d => clockRuns on d.island) = some true)
      ∧ (isLoHalf 0x10 = true ∧ isHiHalf 0x10 = false ∧ (regDesc 0x10).isSome = true ∧ accessFault on .host 0x10 = none)
      ∧ (isHiHalf 0x70 = false ∧ isLoHalf 0x70 = false)
      ∧ ((regDesc 0x100014).map (fun d => (d.cls, d.x, d.perPath, clockRuns on d.island)) = some (.rw, true, false, true)
          ∧ isKept 0x100014 = false ∧ accessFault on .host 0x100014 = none)
      ∧ ((regDesc 0x14).map (·.island) = (regDesc 0x10).map (·.island) ∧ 0x10 % 8 = 0)
      ∧ lateOn on .host = [] ∧ tabGet on.bus.waiting (pathNo .host) = none
      ∧ inProgress (crossing 0x100014 0 (some 1)) .host 0x100014 (some 1) 0
      ∧ inProgress (crossing 0xC00014 4 none) .host 0xC00014 none 0
      ∧ 0 + 2000 ≤ islandTime (crossing 0xC00014 4 none) isHost
      ∧ (regDesc 0xC00014).map (fun d => clockRuns (crossing 0xC00014 4 none) d.island) = some false
      ∧ accessFault (crossing 0xC00014 4 none) .host 0xC00014 = none
      ∧ lateOn (crossing 0xC00014 4 none) .host = [] ∧ clockRuns (crossing 0xC00014 4 none) isHost = true :=
  ⟨by decide, by decide, by decide, by decide, by decide, by decide, by decide, by decide,
    ⟨by decide, _, rfl, rfl, rfl, rfl, rfl, rfl⟩, ⟨by decide, _, rfl, rfl, rfl, rfl, rfl, rfl⟩, by decide⟩

theorem test_hyp_TimebaseAdvancesAndIsCorrected :
    (on.pending = [] ∧ on.power.aonOk = true ∧ now on + 40000 < 2 ^ 64 ∧ on.time.refclk = false)
      ∧ ({ on with time := { refclk := true } } : State).time.slew = 0
      ∧ State.reset.power.aonOk = false ∧ clockRuns on 177 = true ∧ tabWf on.time.copyOff = true
      ∧ tabGet on.time.stopAt 177 = none ∧ 2 ≤ now { on with time := { master := 2 } }
      ∧ ptmAligns on = true ∧ on.time.aligned = false ∧ now on < (5 : Qword).toNat
      ∧ Nat.max on.time.ptmAt on.power.startAt + 10 * ptmPeriod on
          ≤ now { on with time := { master := BitVec.ofNat 64 (10 * ptmPeriod on) } }
      ∧ State.reset.power.pwrOk = false ∧ isDue on on.time.ptmAt (ptmPeriod on) = true := by
  decide

/-- `on` with function 0 enabled. -/
def enabled : State := { on with host := { ctrls := [(0, { en := true, rdy := true })] } }

theorem test_hyp_DeviceAndControllerResets :
    (State.reset.power.pwrOk = false ∧ on.power.pwrOk = true ∧ on.power.shutdown = false)
      ∧ regFld { on with bus := { active := [(0x40, 2)] } } 0x40 0 4 = 2
      ∧ regFld { on with bus := { active := [(0x40, 1)] } } 0x40 0 4 = 1 ∧ regFld on 0x40 0 4 ≠ 2
      ∧ ({ on with time := { aonLost := false } } : State).time.aonLost = false ∧ latestTime State.reset + 1000000000 < 2 ^ 64
      ∧ (ctrlAt enabled 0).en = true ∧ isPhysical enabled 0 = true ∧ isPhysical enabled 1000 = false
      ∧ 0 < portCount enabled ∧ ({ on with power := { on.power with perstN := false } } : State).power.perstN = false
      ∧ (ctrlAt on 0).en = false ∧ mayEnable on 0 = true ∧ on.power.noImage = false ∧ fnPort on 0 < portCount on
      ∧ (ctrlAt enabled 0).shn = false
      ∧ (let s := { on with host := { ctrls := [(0, { en := true, shn := true, shst := 1 })] } }
         (ctrlAt s 0).shn = true ∧ (ctrlAt s 0).shst = 1 ∧ (∀ e ∈ s.host.exec, e.cmd.id.fn = 0 → e.cmd.id ∈ (ctrlAt s 0).aers)
           ∧ (∀ e ∈ s.host.ctrls, e.1 = 0 ∨ e.2.en = false ∨ e.2.shst = 2) ∧ canRecord s = true) := by
  decide

theorem test_hyp_FencePerstAndPowerStates :
    (on.power.perstN = true ∧ State.reset.power.perstN = false ∧ on.power.fence = false ∧ on.power.pwrOk = true
        ∧ on.power.shutdown = false ∧ on.power.changing = false)
      ∧ (let s := { on with power := { on.power with fence := true }, time := { master := 20000000 } }
         s.power.fence = true ∧ s.power.fenceAt + fenceHold s ≤ now s ∧ now on < s.power.fenceAt + fenceHold on ∧ s.power.abandoned = false ∧ mediaUp s = true ∧ s.cas.roleCode ≠ 3)
      ∧ (let s := { on with power := { on.power with changing := true, ptarget := 4 } }
         s.power.changing = true ∧ jobsWait s s.power.ptarget = false ∧ s.host.exec.any (·.isIo) = false ∧ 3 ≤ s.power.ptarget)
      ∧ (let s := { on with power := { on.power with bringUp := true }, time := { master := 20000000 } }
         s.power.bringUp = true ∧ s.power.mediaAt + 5000000 ≤ now s ∧ s.power.started = true ∧ s.power.pstate ≠ 4) := by
  decide

/-- The device in a start stage. -/
def starting (n : Nat) : State := { on with power := { pwrOk := true, aonOk := true, stage := some n } }

theorem test_hyp_StartStagesFollowInOrder :
    stageOfFinding (starting 3) .init = none
      ∧ (∀ n ∈ [0, 1, 2, 3, 4, 5, 6, 7], (starting n).power.stage = some n)
      ∧ (starting 0).etch.setA.ok = true ∧ (starting 0).etch.setB.ok = true ∧ etchGone (starting 0) = false
      ∧ (starting 0).etch.setB.seq ≤ (starting 0).etch.setA.seq := by
  decide

/-! ### Witnesses: media, translation -/

/-- `on` with channel 0 as given. -/
def withChan (c : Chan) : State := { on with media := { chans := [(0, c)] } }

/-- A pin fault of page 0xC4. -/
def pinEntry : FaultEntry := { chan := 0, die := 0, kind := 0x16, pin := 3, st := 0, first := 0, last := 0, ident := 0, digest := 0 }

theorem test_hyp_TrainingEyesAndPinTests :
    (chanAt (withChan { background := true }) 0).background = true
      ∧ (chanAt (withChan { st := 2, low := 2 }) 0).st = chanActive ∧ retrainPct (withChan { st := 2 }) 0 ≤ 255
      ∧ 0 < retrainPct (withChan { st := 2 }) 0
      ∧ isDue (withChan { st := 2 }) (chanAt (withChan { st := 2 }) 0).eyeAt (eyePeriod (withChan { st := 2 }) 0) = true
      ∧ (let s := withChan { st := 2, due := true }
         (chanAt s 0).due = true ∧ (chanAt s 0).holder = none ∧ (chanAt s 0).pinRunning = false
           ∧ (∀ e ∈ s.media.chans, e.2.st ≠ chanRetraining))
      ∧ (∃ e ∈ (withChan { st := 3 }).media.chans, e.2.st = chanRetraining)
      ∧ floorPct (withChan { st := 3 }) 0 ≤ 100 ∧ 0 < floorPct (withChan { st := 3 }) 0
      ∧ (chanAt (withChan { st := 3, rate := 6 }) 0).rate ≠ 0
      ∧ regFld on 0x800008 8 1 = 1 ∧ regFld { on with bus := { active := [(0x800008, 0)] } } 0x800008 8 1 = 0
      ∧ (let s := { withChan { st := 2 } with time := { master := BitVec.ofNat 64 (pinInterval on 0) } }
         (chanAt s 0).pinAt + pinInterval s 0 ≤ now s ∧ (chanAt s 0).pinRunning = false)
      ∧ now (withChan { st := 2 }) < (chanAt (withChan { st := 2 }) 0).pinAt + pinInterval (withChan { st := 2 }) 0
      ∧ ((chanAt (withChan { st := 2, holder := some 3 }) 0).holder ≠ none)
      ∧ (chanAt (withChan { st := 2, pinRunning := true }) 0).pinRunning = true ∧ tabWf (withChan {}).bus.active = true
      ∧ (∃ f ∈ ({ withChan { st := 2 } with media := { faults := [pinEntry] } } : State).media.faults,
          f.chan = 0 ∧ f.kind = 0x16 ∧ f.fresh = true) :=
  ⟨by decide, by decide, by decide, by decide, by decide, by decide, ⟨_, List.mem_cons_self, rfl⟩, by decide, by decide, by decide, by decide,
    by decide, by decide, by decide, by decide, by decide, by decide, ⟨_, List.mem_cons_self, rfl, rfl, rfl⟩⟩

/-- `on` with die 0 of channel 0 as given. -/
def withDie (d : Die) (c : Chan) : State := withChan { c with dies := [(0, d)] }

theorem test_hyp_DiesAndTheSharedMediaBus :
    (on.media.excluded.getLsbD 7 = false ∧ on.power.wpg.getLsbD 7 = true)
      ∧ (dieAt (withDie { st := 1 } { st := 3 }) 0).st = dieActive
      ∧ (let s := { withDie { st := 1, silent := true, resets := 1 } { st := 2 } with time := { master := 20000000 } }
         (dieAt s 0).resets = 1 ∧ (dieAt s 0).resetAt + 10000000 ≤ now s ∧ now on < (dieAt s 0).resetAt + 10000000)
      ∧ (2 ≤ (dieAt (withDie { st := 1, silent := true, resets := 2 } { st := 2 }) 0).resets)
      ∧ (dieAt (withDie { st := 1, params := { noParams with hasTemp := true } } { st := 2 }) 0).params.hasTemp = true
      ∧ (let c := chanAt (withDie { st := 1 } { st := 2, reqs := [{ req := { die := 0, data := false, tag := 1 }, at_ := 0 }] }) 0
         c.st = chanActive ∧ (∃ r ∈ c.reqs, r.req.die = 0) ∧ c.hold = none ∧ c.pinRunning = false ∧ c.pinDue = false ∧ c.due = false)
      ∧ (chanAt (withDie { st := 1 } { st := 2, hold := some 0 }) 0).hold = some 0
      ∧ (chanAt (withDie { st := 1 } { st := 2, pinDue := true }) 0).pinDue = true
      ∧ (let s := { withDie { st := 1 } { st := 2, reqs := [{ req := { die := 0, data := false, tag := 1 }, at_ := 0 }] } with
           time := { master := BitVec.ofNat 64 (holdTicks on 0) } }
         ∃ r ∈ (chanAt s 0).reqs, r.req.die = 0 ∧ r.at_ + holdTicks s 0 ≤ now s)
      ∧ regFld { on with bus := { active := [(0x800038, 1)] } } 0x800038 0 16 ≠ 0 :=
  ⟨by decide, by decide, by decide, by decide, by decide,
    ⟨by decide, ⟨_, List.mem_cons_self, rfl⟩, by decide, by decide, by decide, by decide⟩, by decide, by decide,
    ⟨_, List.mem_cons_self, rfl, by decide⟩, by decide⟩

/-- A codeword of unit 0 of namespace 1. -/
def cw0 : Codeword :=
  { unit := 0, part := 0, nsid := 1, tenant := 1, kind := 0, profile := 0, progTime := 0, progTemp := 0, stamp := 0, user := [] }

/-- A read of the Gleaner of the first codeword of block 0 of die 0, at a ladder step; and one of the same for a command. -/
def read0 (step : Nat) : ReadReq :=
  { key := cwKey 0 0 0 0, owner := .gleaner, step := step, chosen := 7, base := 7, cur := 7, nsid := 1, tenant := 1, unit := 0, part := 0 }

/-- Channels 0 and 1 active with 16 dies each, which hold a swath of block 0 of every die. The codeword stands on page 0 of dies
0 and 1, and the other pages hold nothing that is a codeword. -/
def withReads (c : Chan) (b : BlockRec) (qs : List ReadReq) : State :=
  { on with
    media := { chans := [(0, { c with st := 2, dies := (List.range 16).map (fun d => (d, { st := 1 })) }),
                         (1, { st := 2, dies := (List.range 16).map (fun d => (d, { st := 1 })) })] }
    ftl := { blocks := (List.range 32).map (fun d => (blockKey d 0, b))
             flash := [(cwKey 0 0 0 0, sealWord (cwKey 0 0 0 0) cw0), (cwKey 1 0 0 0, sealWord (cwKey 1 0 0 0) cw0)]
               ++ (List.range' 2 30).map (fun d => (cwKey d 0 0 0, cw0))
             swaths := [{ id := 0, family := 1, members := (List.range 32).map (fun d => (d, 0)), opened := false, next := 1, done := [],
                          safe := [], fallow := false, chset := 0 }]
             reads := qs } }

/-- A command of function 0, queue 1, identifier 1. -/
def cmd1 : NvCmd :=
  { id := { fn := 0, qid := 1, cid := 1 }, nsid := 1, c2 := 0, c3 := 0, c10 := 0, c11 := 0, c12 := 0, c13 := 0, c14 := 0, c15 := 0,
    ptr := .prp, data := [], memOk := true }

/-- It in execution, in the given phase. -/
def exec1 (ph : Phase) (op pend : Nat) : ExecCmd :=
  { cmd := cmd1, opcode := op, order := 0, nsid := 1, slba := 0, nlb := 1, phase := ph, tenant := 1, isIo := true, job := none,
    done := 0, pend := pend, data := [], status := none, blocks := [], slots := [], assigned := false }

/-- A transfer of a read, decoded, not decoded and with a lane signature, while the channel is at hand, is not, and waits for a pin
test; step 3 with a set left and with none; and a page of the Stipple's pass. -/
theorem test_hyp_PageReadsCountAndFailBlocks :
    (let s := withReads {} { st := 2 } [read0 1]
     (tabGet s.ftl.blocks (cwKey 0 0 0 0 / 32768)).isSome = true
       ∧ s.ftl.reads.find? (fun r => r.key == cwKey 0 0 0 0 && r.owner == .gleaner) = some (read0 1)
       ∧ readWay s (keyDie (cwKey 0 0 0 0 / 32768)) = .direct ∧ (blockAt s (cwKey 0 0 0 0 / 32768)).st = blkClosed)
      ∧ readWay (withReads { pinRunning := true } { st := 2 } [read0 1]) 0 = .held
      ∧ matchesEntry (read0 1) (sealWord (cwKey 0 0 0 0) cw0) = true
      ∧ matchesEntry { read0 1 with nsid := 2 } (sealWord (cwKey 0 0 0 0) cw0) = false
      ∧ (let s := { withReads {} { st := 1 } [{ read0 1 with owner := .cmd cmd1.id }] with host := { exec := [exec1 .reading 2 2] } }
         (findCmd s cmd1.id).map (fun e => (e.phase, e.pend)) = some (.reading, 2))
      ∧ (let s := withReads {} { st := 2 } [read0 5]
         (read0 5).pinWait = false ∧ s.power.tested = true ∧ matesHeld s (cwKey 0 0 0 0) = false)
      ∧ ({ read0 3 with left := [6] } : ReadReq).left = [6] ∧ (read0 3).left = [] ∧ 1 ≤ (read0 2).base ∧ (read0 2).base ≤ 13
      ∧ (let s := withReads {} { st := 2 } []
         s.ftl.reads.find? (fun x => x.key == cwKey 0 0 0 0 && x.owner == .cmd cmd1.id) = none
           ∧ stippleRuns s = true ∧ servesTenant s 0 = true ∧ readWay s 0 = .direct ∧ s.pcs.patrolAt = 0
           ∧ nextPatrol s = some ((0, 0), 0) ∧ nextPatrol s ≠ some ((1, 0), 0) ∧ regFld s 0xA00044 0 8 < 255) := by
  decide

/-- The codeword is held, and an output that is it verifies, as one that differs in its CRC field does not. -/
theorem test_hyp_wordHeld (c : Chan) (b : BlockRec) (qs : List ReadReq) :
    wordOn (withReads c b qs) (cwKey 0 0 0 0) = some (sealWord (cwKey 0 0 0 0) cw0)
      ∧ outputVerifies (sealWord (cwKey 0 0 0 0) cw0) [] = true
      ∧ outputVerifies (sealWord (cwKey 0 0 0 0) cw0) [4128 * 8] = false :=
  ⟨rfl, Laws.sealWord_verifies _ _, Laws.sealWord_flipped _ _⟩

/-- The pages that stand with it in its stripe. -/
theorem test_hyp_mates : stripeMates (withReads {} { st := 2 } []) (cwKey 0 0 0 0)
      = some (cwKey 1 0 0 0 :: (List.range' 2 30).map (fun d => cwKey d 0 0 0))
    ∧ ∀ k ∈ (List.range' 2 30).map (fun d => cwKey d 0 0 0), pageWord (withReads {} { st := 2 } []) k = zeroWord := by
  decide +kernel

/-- It is reconstructed from them, and what is reconstructed matches its entry (R131, R192). -/
theorem test_hyp_reconstructed : ∃ w, reconstructed (withReads {} { st := 2 } []) (cwKey 0 0 0 0) = some w ∧ matchesEntry (read0 5) w = true := by
  have hp : pageWord (withReads {} { st := 2 } []) (cwKey 1 0 0 0) = sealWord (cwKey 1 0 0 0) cw0 := rfl
  have hv := Laws.filled_verifies cw0 (cwKey 1 0 0 0) (pageSeed (cwKey 0 0 0 0))
  refine ⟨{ sealWord (cwKey 1 0 0 0) cw0 with user := padTo 4096 cw0.user, white := pageSeed (cwKey 0 0 0 0) }, ?_, rfl⟩
  simp only [reconstructed, test_hyp_mates.1, Laws.xorAt_one _ _ _ test_hyp_mates.2, hp]
  rw [if_pos]
  · rfl
  · exact hv

/-- `on` with DRAM channel 0 in use. -/
def withDram (p : Pcs) : State := { on with drc := { chans := [(0, { st := 2 })] }, pcs := p }

/-- A line with one symbol wrong, with eight on two devices, with nine, and without an error; a device marked. -/
def oneBad : LineFinding := { errs := [(3, 0)] }
def eightBad : LineFinding := { errs := (List.range 8).map (fun i => (i % 2, i)) }
def nineBad : LineFinding := { errs := (2, 0) :: (List.range 8).map (fun i => (i % 2, i)) }

theorem test_hyp_DramErrorsRemapsAndEngineUnits :
    (oneBad.errs ≠ [] ∧ (∀ e ∈ oneBad.errs, e.1 = 3 ∧ (3 : Nat) < 10 ∧ e.2 < 8) ∧ eightBad.errs.length ≤ 8 ∧ oneBad.errs.length ≤ 4)
      ∧ (lineVerdict none [] = .clean ∧ lineVerdict none eightBad.errs = .corrected none ∧ lineVerdict none nineBad.errs = .lost
          ∧ lineVerdict none oneBad.errs = .corrected (some 3)
          ∧ lineVerdict (tabGet (withDram { marks := [(0, 3)] }).pcs.marks (markKey 0 (0 % 2) (0 % 2))) oneBad.errs = .marked)
      ∧ isDue on on.pcs.savedAt 600000000000 = true
      ∧ (stippleRuns (withDram {}) = true ∧ 0 ∈ dramInUse (withDram {}) ∧ servesTenant (withDram {}) 0 = true)
      ∧ (let s := withDram { dramPos := 1, lineErrs := [(lineKey 0 1, 14)] }
         lineAddress s 0 1 = 64 * s.pcs.dramPos ∧ s.pcs.dramAt = 0 ∧ lineKey 0 1 ∉ s.pcs.copying
           ∧ remapThreshold s ≤ tabAt 0 s.pcs.lineErrs (lineKey 0 1) + 1 ∧ tabGet s.pcs.remapDram (lineKey 0 1) = none
           ∧ lineKey 0 1 ∉ s.pcs.remapFull ∧ sparesUsed s 0 + (s.pcs.copying.filter (fun k => k / 2 ^ 40 == 0)).length < 32
           ∧ regionAt s (lineAddress s 0 1) = none)
      ∧ lineAddress (withDram {}) 0 0 = 64 * (withDram {}).pcs.dramPos
      ∧ tabAt 0 (newPass (withDram {})).pcs.lineErrs (lineKey 0 0) + 1 < remapThreshold (withDram {})
      ∧ (let s := { withDram {} with tenants := (usr {}).tenants }
         (regionAt s (lineAddress s 0 0)).isSome = true)
      ∧ (let s := withDram { remapDram := (List.range 32).map (fun i => (lineKey 0 (100 + i), i)) }
         32 ≤ sparesUsed s 0 + (s.pcs.copying.filter (fun k => k / 2 ^ 40 == 0)).length)
      ∧ (let s := withDram { dramPos := 1, devLines := [(deviceKeyOf 0 0 0 3, List.range' 100 15)] }
         tabGet s.pcs.marks (markKey 0 0 0) = none ∧ (tabAt [] s.pcs.devLines (deviceKeyOf 0 0 0 3)).length = 15
           ∧ 1 ∉ tabAt [] s.pcs.devLines (deviceKeyOf 0 0 0 3))
      ∧ (lineKey 0 1 ∈ (withDram { copying := [lineKey 0 1] }).pcs.copying)
      ∧ ((withDram {}).power.started = true ∧ ((List.replicate 15 1).filter (· == 1)).length = 15
           ∧ (∀ x ∈ List.replicate 15 1, x ≤ 1) ∧ 0 < remapThreshold (withDram {}) ∧ remapThreshold (withDram {}) ≤ 15
           ∧ sramSpares (withDram {}) 0 < 16 ∧ lineKey (8 + 0) 1 ∉ (withDram {}).pcs.remapFull
           ∧ 16 ≤ sramSpares (withDram { remapSram := (List.range 16).map (fun i => (i, 100 + i)) }) 0)
      ∧ etchGone (withDram {}) = false
      ∧ (0 < poolInsts .ldpc ∧ unitUsable (withDram {}) .ldpc 0 0 = true ∧ stageOn (withDram {}) .ldpc 0 = none)
      ∧ ((0 : Nat) ≠ poolUnits .ldpc ∧ (engineAt (withDram {}) .ldpc 0).spareUsed = false)
      ∧ (engineAt (withDram { engines := [(engineKey .ldpc 0, { spareUsed := true })] }) .ldpc 0).spareUsed = true := by
  decide

/-- A swath of block 0 of dies 0 to 31 of two active channels, with unit 5 of namespace 1 mapped on die 7 where `mapped`; die 31
has a block besides. The anchor blocks of die 0 are taken. -/
def withSwath (opened mapped : Bool) (next : Nat) (st : BitVec 4) (wk : List Work) : State :=
  { on with
    media := (withReads {} {} []).media
    etch := { anchorSet := [0, 1, 2, 3] }
    ftl := { blocks := (List.range 32).map (fun d => (blockKey d 0, { st := st, erases := if d = 0 then 1000 else 0 }))
               ++ [(blockKey 31 1, { st := 2, erases := 5000 })]
             swaths := [{ id := 0, family := 1, members := (List.range 32).map (fun d => (d, 0)), opened := opened, next := next, done := [],
                          safe := [], fallow := false, chset := 0 }]
             map := if mapped then [(unitKey 1 5, flashEntry false 1 7 0 0 0 0)] else []
             work := wk, exported := 4096 } }

/-- A request for the swath of die 3. -/
def work3 : Work := { prio := 2, die := 3, block := 0, whole := false }

theorem test_hyp_MapPagesCopiesProgramsAndErases :
    (let s := { on with ftl := { mapLoc := [(pageKey 1 0 0, 1)] } }
     (tabGet s.ftl.mapLoc (pageKey 1 0 0)).isSome = true ∧ tabWf s.ftl.overlay = true ∧ tabWf s.ftl.map = true)
      ∧ (let s := { on with ftl := { mapLoc := [(pageKey 1 0 0, 1)], resident := [pageKey 1 0 1], dirty := [(pageKey 1 0 1, 1)] } }
         cachePages s ≤ s.ftl.resident.length ∧ pageKey 1 0 0 ∉ s.ftl.resident ∧ s.ftl.resident ≠ []
           ∧ ∀ p ∈ s.ftl.resident, (tabGet s.ftl.dirty p).isSome = true)
      ∧ (let s := { on with ftl := { mapLoc := [(pageKey 1 1 0, 1)] }, drc := { chans := [(0, { st := 2 })] } }
         s.power.ready = true ∧ isDue s s.ftl.meadowAt 1000000000 = true ∧ isDue s s.ftl.healthAt 600000000000 = true
           ∧ regFld s 0xC00014 8 8 ≠ 0 ∧ s.ftl.mapFull = false ∧ servesTenant s 0 = true
           ∧ s.ftl.resident.length < cachePages s ∧ pageKey 1 1 0 / 2 ^ 47 % 2 = 1)
      ∧ State.reset.power.ready = false
      ∧ (let s := withSwath false true 1 2 [work3]
         gleanerRuns s = true ∧ s.ftl.rebuild = none ∧ work3 ∈ s.ftl.work ∧ workDone s work3 = false
           ∧ tabWf s.ftl.overlay = true ∧ tabWf s.ftl.map = true)
      ∧ (let s := withSwath false false 1 2 []
         regFld s 0xC00010 0 16 ≠ 0 ∧ s.ftl.fallowAt = 0 ∧ (rebuildWork s).isNone = true ∧ (nextVictim s).isNone = true
           ∧ (31 : Nat) ∈ blockDies s ∧ regFld s 0xC00010 0 16 < dieSpread s 31
           ∧ (youngest s 31).isSome = true)
      ∧ canProgram State.reset = false
      ∧ (let s := withSwath true false 1 1 []
         (s.ftl.swaths.find? (fun x => x.id == 0)).map (fun w => (w.next, w.done, swathWritable s w)) = some (1, [], true)
           ∧ (blockAt s (blockKey 5 0)).st = blkOpen)
      ∧ (let s := withSwath false false 1 2 []
         mayErase s 3 0 = true ∧ canProgram s = true ∧ dieWritable s 3 = true)
      ∧ (let s := withSwath false false 1 3 []
         (blockAt s (blockKey 3 0)).st = blkErasing ∧ dieWritable s 3 = true ∧ mayErase s 3 0 = false)
      ∧ dieWritable on 3 = false ∧ etchGone on = false ∧ on.power.started = true := by
  decide

theorem test_hyp_takeAnchors : takeAnchors (withSwath false true 1 2 [work3]) = withSwath false true 1 2 [work3] := rfl

/-! ### Witnesses: Etch buffer, host interface, admin commands -/

/-- A namespace of 4 KiB blocks, units of 4 KiB, without codec or cipher, owned by tenant 1 and attached to function 0. -/
def ns1 : Namespace :=
  { nsze := 1024, lbaSize := 4096, coarse := false, codec := 0, cipher := 0, keySlot := 0, owner := 1, chset := 0, attach := [0], home := 0 }

/-- A relocation of unit 5 of namespace 1 from `old` to `new`, built. -/
def built5 (old new : Qword) : Built :=
  { type := 5, tenant := 0, entries := [{ key := jUnitKey (unitKey 1 5), old := old, new := new }], cmd := none, job := none, last := false }

theorem test_hyp_RecordsAreBuiltAndCommitted :
    (let s := { on with host := { exec := [exec1 .moving 1 0] } }
     (findCmd s cmd1.id).map (fun e => (e.job, e.phase, e.pend)) = some (none, .moving, 0) ∧ s.power.fence = false)
      ∧ canRecord State.reset = false ∧ nextBuilt on = none
      ∧ (let s := { on with etch := { built := [built5 0 7] } }
         canRecord s = true ∧ nextBuilt s = some (built5 0 7) ∧ tabWf s.ftl.map = true ∧ entryAt s (jUnit (jUnitKey (unitKey 1 5))) = 0)
      ∧ (let s := { on with etch := { built := [built5 3 7] } }
         canRecord s = true ∧ entryAt s (jUnit (jUnitKey (unitKey 1 5))) ≠ 3)
      ∧ (let b : Built := { built5 0 7 with type := 1, cmd := some cmd1.id, last := true }
         let s := { on with etch := { built := [b] }, host := { exec := [exec1 .built 1 0] } }
         nextBuilt s = some b ∧ (findCmd s cmd1.id).map (·.opcode) = some 1)
      ∧ (let s := { on with etch := { admitHold := true } }
         s.etch.admitHold = true ∧ occupancyPct s < admitLow s)
      ∧ occupancyPct on < admitHigh on
      ∧ (let s := { on with etch := { slots := [(0, { n := dataSlots, key := 0, tenant := 1, readers := 0, freed := false })] } }
         admitHigh s ≤ occupancyPct s)
      ∧ (let s := { on with etch := { jrnlHold := true } }
         s.etch.jrnlHold = true ∧ liveBytes s + 16 * 1048576 < liveMax s)
      ∧ (let s := { on with etch := { live := [{ type := 1, seq := 0, stamp := 0, tenant := 0, entries := [], len := liveMax on }] } }
         liveMax s ≤ liveBytes s + 16 * 1048576) := by
  decide

/-- A family 3 swath of block 0 of dies 0 to 31, with room and some stripes done, and the Etch buffer as given. -/
def withMirrors (done : List Nat) (e : Etch) : State :=
  let s := withSwath true false 1 1 []
  let paged : Die → Die := fun d => { d with params := { noParams with pages := 64, bits := 1, pageBytes := 18592 } }
  { s with
    media := { chans := s.media.chans.map (fun c => (c.1, { c.2 with dies := c.2.dies.map (fun d => (d.1, paged d.2)) })) }
    ftl := { s.ftl with swaths := s.ftl.swaths.map (fun w => { w with family := 3, done := done }) }
    etch := { e with anchorSet := [0, 1, 2, 3] } }

/-- A settings update, the mirror of its store on page 0 of die 0, and anchor records of both kinds. -/
def update1 : SetUpdate := { body := {}, cmds := [cmd1.id], events := false }
def mirror1 : SetMirror := { copy := { seq := 1 }, words := [cwKey 0 0 0 0] }
def rootMirror1 : RootMirror := { img := { seq := 1, ok := true }, words := [cwKey 0 0 0 0] }
def anchor1 (root : Bool) : Anchor := { root := root, cur := nameOf 1 [cwKey 0 0 0 0], cmds := [cmd1.id] }
def rec1 : JRec := { type := 1, seq := 1, stamp := 0, tenant := 0, entries := [], len := 56 }

theorem test_hyp_CheckpointsSettingsAndLostEtchParts :
    (let s := { on with time := { master := BitVec.ofNat 64 (cpPeriod on) } }
     canRecord s = true ∧ s.power.started = true ∧ s.etch.cpOpen = none ∧ s.etch.lost0 = false ∧ s.etch.lost1 = false
        ∧ s.etch.cpAt + cpPeriod s ≤ now s)
      ∧ now on < on.etch.cpAt + cpPeriod on
      ∧ ({ on with etch := { cpOpen := some {} } } : State).etch.cpOpen = some {}
      ∧ (let s := withMirrors [] { live := [rec1], rootA := { ok := false } }
         canProgram s = true ∧ unmirrored s ≠ [] ∧ s.etch.rootActive = false ∧ s.etch.rootA.ok = false)
      ∧ (let s := withMirrors [] { rootA := rootMirror1.img }
         unmirrored s = [] ∧ s.etch.rootA.ok = true ∧ ((s.etch.mirrorRoots.getLast?).map (·.img.seq)).getD 0 < s.etch.rootA.seq)
      ∧ canProgram State.reset = false
      ∧ (let s := withMirrors [] { wanted := some update1 }
         let t := withMirrors [0] { update := some update1, mirrors := [mirror1] }
         s.etch.wanted = some update1 ∧ s.etch.update = none ∧ canRecord s = true ∧ s.power.settingsIn = true
           ∧ t.etch.update = some update1 ∧ mirrorOf t (t.etch.setSeq + 1) = some mirror1 ∧ wordsDone t mirror1.words = true
           ∧ update1.events = false ∧ update1.acts = [] ∧ wordsDone s mirror1.words = false ∧ mirror1.words ≠ [])
      ∧ placeStore { on with ftl := {} } (newStore on update1) = none
      ∧ (let s := { withMirrors [0] { anchorsDue := [anchor1 false] } with host := { exec := [exec1 .held 9 0] } }
         s.etch.anchorsDue = anchor1 false :: [] ∧ canProgram s = true ∧ (findCmd s cmd1.id).isSome = true
           ∧ anchorLost s (anchor1 false) = false ∧ anchorReady s (anchor1 false) = true ∧ (anchorPlace s 0).isSome = true
           ∧ (anchoredOn s (anchor1 false)).length < 3)
      ∧ (let s := withMirrors [] { anchorsDue := [anchor1 true], mirrorRoots := [rootMirror1] }
         anchorLost s (anchor1 true) = false ∧ anchorReady s (anchor1 true) = false)
      ∧ (let pages := [0, 640, 1280].map (fun d => (⟨blockKey d 0 * 8192, anchor1 false⟩ : AnchorPage))
         let s := withMirrors [] { anchorsDue := [anchor1 false], anchors := pages }
         3 ≤ (anchoredOn s (anchor1 false)).length)
      ∧ (let s := { on with
           ftl := { map := [(unitKey 1 5, etchEntry 1 401408 0)], namespaces := [(1, ns1)] }
           etch := { slots := [(401408, { n := 1, key := unitKey 1 5, tenant := 1, readers := 0, freed := false })] } }
         inDataRegion 401408 = true ∧ slotHolder s 401408 = some (unitKey 1 5) ∧ etchGone s = false
           ∧ tabGet s.ftl.namespaces (keyNsid (unitKey 1 5)) = some ns1)
      ∧ slotHolder on 401408 = none ∧ inDataRegion 401407 = false ∧ inDataRegion 1048576 = false
      ∧ on.etch.badLines0 < 64 ∧ on.etch.badLines1 < 64 ∧ ({ on with etch := { badLines0 := 64 } } : State).etch.badLines0 = 64
      ∧ ({ on with etch := { lost1 := true } } : State).etch.lost1 = true := by
  decide +kernel

/-- There is room for each mirror. -/
theorem test_hyp_mirrorsPlaced :
    (let s := withMirrors [] { live := [rec1] }
     (placeMirror s 2 ((unmirrored s).foldl (fun a r => a + r.len) 0) ((unmirrored s).map recordBytes).flatten).isSome = true)
      ∧ (placeRoot (withMirrors [] {}) rootMirror1.img).isSome = true
      ∧ (placeStore (withMirrors [] {}) (newStore (withMirrors [] {}) update1)).isSome = true := by
  decide +kernel

/-- `on` with function 0 enabled with an admin queue and I/O queue pair 1. -/
def queued (es : List SqEntry) : State :=
  { on with
    host := { ctrls := [(0, { en := true, rdy := true, sqs := [(0, { size := 16, cqid := 0, entries := [], tail := 0 }), (1, { size := 16, cqid := 1, entries := es, tail := 3 })],
                              cqs := [(0, { size := 16, head := 0, vector := 0, ien := true, posted := [] }), (1, { size := 16, head := 0, vector := 0, ien := true, posted := [] })] })] } }

/-- An admin command of function 0 with a data pointer of PRPs. -/
def admin (nsid c10 c11 : Dword) (data : List Byte) : NvCmd :=
  { cmd1 with id := { fn := 0, qid := 0, cid := 9 }, nsid := nsid, c10 := c10, c11 := c11, data := data }

theorem fresh_of_none {s : State} {c : NvCmd} (h : findCmd s c.id = none) : fresh s c := by
  intro e he
  rw [h] at he
  cases he

theorem test_hyp_adminPlain (nsid c10 c11 : Dword) (data : List Byte) : adminPlain on (admin nsid c10 c11 data) :=
  ⟨rfl, rfl, rfl, rfl, rfl, rfl, rfl, rfl, rfl, rfl⟩

theorem test_hyp_QueuesFetchAndCompletions :
    (tabGet (ctrlAt (queued []) 0).sqs 1).map (fun q => (decide (15 < q.size), decide (q.tail < q.size))) = some (true, true)
      ∧ (tabGet (ctrlAt (queued []) 0).cqs 1).map (fun q => (decide (15 < q.size), decide (q.head < q.size))) = some (true, true)
      ∧ (let s := queued [{ cid := 4, opcode := 2, nsid := 1 }]
         nextTurn s = some 0 ∧ arbBurst s 0 = 1 ∧ (nextSq s (ctrlAt s 0)).map (·.1) = some 1 ∧ s.power.started = true ∧ s.power.fence = false ∧ s.power.pstate < 3
           ∧ findCmd s { fn := 0, qid := 1, cid := 4 } = none)
      ∧ (let c : Completion := { id := cmd1.id, sct := 0, sc := 0, dw0 := 0, dw1 := 0, data := [] }
         let s := { queued [] with host := { (queued []).host with waiting := [c], exec := [exec1 .executed 2 0] } }
         s.host.waiting = c :: [] ∧ strictOn s = false ∧ abortWaits s c = false
           ∧ (tabGet (ctrlAt s 0).cqs (cqOf s 0 1)).map (fun q => decide (q.posted.length + 1 < q.size)) = some true)
      ∧ findCmd (queued []) (admin 0 0 0 []).id = none
      ∧ (1 ≤ sqsAllowed (queued []) 0 ∧ tabGet (ctrlAt (queued []) 0).sqs 2 = none ∧ 2 ≤ sqsAllowed (queued []) 0
          ∧ 2 ≤ cqsAllowed (queued []) 0 ∧ 0 < vectorsOf (queued []) 0)
      ∧ (tabGet (ctrlAt (queued []) 0).sqs 1).isSome = true ∧ (tabGet (ctrlAt (queued []) 0).cqs 1).isSome = true
      ∧ (∃ e ∈ (ctrlAt (queued []) 0).sqs, e.2.cqid = 1)
      ∧ (let s := { queued [] with host := { (queued []).host with exec := [exec1 .held 1 0] } }
         (findCmd s cmd1.id).map (abortable s) = some true ∧ (∀ e ∈ s.host.exec, e.opcode = 0x08 → e.cmd.id = (admin 0 0 0 []).id))
      ∧ (let s := { queued [] with host := { (queued []).host with exec := [exec1 .reading 2 1] } }
         (findCmd s cmd1.id).map (abortable s) = some false)
      ∧ (ctrlAt (queued []) 0).aers.length < 16 ∧ eventFor (queued []) 0 = none
      ∧ eventFor { queued [] with host := { (queued []).host with asyncEvents := [(0, 0xC00001)] } } 0 = some (0, 0xC00001) := by
  refine ⟨by decide, by decide, by decide, by decide, by decide, by decide, by decide, by decide,
    ⟨(1, { size := 16, cqid := 1, entries := [], tail := 3 }), by decide, rfl⟩, by decide, by decide, by decide, by decide, by decide⟩

/-- `on` with namespace 1. -/
def withNs : State := { on with ftl := { namespaces := [(1, ns1)], exported := 2 ^ 30 } }

/-- The data of a create: 16 blocks, owner 1. -/
def createData : List Byte :=
  [16, 0, 0, 0, 0, 0, 0, 0, 16] ++ List.replicate 3069 0 ++ [1]

theorem test_hyp_AdminCommandsAnswerAndConfigure :
    (fnTenant withNs 0 = 1 ∧ fnTenant withNs 5 ≠ 1 ∧ isPhysical withNs 0 = true ∧ isPhysical withNs 1 = false)
      ∧ (0x07 : Dword).toNat &&& 0xF8 = 0 ∧ etchGone withNs = false ∧ withNs.host.sanitizing = none
      ∧ (tabGet withNs.ftl.namespaces 1).map (fun n => decide (n.home = withNs.cas.pos)) = some true
      ∧ (withNs.host.exec = [] ∧ withNs.chn.jobs = [] ∧ withNs.power.fence = false ∧ liveBytes withNs < liveMax withNs)
      ∧ (tabWf withNs.ftl.namespaces = true ∧ tabWf withNs.ftl.map = true ∧ tabWf withNs.ftl.overlay = true)
      ∧ (let s := { withNs with ftl := { namespaces := [(1, { ns1 with attach := [] })] } }
         attachCheck s (admin 1 0 0 [1, 0, 1, 0]) 0 = none ∧ attachCheck withNs (admin 1 1 0 [1, 0, 1, 0]) 1 = none
           ∧ listedFns withNs (padTo 4096 [1, 0, 1, 0]) = some [0])
      ∧ (pendingActs withNs).any isSanitize = false ∧ withNs.etch.jrnlHold = false
      ∧ (let s := { withNs with host := { sanitizing := some true } }
         canRecord s = true ∧ s.power.started = true ∧ (pendingActs s).contains .sanitizeEnd = false)
      ∧ dataErased withNs = true
      ∧ dataErased (withReads {} { st := 2 } []) = false := by
  decide

/-- A commit at which one act takes effect, with namespace 1 and no work of the host. -/
def committing (a : SavedAct) : State :=
  let s := withMirrors [0] { update := some { update1 with cmds := [], acts := [a] }, mirrors := [mirror1] }
  { s with ftl := { s.ftl with namespaces := [(1, ns1)], map := [] } }

theorem test_hyp_actsAtTheCommit :
    ∀ a ∈ [SavedAct.deleteNs 1, .formatNs 1 512 none, .sanitize true, .sanitizeEnd],
      let s := committing a
      s.etch.update = some { update1 with cmds := [], acts := [a] } ∧ canRecord s = true
        ∧ mirrorOf s (s.etch.setSeq + 1) = some mirror1 ∧ wordsDone s mirror1.words = true ∧ s.etch.jrnlHold = false
        ∧ tabGet s.ftl.namespaces 1 = some ns1 ∧ ns1.home = s.cas.pos ∧ s.host.exec = [] ∧ s.chn.jobs = []
        ∧ tabWf s.ftl.namespaces = true ∧ tabWf s.ftl.map = true ∧ tabWf s.ftl.overlay = true := by
  decide +kernel

theorem test_hyp_create :
    createCheck { withNs with host := { ctrls := [(0, { features := [(0xD2, 0)] })] } } (admin 0 0 0 createData) = none := by
  decide +kernel

theorem test_hyp_FirmwareSecondaryControllersAndSmbus :
    isPhysical on 0 = true
      ∧ (((1023 : Dword).toNat + 1) * 4 % 4096 = 0 ∧ (0 : Dword).toNat * 4 + ((1023 : Dword).toNat + 1) * 4 ≤ 33554432)
      ∧ (fld (0x09 : Dword) 0 3 = 1 ∧ fld (0x11 : Dword) 0 3 = 1 ∧ fld (0x09 : Dword) 3 3 = 1)
      ∧ (let g := fld (0x20108 : Dword) 16 16 - 1
         fnPort on g = fnPort on 0 ∧ isPhysical on g = false ∧ g ≠ 0 ∧ (ctrlAt on g).online = false
           ∧ flexAssigned on (fnPort on g) - (ctrlAt on g).flexQ + 1024 ≤ flexPool on)
      ∧ on.power.casRole = false
      ∧ (let s := { on with power := { on.power with casRole := true } }
         s.power.pwrOk = true ∧ s.power.casRole = true ∧ s.power.shutdown = false) := by
  decide

/-! ### Witnesses: I/O commands, channels, jobs -/

/-- An I/O command on block 5 of namespace 1. -/
def io5 (data : List Byte) : NvCmd := { cmd1 with c10 := 5, data := data }

/-- `withNs` with block 5 at an entry, and function 0 enabled. -/
def withEntry (e : Qword) : State :=
  { on with
    ftl := { namespaces := [(1, ns1)], map := if e = 0 then [] else [(unitKey 1 5, e)], exported := 2 ^ 30, mapFull := true }
    host := { ctrls := [(0, { en := true, rdy := true })] } }

theorem test_hyp_BlockWritesReadsAndDeallocations :
    ((withEntry 0).host.exec = [] ∧ tabGet (withEntry 0).ftl.namespaces (io5 []).nsid.toNat = some ns1
        ∧ ns1.home = (withEntry 0).cas.pos ∧ strictOn (withEntry 0) = false ∧ nlbOf (io5 []) = 1)
      ∧ ((withEntry 0).power.fence = false ∧ pagesWanted (withEntry 0) (unitKey 1 5) = [] ∧ unitKey 1 5 ∉ busyUnits (withEntry 0)
          ∧ (withEntry 0).etch.jrnlHold = false ∧ (withEntry 0).etch.admitHold = false)
      ∧ (eKind (entryAt (withEntry 0) (unitKey 1 5)) = 0 ∧ eKind (entryAt (withEntry zeroesEntry) (unitKey 1 5)) = 3
          ∧ eKind (entryAt (withEntry (flashEntry false 1 0 0 0 0 0)) (unitKey 1 5)) = 1)
      ∧ (eKind (flashEntry false 1 0 0 0 0 0) = 1 ∧ eComp (flashEntry false 1 0 0 0 0 0) = false ∧ eKind 0 ≠ 1)
      ∧ tenantSlots (withEntry 0) 1 + 1 ≤ etchShare (withEntry 0) 1
      ∧ ioChecks (withEntry 0) (io5 [1]) (reservedWrite (io5 [1])) [(5, 1)] (some (true, 4096)) true = none
      ∧ ioChecks (withEntry 0) (io5 []) (reservedRead (io5 [])) [(5, 1)] (some (false, 4096)) false = none
      ∧ ioChecks (withEntry 0) (io5 []) (reservedVerify (io5 [])) [(5, 1)] none false = none
      ∧ ioChecks (withEntry 0) (io5 []) (reservedZeroes (io5 [])) [(5, 1)] none true = none
      ∧ (let c := { io5 [0, 0, 0, 0, 1, 0, 0, 0, 5] with c10 := 0, c11 := 4 }
         dsmRanges c = [(5, 1)] ∧ ioChecks (withEntry 0) c (reservedDsm c) [(5, 1)] (some (true, 16)) true = none)
      ∧ (reservedOk (reservedAll cmd1) = true ∧ cmd1.id.fn ∈ ns1.attach) := by
  decide

theorem test_hyp_freeExtent : freeExtent (withEntry 0) 1 = some 401408 := by decide +kernel

theorem test_hyp_IoCommandsFailOrWaitAsStated :
    ioChecks (withEntry 0) { io5 [] with c10 := 1024 } (reservedWrite (io5 [])) [(1024, 1)] (some (true, 4096)) true = some stLbaRange
      ∧ stLbaRange ≠ stDeferred
      ∧ (reservedOk (reservedRead (io5 [])) = true ∧ nsFor (withEntry 0) 0 2 = none ∧ nsFor (withEntry 0) 0 1 = some ns1
          ∧ ns1.nsze < 1024 + 1)
      ∧ (let s := { withEntry 0 with power := { on.power with fence := true } }
         s.power.fence = true ∧ ioChecks s (io5 []) (reservedWrite (io5 [])) [(5, 1)] (some (true, 4096)) true = none)
      ∧ (let s := { withEntry 0 with etch := { deliveries := [(0, 1, 0)] } }
         ioChecks s (io5 []) (reservedRead (io5 [])) [(5, 1)] (some (false, 4096)) false = some stDeferred) := by
  decide

/-- `withEntry` with a reservation of namespace 1. -/
def reserved (r : Reservation) : State := { withEntry 0 with host := { reservations := [(1, r)] } }

theorem test_hyp_ReservationsRegisterHoldAndRelease :
    (findCmd (withEntry 0) cmd1.id = none ∧ (withEntry 0).etch.deliveries = [] ∧ tabGet (reservationAt (withEntry 0) 1).regs 0 = none)
      ∧ (let s := reserved { regs := [(0, 7)] }
         tabGet (reservationAt s 1).regs 0 = some 7 ∧ (7 : Qword).toNat = leAt [7] 0 8 ∧ (reservationAt s 1).holder = none)
      ∧ (let s := reserved { regs := [(0, 7), (1, 8)], holder := some 1, rtype := 6 - 3 }
         (reservationAt s 1).holder = some 1 ∧ (reservationAt s 1).rtype ≠ 5 ∧ (reservationAt s 1).rtype ≠ 6)
      ∧ (let s := reserved { regs := [(0, 7)], holder := some 0, rtype := 6 }
         (reservationAt s 1).holder = some 0 ∧ (reservationAt s 1).rtype = fld (0x600 : Dword) 8 8)
      ∧ (fld (0x600 : Dword) 0 8 = 0 ∧ fld (0x600 : Dword) 16 16 = 0 ∧ 1 ≤ fld (0x600 : Dword) 8 8 ∧ fld (0x600 : Dword) 8 8 ≤ 6) := by
  decide

/-- A lane program image of 1,024 bytes with no fields, filters or sums. -/
def lane0 : List Byte := [0x4B, 0x4C, 0x50, 0x31, 1, 0] ++ List.replicate 1018 0

/-- A channel from host to host without stages. -/
def chan0 : Channel :=
  { tenant := 1, fn := 0, src := 1, srcParam := 0, snk := 0, snkParam := 0, stages := [{ kind := 7, param := 1 }], qdepth := 4 }

/-- `on` with channel 0 in slot 0, generation 1, handle 40000h. -/
def withChannel (c : Channel) : State := { on with chn := { slots := [(0, c)], gens := [(0, 1)], used := 1 } }

theorem test_hyp_ProgramsAndChannelsLiveByTheirHandles :
    (findCmd on cmd1.id = none ∧ on.power.settingsRecovery = false)
      ∧ ((64 : Nat) % 4 = 0 ∧ programOk 1 (padTo 64 []) = false ∧ programsUsed on 1 < (tenantAt on 1).programs ∧ on.chn.pused < 4096
          ∧ tabGet on.chn.pgens 0 = none)
      ∧ (let s := { on with chn := { programs := [(0x1000, prog0)] } }
         progFor s 1 0x1000 = some prog0 ∧ progNamed s 0x1000 = false ∧ tabWf s.chn.programs = true ∧ progFor s 1 0x2000 = none)
      ∧ (let s := { withChannel { chan0 with stages := [{ kind := 5, param := 0x1000 }] } with
           chn := { slots := [(0, { chan0 with stages := [{ kind := 5, param := 0x1000 }] })], programs := [(0x1000, prog0)] } }
         progNamed s 0x1000 = true ∧ (progFor s 1 0x1000).isSome = true)
      ∧ (let c : NvCmd := { cmd1 with nsid := 0, c10 := 0x40101, c11 := 2 }
         let ch := specCreate on c
         listChecks false ch c.c10 c.c11 [c.c12, c.c13, c.c14, c.c15] = true ∧ upstreamCheck on ch = none ∧ nsCheck on ch = none
           ∧ ch.stages.all (stageKeyOk on 1) = true ∧ ch.stages.all (stageProgOk on 1 false) = true ∧ pairOk on [] ch.stages = true
           ∧ channelsUsed on 1 < (tenantAt on 1).channels)
      ∧ (let c : NvCmd := { cmd1 with nsid := 0, c10 := 0x40001 }
         let ch := specCreate on c
         listChecks false ch c.c10 c.c11 [c.c12, c.c13, c.c14, c.c15] = true ∧ dramFits on 1 (regionBytes (channelBytes ch)) = true
           ∧ on.chn.used < 16384 ∧ tabGet on.chn.gens 0 = none ∧ channelAt on 0 = none ∧ (∀ b ∈ channelBytes ch, b = 0))
      ∧ (resolve (withChannel chan0) 1 0x40000 = some 0 ∧ (withChannel chan0).chn.jobs = [] ∧ resolve (withChannel chan0) 1 0x80000 = none)
      ∧ (let s := { on with chn := { slots := [(0, { chan0 with dying := some false })], gens := [(0, 16383)],
                                     destroys := [{ id := cmd1.id, slots := [0], done := 0, bad := false }] } }
         (channelAt s 0).bind (·.dying) = some false ∧ tabWf s.chn.slots = true ∧ jobsOn s 0 = [] ∧ (∀ d ∈ s.chn.drains, d.slot ≠ 0))
      ∧ (let d : Drain := { id := cmd1.id, slot := 0, jobs := [3], exp := none, zero := true }
         let s := { on with chn := { slots := [(0, { chan0 with pool := some 2, snk := 2, snkParam := 1 })], drains := [d] } }
         s.chn.drains.find? (fun e => e.id == cmd1.id) = some d ∧ (channelAt s d.slot).isSome = true
           ∧ (∀ j ∈ d.jobs, tabGet s.chn.jobs j = none)) := by
  decide

/-- A job descriptor for handle 40000h that lets any length pass. -/
def desc0 : List Byte :=
  [0, 0, 4, 0, 3, 0, 0, 0] ++ List.replicate 40 0 ++ List.replicate 8 0xFF ++ List.replicate 72 0

theorem test_hyp_JobsAndAppendsAreAdmitted :
    (findCmd (withChannel chan0) cmd1.id = none ∧ desc0.length = 128 ∧ resolve (withChannel chan0) 1 (BitVec.ofNat 32 (leAt desc0 0 4)) = some 0)
      ∧ (let a : JobAsk := { slot := 0, desc := desc0, src := .sgl 1 false 4, snk := .sgl 1 false 64, append := false, data := [1, 2, 3, 4] }
         jobChecks (withChannel chan0) { cmd1 with nsid := 0 } a [] = none ∧ jobAway (withChannel chan0) 0 = none)
      ∧ (let a : JobAsk := { slot := 0, desc := desc0, src := .prp, snk := .prp, append := false, data := [] }
         jobChecks (withChannel chan0) { cmd1 with nsid := 0 } a [] = some stSglType ∧ stSglType ≠ stDeferred ∧ stSglType ≠ stQuota)
      ∧ (let c := { cmd1 with c10 := 4096 }
         ioChecks (withEntry 0) c (reservedAppend c) [] (some (true, 4096)) true = none ∧ c.c10.toNat % ns1.lbaSize = 0 ∧ c.c10.toNat ≠ 0)
      ∧ (let e := { exec1 .waitOrder 0x85 0 with cmd := { cmd1 with c10 := 4096 } }
         let s := { withEntry 0 with host := { exec := [e] } }
         findCmd s cmd1.id = some e ∧ e.assigned = false ∧ e.job = none ∧ heldByOrder s e = false
           ∧ admission s e.tenant e.nsid ns1 1 1 true = .pass ∧ appendPoint s 1 ns1 + 1 ≤ ns1.nsze)
      ∧ (keyNsid (unitKey 1 5) = 1 ∧ eKind (entryAt (withEntry zeroesEntry) (unitKey 1 5)) ≠ 0) := by
  decide +kernel

theorem test_hyp_TenantsAndKeySlotsAreConfigured :
    (isPhysical on 0 = true ∧ isPhysical on 5 = false ∧ (tenantAt on 1).enabled = true ∧ etchGone on = false)
      ∧ (let s := { on with tenants := { recs := [(2, { enabled := false })] } }
         ¬ (tenantAt s 2).enabled = true)
      ∧ ((∀ e ∈ on.ftl.namespaces, e.2.owner ≠ 2000) ∧ fnTenant on 5 ≠ 2)
      ∧ (fnPort on 5 = fnPort on 0 ∧ (ctrlAt on 5).en = false ∧ (∀ e ∈ on.chn.slots, e.2.fn ≠ 5))
      ∧ (let s := { on with drc := { chans := [(0, { st := 2 })] } }
         tabGet s.tenants.regions 1023 = none ∧ (placeRegion s 0 256 = none ∨ placeRegion s 0 256 = some 0)
           ∧ dramFits s 1 (256 * 4096) = true)
      ∧ (let s := { on with tenants := { regions := [(3, { base := 0, last := 255, tenant := 1, read := true, write := true, exec := false,
                                                             space := 0, named := true })] } }
         (tabGet s.tenants.regions 3).map (fun r => (r.tenant, r.space)) = some (1, 0) ∧ windowBound s 3 = false
           ∧ tabWf s.tenants.regions = true)
      ∧ (let s := { on with cry := { assemblies := [(0, { slot := 4095, bytes := List.replicate 16 0, parts := 1, at_ := 0 })] } }
         nextAssembly s 0 4095 1 [] = some { slot := 4095, bytes := List.replicate 16 0, parts := 2, at_ := 0 } ∧ now s ≤ 0 + 1000000000)
      ∧ (let b : List Byte := 1 :: List.replicate 15 0
         blobFieldsOk b = true ∧ leAt b 1 1 = 0 ∧ nextAssembly on 0 4095 0 b = some { slot := 4095, bytes := b, parts := 1, at_ := 0 }
           ∧ slotNamed on 4095 = false ∧ (slotAt on 4095).st = 0)
      ∧ blobFieldsOk [] = false := by
  decide

/-- Channel 0 with a job in it. -/
def withJob (c : Channel) (b : Job) : State :=
  { on with chn := { slots := [(0, c)], gens := [(0, 1)], used := 1, jobs := [(0, b)], programs := [(0, prog0)] } }

/-- A job of channel 0 with four bytes of input. -/
def jobA : Job := { cmd := cmd1.id, slot := 0, head := 0, tenant := 1, desc := {}, input := [1, 2, 3, 4], entered := true }

theorem test_hyp_JobsPassTheirStagesInOrder :
    (let s := withJob { chan0 with waitJobs := [0] } { jobA with entered := false }
     (jobAt s 0).isSome = true ∧ (channelAt s 0).map (·.waitJobs) = some [0] ∧ 0 < chan0.qdepth)
      ∧ (stageTurn (withJob { chan0 with jobs := [0] } { jobA with begun := true }) { chan0 with jobs := [0] } 0 0 = true
          ∧ inTooLong jobA 0 4 = false ∧ (stageOf chan0 0).kind = 7 ∧ chan0.stages ≠ [])
      ∧ (inTooLong { jobA with desc := { inLen := [3] } } 0 4 = true)
      ∧ (stageTurn (withJob { chan0 with jobs := [1, 0] } jobA) { chan0 with jobs := [1, 0] } 0 0 = true)
      ∧ (let b := { jobA with running := true, im := some { stage0 with done := true, descs := [] } }
         let s := withJob { chan0 with stages := [{ kind := 5, param := 0 }], jobs := [0] } b
         (stageOut s 0 b { kind := 5, param := 0 }).ok = true ∧ (stageOut s 0 b { kind := 5, param := 0 }).err = none
           ∧ inMax b 0 = true ∧ jobA.pend = 0 ∧ 0 < ({ jobA with pend := 1 } : Job).pend ∧ outMax b 0 = true ∧ outLen b 0 = 0xFFFFFFFF ∧ b.pend = 0 ∧ b.rerun = false)
      ∧ (inMax { jobA with desc := { inLen := [5] } } 0 = false ∧ 4 < inLen { jobA with desc := { inLen := [5] } } 0
          ∧ outMax { jobA with desc := { outLen := [5] } } 0 = false ∧ outLen { jobA with desc := { outLen := [5] } } 0 ≠ 0)
      ∧ ((descAt (usr usrDesc) 0).job = some 0 ∧ stage0.done = false ∧ stage0.limitMs * 1000 ≤ stageTime (usr usrDesc) stage0
          ∧ stageTime (usr usrDesc) { stage0 with limitMs := 1 } < 1 * 1000) := by
  decide

/-- A piece of job 0. -/
def piece0 : Piece := { job := 0, index := 0, base := 0, bytes := [], tenant := 1 }

/-- Its lane stage. -/
def laneJob0 : LaneJob :=
  { image := lane0, prog := 0x1000, maxLanes := 8, skip := false, outs := [], left := 1, table := [], failed := none, failAt := 0 }

theorem test_hyp_LanesAndCodecUnitsServePieces :
    (let s := { on with lanes := { queue := [piece0], jobs := [(0, laneJob0)] } }
     (activeLanes s).contains 0 = true ∧ (laneAt s 0).piece = none ∧ s.lanes.queue.find? (pieceMayRun s) = some piece0)
      ∧ (let s := { on with lanes := { lanes := [(0, { piece := some piece0 })], jobs := [(0, laneJob0)] } }
         (laneAt s 0).piece = some piece0 ∧ tabGet s.lanes.jobs 0 = some laneJob0 ∧ (parseLane laneJob0.image).output ≠ 1)
      ∧ (let x : CodecUse := { pool := .comp, unit := some 0, job := 0, stage := 0, since := 0, tenant := 1, saved := false }
         let y : CodecUse := { x with unit := none, job := 1 }
         let s := { on with codec := { uses := [x, y] }, time := { master := 1000000000 } }
         s.codec.uses.find? (fun z => z.pool == .comp && z.unit == some 0) = some x ∧ isCodecPool .comp = true ∧ codecDue s x = true
           ∧ codecDue { s with codec := { uses := [x] } } x = false)
      ∧ (let y : CodecUse := { pool := .comp, unit := none, job := 1, stage := 0, since := 0, tenant := 1, saved := true }
         let s := { on with codec := { uses := [y] } }
         (freeCodec s .comp).contains 0 = true ∧ s.codec.uses = [] ++ y :: [] ∧ codecWaits s .comp true y = true) := by
  decide +kernel

/-- Plate 0 of tenant 1, rows 0 to 15 of bank 0, spread, with `more` added to its second register; an entry at row 0 in the array and the
copy; steps that wait. -/
def camOn (more : Dword) (e : CamEntry) (steps : List CamStep) : State :=
  { on with
    bus := { active := [(0x1801000, 0x8003C000), (0x1801004, 0x101 ||| more)] }
    cam := { array := [(0, e)], copy := [(0, e)], steps := steps } }

/-- An entry of tenant 1 of one segment that every key matches. -/
def entry1 (v : Bool) : CamEntry := { value := 5, care := 0, tenant := 1, prio := 3, valid := v, width := 0, pos := 0 }

/-- A step of the host path at row 0. -/
def step0 (op : Nat) : CamStep := { path := .host, op := op, index := 0 }

/-- A key of one segment. -/
def key1 : SearchKey := { tenant := 1, plate := 0, key := zeros 18 }

theorem test_hyp_SearchTableUpdatesAndLookups :
    (let s := camOn 0 (entry1 true) [step0 1]
     tabWf s.bus.active = true ∧ camBusy s .host = true ∧ camBusy (camOn 0 (entry1 true) []) .host = false
       ∧ s.cam.steps.find? (fun e => e.path == .host) = some (step0 1)
       ∧ plateWith s 0 = some (plateAt s 0) ∧ pathMay .host (plateAt s 0).tenant = true ∧ (plateAt s 0).mirror = false
       ∧ (∀ b ∈ plateBanks (plateAt s 0), bankOk s b = true) ∧ isHead s (plateAt s 0) 0 = true ∧ chainConsistent s (plateAt s 0) 0 = true)
      ∧ chainConsistent (camOn 0 { entry1 true with width := 1 } [step0 3]) (plateAt (camOn 0 (entry1 true) []) 0) 0 = false
      ∧ (let s := camOn 0 (entry1 false) [step0 2]
         let g := stagedOf s .host
         s.cam.steps.find? (fun e => e.path == .host) = some (step0 2) ∧ (camCopy s 0).valid = false ∧ g.pos ≤ g.width ∧ g.pos ≤ 0 % 16384
           ∧ (0 % 16384 - g.pos) % chainAlign (g.width + 1) = 0 ∧ g.prio ≠ 0xFFFF)
      ∧ (camCopy (camOn 0 (entry1 true) [step0 2]) 0).valid = true
      ∧ (let s0 := camOn 0 (entry1 false) [{ path := .fw, op := 5, index := 0 }]
         let s := { s0 with bus := { active := [(0x1801000, 0x8003C000), (0x1801004, 1), (updKey 0x2C .fw, 1)] } }
         let g := stagedOf s .fw
         s.cam.steps.find? (fun e => e.path == .fw) = some { path := .fw, op := 5, index := 0 } ∧ tabWf s.bus.active = true
           ∧ plateWith s 0 = some (plateAt s 0) ∧ plateWith s g.indexB = some (plateAt s 0) ∧ pathMay .fw (plateAt s 0).tenant = true
           ∧ g.width = 0 ∧ g.pos = 0 ∧ (camCopy s 0).valid = false ∧ g.prio ≠ 0xFFFF ∧ g.indexB ≠ 0)
      ∧ plateWith on 0 = none ∧ (plateWith (camOn 0x200 (entry1 true) []) 0).any (fun q => !pathMay .host q.tenant) = true := by
  decide +kernel

theorem test_hyp_SearchTableLookupsAndChecks :
    (let s := camOn 0 (entry1 true) []
     let p := plateAt s 0
     servesTenant s 1 = true ∧ p.en = true ∧ p.tenant = 1 ∧ p.mirror = false ∧ p.cascade = false ∧ searchBanks s p ≠ []
       ∧ arrayMatches s p 1 (segmentsOf key1.key) = [0] ∧ chainMatches s true 0 1 (segmentsOf key1.key) = true
       ∧ (plateAt on 0).en = false ∧ arrayMatches (camOn 0 (entry1 false) []) p 1 (segmentsOf key1.key) = [])
      ∧ (let t := camOn 2 (entry1 true) []
         let s := { t with cam := { t.cam with banksOk := 0xFE } }
         searchBanks s (plateAt s 0) ≠ [] ∧ 0 ∈ plateBanks (plateAt s 0) ∧ bankOk s 0 = false)
      ∧ (let t := camOn 0 (entry1 true) []
         let s := { t with cam := { t.cam with array := [(0, entry1 false)] } }
         isDue s (tabAt 0 s.cam.checkedAt 0) (checkPeriod s) = true ∧ differingRows s 0 = [0] ∧ bankOk s 0 = true ∧ tabWf s.cam.array = true ∧ differingRows t 0 = [])
      ∧ (let s := camOn 0x200000 (entry1 true) []
         (plateAt s 0).cascade = true ∧ (camSearch s 1 0 key1.key []).head = some 0 ∧ (camCopy s 0).prio = 3) := by
  decide +kernel
/-! ### Witnesses: cipher and digest -/

/-- A request of unit 0 of job 0, and the stage that made it. -/
def req0 : CipherReq := { job := 0, index := 0, iv := 1, tenant := 1, data := zeros 16 }
def run0 : CipherRun :=
  { slot := 0, key := zeros 64, owner := 1, fixed := 0, gcm := false, encrypt := true, count := false, next := 1, out := 1, parts := [],
    failed := none }

/-- Island 0 with that request, and key slot 0 with a key of tenant 1. -/
def burin0 (r : CipherRun) (k : KeySlot) : State :=
  { on with
    cry := { burin := [(0, { queue := [req0] })], slots := [(0, k)], reseedAt := 0 }
    chn := { jobs := [(0, { job0 with cipher := some r })] } }

/-- A digest message of a path. -/
def msg0 : Msg :=
  { alg := 0, dest := 0, bytes := [], tenant := 1, opened := true, finished := false, done := false, waiting := false, saved := false,
    unit := some 0, since := 0, order := 0, ctxErr := false, lenErr := false, result := [] }

/-- A stage's message that waits for a unit. -/
def waiter : Msg := { msg0 with opened := true, waiting := true, unit := none }

theorem test_hyp_CipherRequestsAndDigestMessages :
    (let s := burin0 run0 {}
     unitUsable s .burin 0 0 = true ∧ (burinAt s 0).stalled = [] ∧ burinReady s 0 = true ∧ nextRequest s 0 = some req0
       ∧ (jobAt s req0.job).isSome = true ∧ run0.owner = req0.tenant ∧ run0.count = false
       ∧ { s with time := { master := 1000000 } }.cry.reseedAt + 1000000 ≤ now { s with time := { master := 1000000 } }
       ∧ now s < s.cry.reseedAt + 1000000 ∧ isDue s s.cry.reseedAt 1000 = true)
      ∧ (let r := { run0 with count := true }
         let s := burin0 r { st := 1, key := zeros 64, owner := 1, limit := 5 }
         (slotAt s 0).st = 1 ∧ (slotAt s 0).key = r.key ∧ usedMarkOf s 0 < (slotAt s 0).used + 1)
      ∧ (let b : Burin := { stalled := List.range 65 }
         burinReady { on with cry := { burin := [(0, b)] } } 0 = false)
      ∧ (let s := { on with cry := { msgs := [(.path .host, msg0)] } }
         msgOf s (.path .host) = some msg0 ∧ msgOf s (.path .fw) = none ∧ msg0.finished = false ∧ msg0.done = false
           ∧ (s.cry.msgs.map (·.1)).Nodup)
      ∧ (let m := { msg0 with finished := true, dest := 1 }
         m.finished = true ∧ m.done = false ∧ m.ctxErr = false ∧ m.bytes.length < 2 ^ 61 ∧ m.unit.isSome = true) := by
  decide +kernel

/-- Every general digest unit is held, and a stage waits. -/
def allHeld (v : Dword) : State :=
  { on with
    bus := { active := [(0x1A00008, v)] }
    cry := { msgs := (.stage 0 0, waiter) ::
      (List.range 200).map (fun n => (DgsOwner.stage (n + 1) 0, { msg0 with unit := some n, since := n })) } }

theorem test_hyp_DigestPreemptionAndRestore :
    (longestHolder (allHeld 50)).isSome = true ∧ (oldestWaiter (allHeld 50)).isSome = true ∧ freeDgs (allHeld 50) = []
      ∧ dgsSlice (allHeld 50) ≠ 0 ∧ dgsSlice (allHeld 0) = 0
      ∧ (let s := { on with cry := { msgs := [(.stage 0 0, { waiter with saved := true })] } }
         (freeDgs s).head? = some 0 ∧ oldestWaiter s = some (.stage 0 0, { waiter with saved := true })) := by
  decide +kernel

/-! ### Witnesses: arbiters, statistics, temperature -/

/-- A request of requester 0. -/
def arbReq0 : ArbReq := { requester := 0, cls := 2, line := 0, bank := 0, row := 0, tenant := 1, beats := 1, write := false }

/-- DRAM channel 0 of two ranks running, with one request that waits. -/
def dram0 (c : DChan) (x : Arb) : State := { on with drc := { chans := [(0, c)], arbs := [(0, x)] } }

theorem test_hyp_ArbitersRefreshAndEngineSlots :
    (let w : Waiting := { req := arbReq0, at_ := 0, aged := false }
     let s := dram0 { st := 2 } { waiting := [w] }
     candidates s 0 0 = [] ++ w :: [] ∧ arbRuns s 0 = true ∧ (arbAt s 0).suspended = false ∧ (arbAt s 0).atPort = []
       ∧ ownClass w ≤ 2 ∧ (dchanAt s 0).st = 2 ∧ postponedOf (dchanAt s 0) < 4
       ∧ 4 ≤ postponedOf { (dchanAt s 0) with postponed := [(0, 4)] } ∧ 0 < tabAt 0 (dchanAt (dram0 { st := 2, pulled := [(0, 1)] } {}) 0).pulled 0)
      ∧ (let w : Waiting := { req := arbReq0, at_ := 0, aged := false }
         let s := { on with drc := { arbs := [(8, { waiting := [w] }), (24, { waiting := [w] })] } }
         candidates s 8 0 = [] ++ w :: [] ∧ candidates s 24 0 = [] ++ w :: [] ∧ arbRuns s 8 = true ∧ arbRuns s 24 = true
           ∧ arbReq0.requester < arbRequesters 8)
      ∧ (arbAt on 0).waiting = [] ∧ (dchanAt on 0).st ≠ 2 ∧ refreshFalls on 0 0 true = true ∧ refreshFalls on 0 1 false = true
      ∧ isDue on (dchanAt on 0).windowAt (rhWindow on 0) = true
      ∧ (let s := { dram0 { ranks2 := true, refreshAt := [(0, 100)] } {} with time := { master := 2000 } }
         refreshFalls s 0 0 false = false ∧ refreshFalls s 0 1 true = true ∧ refreshFalls s 0 1 false = false)
      ∧ (let s := dram0 { st := 2 } { emergency := some 0, grants := [(0, arbReq0)] }
         emergencyAsks s 0 = true ∧ (arbAt s 0).suspended = false ∧ arbRuns s 0 = true ∧ (arbAt s 0).grants ≠ []
           ∧ (arbAt (dram0 {} { suspended := true }) 0).suspended = true ∧ emergencyAsks on 0 = false ∧ tabWf s.bus.active = true)
      ∧ (let s := { on with time := { master := 2000 } }
         clockRuns s isFabric = true ∧ frameTime s / 128000 = s.tenants.frameNo ∧ s.tenants.slot < frameTime s % 128000 / 2000
           ∧ strictOn s = false
           ∧ (let t := { s with bus := { active := [(0x1E00008, 1), (0x1E00100, 0x20001)] } }
              strictOn t = true ∧ slotTenant t (t.tenants.slot + 1) ≠ slotTenant t t.tenants.slot))
      ∧ (let s := { on with time := { master := 128000 } }
         clockRuns s isFabric = true ∧ s.tenants.frameNo < frameTime s / 128000 ∧ pendsIn s 0x1E00000 0x2000000 = []) := by
  decide +kernel

/-- Group 0 of 1 ms, open, with island `isFabric` as its one contributor. -/
def group0 (w : Group) (master : Nat) : State :=
  { on with
    bus := { active := [(stwBase 0 + 8, 1), (stwBase 0 + 0x400, 0x301)] }
    stw := [(0, { w with period := 1, boundary := 1000000, sources := [isFabric] })]
    time := { master := master } }

theorem test_hyp_StatisticsWindowsAndThermalStates :
    (let s := group0 {} 1000000
     (groupAt s 0).period ≠ 0 ∧ isFabric ∈ (groupAt s 0).sources ∧ isFabric ∉ (groupAt s 0).reported
       ∧ (groupAt s 0).boundary ≤ islandTime s isFabric ∧ (groupAt s 0).boundary ≤ now s ∧ clockRuns s isFabric = true
       ∧ now (group0 {} 5) < (groupAt s 0).boundary ∧ (groupAt s 0).boundary + 100000 < now (group0 {} 1100001))
      ∧ (groupAt (group0 { reported := [isFabric] } 1000000) 0).reported = (groupAt (group0 {} 0) 0).sources
      ∧ contributors (group0 {} 1000000) 0 = [isFabric]
      ∧ (on.power.aonOk = true ∧ on.power.shutdown = false ∧ on.power.pwrOk = true ∧ on.power.started = true
          ∧ isDue on on.therm.roundAt 1000000 = true ∧ isDue on on.therm.commitAt 600000000000 = true)
      ∧ State.reset.power.pwrOk = false ∧ ({ on with power := {} } : State).power.aonOk = false
      ∧ (let rs : List Int := List.replicate 64 125
         let t := takeReadings { on with therm := { hot := 1 } } rs [3]
         120 ≤ t.therm.tjMax ∧ (sensorAt t 0).broken = false ∧ (sensorAt t 0).suspect = false)
      ∧ (let s := { on with therm := { throttle := true, tjMax := 103 }, time := { master := 10000000000 } }
         s.therm.throttle = true ∧ s.therm.raising = false ∧ pauseMode s = false ∧ 103 ≤ s.therm.tjMax
           ∧ s.therm.graceAt + graceTicks s ≤ now s ∧ now { s with time := {} } < s.therm.graceAt + graceTicks s) := by
  decide +kernel
/-! ### Witnesses: cascade -/

/-- The device in a cascade. -/
def cascade (c : Cas) (master : Nat) : State := { on with cas := c, time := { master := master } }

/-- Master at position 0 with a member at position 1. -/
def master0 : Cas :=
  { opened := true, settled := true, roleCode := 1, pos := 0, count := 2, roles := [(0, 1), (1, 2)], ready := 3 }

/-- A frame that waits. -/
def frame0 (k : BitVec 4) (n : Nat) : TcbFrame := { kind := k, data := [], tries := n }

theorem test_hyp_CascadeRolesFramesAndTime :
    (let s := { cascade { opened := true, pos := 0, roles := [(0, 1), (1, 2)] } 0 with time := { master := 100000000 } }
     s.cas.startAt + 100000000 ≤ now s ∧ s.cas.opened = true ∧ s.cas.settled = false ∧ s.cas.pos = (if (15 : BitVec 4) = 15 then 0 else (15 : BitVec 4).toNat + 1)
       ∧ (s.cas.roles.filter (fun e => e.2 == 1)).length = 1 ∧ s.cas.chainFault = false ∧ s.cas.dupPos = false
       ∧ ((cascade { opened := true } 0).cas.roles.filter (fun e => e.2 == 1)).length ≠ 1)
      ∧ (let s := cascade { tcbQueue := [frame0 1 0, frame0 3 0, frame0 5 3] } 0
         s.cas.tcbQueue.find? (fun x => x.kind == 1) = some (frame0 1 0) ∧ s.cas.tcbQueue.find? (fun x => x.kind == 3) = some (frame0 3 0)
           ∧ s.cas.tcbQueue.find? (fun x => x.kind == 5) = some (frame0 5 3))
      ∧ (let s := cascade master0 20000000
         s.cas.roleCode = 1 ∧ 1 ≠ s.cas.pos ∧ 1 ∉ s.cas.lost ∧ 1 ∈ foundPositions s ∧ tabAt 0 s.cas.heard 1 + 20000000 ≤ now s
           ∧ now (cascade master0 5) < tabAt 0 s.cas.heard 1 + 20000000)
      ∧ (let s := cascade { master0 with roleCode := 2, pos := 1 } 0
         s.cas.roleCode = 2 ∧ masterPos s = some 0 ∧ s.cas.settled = true ∧ 2 ∉ s.cas.joining ∧ 2 ∉ s.cas.lost)
      ∧ (let s := cascade { serials := [(2, 7)] } 0
         s.cas.settled = false ∧ s.cas.roleCode ≠ 1 ∧ (∃ n, tabGet s.cas.serials 2 = some n ∧ n ≠ 8) ∧ tabGet s.cas.serials 3 = none)
      ∧ (let s := cascade { master0 with joining := [2], links := [(0, { st := 4, peerPos := 2 })] } 0
         2 ∈ s.cas.joining ∧ (linkAt s 0).st = 4 ∧ (linkAt s 0).peerPos = 2)
      ∧ (let s := cascade master0 1000000000
         s.time.syncAt + syncTicks s ≤ now s ∧ now (cascade master0 0) < s.time.syncAt + syncTicks s)
      ∧ (let s0 := cascade { master0 with roleCode := 2, pos := 1 } 5
         let s := { s0 with time := { master := 5, syncStamp := 5 } }
         s.time.aligned = false ∧ (s.time.syncStamp : Int) - ((9 : Qword).toNat : Int) < 0
           ∧ now s + ((s.time.syncStamp : Int) - ((9 : Qword).toNat : Int)).natAbs < 2 ^ 64
           ∧ ({ s with time := { aligned := true } } : State).time.aligned = true)
      ∧ (let s := cascade { master0 with roleCode := 2 } 1000000000000
         s.cas.roleCode = 2 ∧ Nat.max s.time.syncAt s.power.startAt + 10 * syncTicks s ≤ now s
           ∧ now (cascade { master0 with roleCode := 2 } 0) < Nat.max s.time.syncAt s.power.startAt + 10 * syncTicks s) := by
  refine ⟨?_, ?_, ?_, ?_, ⟨?_, ?_, ⟨7, ?_⟩, ?_⟩, ?_, ?_, ?_, ?_⟩ <;> decide +kernel

/-- A flit for position `d`. -/
def flit0 (d n : Nat) (ok : Bool) : Flit := { src := 1, dst := d, seq := n, crcOk := ok, ack := none }

theorem test_hyp_TabferLinksFlitsAndRemoteAccesses :
    (let s := cascade { master0 with links := [(0, { st := 1 }), (1, { st := 2, peerPos := 1 }), (2, { st := 3 })], recvSeq := [(1, 4)] } 0
     (linkAt s 0).st = 1 ∧ (linkAt s 0).trainAt + 40000000 ≤ now { s with time := { master := 40000000 } }
       ∧ now { s with time := {} } < (linkAt s 0).trainAt + 40000000 ∧ 1 ∉ s.cas.joining ∧ (7 : Qword) ≠ s.power.serial ∧ (linkAt s 1).st = 2 ∧ (linkAt s 2).st = 3
       ∧ (flit0 0 3 false).crcOk = false ∧ (flit0 0 3 true).dst = s.cas.pos ∧ flit0 0 3 true ∉ s.cas.heldFlits
       ∧ (∀ h ∈ s.cas.heldFlits, h.src ≠ 1) ∧ (flit0 0 3 true).seq < tabAt 0 s.cas.recvSeq 1
       ∧ (flit0 0 4 true).seq = tabAt 0 s.cas.recvSeq 1 ∧ tabAt 0 s.cas.recvSeq 1 < (flit0 0 5 true).seq)
      ∧ (let s := cascade { master0 with links := [(0, { st := 2, peerPos := 1 }), (1, { st := 2, peerPos := 2 })] } 0
         (linkAt s 0).st = 2 ∧ (flit0 2 0 true).dst ≠ s.cas.pos ∧ routeTo s 2 = some 1 ∧ (linkAt s 1).retry.length < 64
           ∧ tabWf s.cas.links = true)
      ∧ [flit0 0 3 true, flit0 0 4 true, flit0 0 5 true] = [flit0 0 3 true] ++ flit0 0 4 true :: [flit0 0 5 true]
      ∧ (let s := cascade master0 0
         s.cas.remote = none ∧ s.cas.roleCode = 1 ∧ 1 ≠ s.cas.pos ∧ s.cas.ready.getLsbD 1 = true ∧ s.cas.ready.getLsbD 2 = false)
      ∧ (cascade { master0 with roleCode := 2 } 0).cas.roleCode = 2
      ∧ (let x : Remote := { op := 1, pos := 1, at_ := 0 }
         let s := cascade { master0 with remote := some x } 50000
         s.cas.remote = some x ∧ s.cas.remote.isSome = true ∧ tabWf s.bus.active = true ∧ x.at_ + 50000 ≤ now s
           ∧ now (cascade master0 0) < x.at_ + 50000) := by
  decide +kernel

/-! ### Witnesses: scheduler, queue, canonical forms -/

/-- The supervisor thread with interrupts let in, and thread 1 that is ready at the same priority. -/
def schedOf (x y : Desc) (q : List (Nat × List Nat)) (master : Nat) : State :=
  { State.reset with
    sch := { descs := [(0, x), (1, y)], cores := [(0, { run := some 0 })], queues := q }, time := { master := master } }

theorem test_hyp_SchedulerStepsMoveThreads :
    (let s := sup supDesc
     tabWf s.bus.active = true ∧ tabWf s.sch.descs = true ∧ (descAt s 0).st ≠ 0 ∧ (descAt s 5).st = 0 ∧ 5 < fwDescs s
       ∧ stagedOk s .fw = false ∧ (descAt s 0).sup = true ∧ (descAt s 0).st ≠ 1
       ∧ (descAt (usr usrDesc) 0).sup = false ∧ fwDescs s ≤ 16383)
      ∧ (let w (v : Dword) : State :=
           { State.reset with bus := { active := [(stagingKey 0 false .fw, v)] } }
         stagedOk (w 0x403) .fw = true ∧ (stagedDesc (w 0x403) .fw).st = 3 ∧ stagedOk (w 0x401) .fw = true
           ∧ (stagedDesc (w 0x401) .fw).st = 1)
      ∧ (let s := schedOf { supDesc with fl := 0x300 } { supDesc with st := 1 } [(0, [1])] 1000000000
         (coreAt s 0).run = some 0 ∧ coreRunning s 0 = some 0 ∧ (descAt s 0).island = 0 / 8 ∧ sliceDue s 0 = true
           ∧ ieOf (descAt s 0) = true ∧ ieOf supDesc = false ∧ (descAt s 1).st = 1 ∧ (descAt s 1).sup = true
           ∧ supMode s 0 = true ∧ takesInterrupt s 0 = true ∧ takesInterrupt (sup supDesc) 0 = false ∧ dbgOpen { s with power := { lifecycle := 0 } } = true
           ∧ tabWf s.sch.locals = true ∧ tabWf s.sch.cluster = true ∧ (coreAt s 0).failed = false
           ∧ tabWf (tabAt (descAt s 0) s.sch.created 0).g = true
           ∧ now { s with time := {} } < (coreAt s 0).since + sliceUs s * 1000)
      ∧ (let s := sup { supDesc with wait := 1 }
         (descAt s 0).st = dsRunning ∧ (descAt s 0).wait ≠ 0
           ∧ (descAt s 0).waitAt + blockTicks s ≤ now { s with time := { master := 2000 } } ∧ now { s with time := {} } < (descAt s 0).waitAt + blockTicks s ∧ (coreAt s 1).run = none ∧ (coreAt s 1).failed = false)
      ∧ (coreAt { State.reset with sch := { cores := [(0, { failed := true })] } } 0).failed = true
      ∧ (let s := schedOf supDesc { supDesc with st := 3, wake := 5 } [] 9
         (descAt s 1).st = dsSleeping ∧ wakeDue s 1 = true ∧ wakeDue { s with time := {} } 1 = false)
      ∧ (let s := schedOf supDesc { supDesc with st := 4, wait := 1 } [] 0
         (descAt s 1).st = dsBlocked ∧ mayProceed s 1 = true
           ∧ mayProceed { s with cry := { msgs := [(.thread 1, { waiter with waiting := true })] } } 1 = false)
      ∧ dbgOpen on = false := by
  decide +kernel

theorem test_hyp_SchedulerSteps_stack : stackRoom (schedOf { supDesc with fl := 0x300 } supDesc [] 0) 0 0 (.core 0xFFF) (.core 0xFFE) := by
  refine ⟨by decide +kernel, by decide +kernel, by decide +kernel, by decide, ?_⟩
  rintro l (rfl | rfl) <;> decide

theorem test_hyp_StepRunsTheCommandInFront :
    ({ State.reset with pending := [.mapPrefetch] } : State).pending = .mapPrefetch :: [] ∧ State.reset.pending = []
      ∧ State.reset.power.aonOk = false ∧ on.power.aonOk = true ∧ ({ on with time := { refclk := true } } : State).time.refclk = true
      ∧ ({ on with time := { refclk := true } } : State).time.slew = 0 := by
  decide

theorem test_hyp_CommandsLeaveTheQueueAlone : ∃ t, exec .mapPrefetch State.reset = .next t := ⟨_, rfl⟩

theorem test_hyp_ImlasWordsRoundTrip :
    (let i := Instr.imAddi { t := 0, cond := 4, rd := 10, ra := 0, imm := 7 }
     WellFormed i = true ∧ plain i = true ∧ (imEncode i).isSome = true ∧ (issuer i).isSome = true)
      ∧ (imDecode 0 0x011400000).isSome = true := by
  decide
theorem test_hyp_EveryStepKeepsTheCanonicalForms :
    canonical on ∧ ∃ t, step on = .next t :=
  ⟨by unfold canonical; simp [on, State.reset]; decide, _, rfl⟩

/-! ### Ill-formed terms -/

/-- A register form of thread `t` with selector bits `fn`. -/
def rgOf (t : Nat) (fn : BitVec 11) : Rg := { t := t, cond := 0, rd := 1, ra := 2, rb := 3, fn := fn }
/-- An immediate form of thread `t`. -/
def imOfT (t : Nat) : Im := { t := t, cond := 0, rd := 1, ra := 2, imm := 0x8001 }
/-- A command of a function, a queue and an identifier. -/
def cmdOf (f q c : Nat) : NvCmd :=
  { id := { fn := f, qid := q, cid := c }, nsid := 0, c2 := 0, c3 := 0, c10 := 0, c11 := 0, c12 := 0, c13 := 0, c14 := 0, c15 := 0,
    ptr := cmd1.ptr, data := [], memOk := true }

/-- An offset beyond BAR2, a descriptor beyond the table, a function, a queue and a command number that cannot be. -/
theorem test_wellFormed_refuses_offsets_threads_commands :
    [WellFormed (.registerWrite { path := .host, off := 0x4000000, size := .dword, be := 15, wr := none }),
      WellFormed (.pairLoRead .host ⟨0x4000000, .dword⟩),
      WellFormed (.xregAccessComplete { path := .host, off := 0x4000000, wr := none }), WellFormed (.imAddi (imOfT 16384)),
      WellFormed (.imAdd (rgOf 16384 0)), WellFormed (.threadWake 16384), WellFormed (.debugHalt 16384),
      WellFormed (.flush (cmdOf 1024 0 0)), WellFormed (.flush (cmdOf 0 65536 0)), WellFormed (.flush (cmdOf 0 0 65536)),
      WellFormed (.jobSubmit (cmdOf 1024 0 0) cmd1.ptr cmd1.ptr []), WellFormed (.commandFetch 1024), WellFormed (.completionPost 1024 0),
      WellFormed (.doorbellWrite 0 65536 false 0 [] [] [])].all (· == false) := by
  decide

/-- A selector that is another row's, in each family. -/
theorem test_wellFormed_refuses_selectors :
    [WellFormed (.imAdd (rgOf 0 1)), WellFormed (.imFadd (rgOf 0 1)), WellFormed (.imQget (rgOf 0 1)), WellFormed (.imMfs (rgOf 0 1)),
      WellFormed (.imLb (.reg (rgOf 0 1)) false), WellFormed (.imSq (.imm (imOfT 16384))), WellFormed (.imBmov (rgOf 0 1) {}),
      WellFormed (.imDgStart (rgOf 0 2)), WellFormed (.imNop (rgOf 0 1))].all (· == false) := by
  decide

/-- Numbers of units that do not exist. -/
theorem test_wellFormed_refuses_numbers :
    [WellFormed (.islandTimeCorrection 178 0), WellFormed (.retrainStart 128), WellFormed (.eyeSample 0 256 0 0), WellFormed (.eyeSample 0 0 32 0),
      WellFormed (.eyeSample 0 0 0 16), WellFormed (.wpgStuck 8), WellFormed (.dieStatusTimeout 0 16), WellFormed (.stippleDramRead 8 0 {} []),
      WellFormed (.lineRemapCopyDone (.dram 8 0)), WellFormed (.lineRemapCopyDone (.sram 240 0 [])),
      WellFormed (.mediaTransactionEnd 0 [{ die := 16, data := false, tag := 0 }]),
      WellFormed (.mediaTransactionEnd 0 [{ die := 0, data := false, tag := 2048 }]),
      WellFormed (.eraseBegin 2048 0), WellFormed (.eraseBegin 0 16384), WellFormed (.mapPageLoaded 1 2 0), WellFormed (.anchorProgrammed 5),
      WellFormed (.etchDieLost 2), WellFormed (.pcieHotReset 4), WellFormed (.destroyComplete 16384), WellFormed (.lanePieceStart 9),
      WellFormed (.camRead .host 131072), WellFormed (.camArrayCheck 8 true []), WellFormed (.burinUnitStall 8 0), WellFormed (.burinUnitStall 0 9),
      WellFormed (.cipherRequest 8 0), WellFormed (.resultEarlyRead .host 16)].all (· == false)
    ∧ [WellFormed (.arbiterDecision 36 0 []), WellFormed (.arbiterDecision 8 1 []), WellFormed (.emergencyEnd 36), WellFormed (.refreshDue 8 0 false),
      WellFormed (.refreshDue 0 2 false), WellFormed (.rhWindowEnd 8), WellFormed (.windowLatch 16), WellFormed (.windowBoundaryReport 0 178 []),
      WellFormed (.sensorRound [] []), WellFormed (.sync 8), WellFormed (.memberLost 8), WellFormed (.tabferTrainTimeout 4),
      WellFormed (.rmtRead .host 8), WellFormed (.descRead .host 16384), WellFormed (.sliceExpiry 64), WellFormed (.tabferLossOfLock 4),
      WellFormed (.tabferLinkTrained 0 0 8 0 false 0), WellFormed (.tabferLinkTrained 0 0 0 4 false 0),
      WellFormed (.dieTemperatureRead 0 16 0)].all (· == false) := by
  decide

/-! ### Words of the manual's encoding (R448, R449, R452, R455 to R469), field by field: cond, op, rd, ra, rb, fn -/

theorem test_decode_registerForms :
    imDecode 0 0b0000_000000_00001_00010_00011_00000000000 = some (.imAdd (rgOf 0 0))
      ∧ imDecode 0 0b0000_000000_00001_00010_00011_11000000001 = some (.imSub (rgOf 0 0x601))
      ∧ imDecode 0 0b0000_000001_00001_00010_00011_00000000010 = some (.imFmul (rgOf 0 2))
      ∧ imDecode 0 0b0000_000010_00001_00010_00011_00000000011 = some (.imQmax (rgOf 0 3))
      ∧ imDecode 0 0b0000_000011_00001_00010_00011_00000000001 = some (.imMts (rgOf 0 1))
      ∧ imDecode 0 0b0000_010010_00001_00010_00011_00000000000 = some (.imLdwx (rgOf 0 0) false)
      ∧ imDecode 0 0b0000_011111_00001_00010_00011_00010001101 = some (.imSq (.reg (rgOf 0 0x8D)))
      ∧ imDecode 0 0b0000_100110_00001_00010_00011_00000000000 = some (.imPop (rgOf 0 0) false)
      ∧ imDecode 0 0b0000_110000_00001_00010_00011_10000000010 = some (.imBscan (rgOf 0 0x402) {})
      ∧ imDecode 0 0b0000_111001_00001_00010_00011_00000000100 = some (.imSupd (rgOf 0 4) false)
      ∧ imDecode 0 0b0000_111010_00001_00010_00011_00000000101 = some (.imDgResult (rgOf 0 5))
      ∧ imDecode 0 0b0000_111100_00001_00010_00011_00000001001 = some (.imEret (rgOf 0 9) false false) := by
  decide

theorem test_decode_immediateAndBranchForms :
    imDecode 0 0b0000_001000_00001_00010_1000000000000001 = some (.imShli (imOfT 0))
      ∧ imDecode 0 0b0000_010001_00001_00010_1000000000000001 = some (.imStw (imOfT 0))
      ∧ imDecode 0 0b0000_011000_00001_00010_1000000000000001 = some (.imLhs (.imm (imOfT 0)) false)
      ∧ imDecode 0 0b1111_100001_10000000000000000000000001 = some (.imCall { t := 0, cond := 15, off := 0x2000001 }) := by
  decide

theorem test_decode_reserved :
    imDecode 0 0b0000_001111_00001_00010_1000000000000001 = none ∧ imDecode 0 0b0000_000000_00001_00010_00011_00000011011 = none
      ∧ imDecode 0 0b0000_011111_00001_00010_00011_00000001001 = none ∧ imDecode 0 0b0000_111010_00001_00010_00011_00000000000 = none
      ∧ imDecode 0 0b0000_111111_00000_00000_00000_00000000000 = none := by
  decide

/-- The table gives no row bits. -/
theorem test_tableGivesNoBits : decodeTableWord 32 0 = none ∧ State.reset.withFetchWord 32 0 = State.reset := by decide

/-! ### One step on small states -/

/-- The state after a command. -/
def after (i : Instr) (s : State) : State :=
  match exec i s with
  | .next t => t
  | _ => s

/-- R440, R452: 7 of quality 0h plus −1 of quality 9h is 6 of quality 9h, with C and without Z (FL bits as R437 places them). -/
theorem test_add_carriesAndKeepsTheQuality :
    (let s := after (.imAdd { t := 0, cond := 0, rd := 5, ra := 1, rb := 2, fn := 0x200 }) (sup supDesc)
     tabAt 0 (descAt s 0).g 5 = mkW 9 6 ∧ (descAt s 0).pc = 0x201) := by
  decide +kernel

/-- R453: −2^31 minus 7 with S is −2^31 with quality Bh. -/
theorem test_sub_saturates :
    tabAt 0 (descAt (after (.imSub { t := 0, cond := 0, rd := 5, ra := 3, rb := 1, fn := 0x401 }) (sup supDesc)) 0).g 5
      = mkW 11 0x80000000 := by
  decide +kernel

/-- R450: with Z clear EQ is false, and the instruction moves PC alone. -/
theorem test_falseCondition :
    descAt (after (.imAddi { t := 0, cond := 1, rd := 5, ra := 1, imm := 1 }) (sup supDesc)) 0 = { supDesc with pc := 0x201 } := by
  decide +kernel

/-- R461: BR by −6 from 200h. -/
theorem test_branch :
    (descAt (after (.imBr { t := 0, cond := 0, off := -6 }) (sup supDesc)) 0).pc = 0x1FA := by
  decide +kernel

/-- R469, R474: a privileged instruction in user mode ends the stage, and its threads leave. -/
theorem test_privilegedInUserMode_endsTheStage :
    (descAt (after (.imEret { t := 0, cond := 0, rd := 0, ra := 0, rb := 0, fn := 9 } false false) (usr usrDesc)) 0).st = 0 := by
  decide +kernel

/-- R465, R473, R142: an element whose source is uncorrectable ends the stage with Program Fault; an uncorrectable word popped
in supervisor mode enters the handler of code 0Bh. -/
theorem test_memoryErrors :
    ((jobAt (after (.imBmov { t := 0, cond := 0, rd := 0, ra := 0, rb := 0, fn := 0 } { lost := some (0, false) }) (usr strDesc))
        0).bind (·.failed)) = some stProgramFault
      ∧ (descAt (after (.imPop { t := 0, cond := 0, rd := 4, ra := 0, rb := 0, fn := 0 } true) (sup supDesc)) 0).pc = 0x158 := by
  decide +kernel

/-- R455: 3/2 rounds to the even 2, 5/2 to 2, and more than 5/2 to 3. -/
theorem test_roundEven : roundEven 3 1 false = 2 ∧ roundEven 5 1 false = 2 ∧ roundEven 5 1 true = 3 := by decide

/-! ### The check values of the standards that the manual cites (log 16) -/

theorem test_crc_checkValues :
    crc32c [0x31, 0x32, 0x33, 0x34, 0x35, 0x36, 0x37, 0x38, 0x39] = 0xE3069283
      ∧ crc32 [0x31, 0x32, 0x33, 0x34, 0x35, 0x36, 0x37, 0x38, 0x39] = 0xCBF43926 := by
  decide +kernel

theorem test_sha256_abc : (sha256 [0x61, 0x62, 0x63]).take 4 = [0xBA, 0x78, 0x16, 0xBF] := by decide +kernel

theorem test_aes256_fips197 :
    bytesOf (aesEncBlock (aesKeys ((List.range 32).map (BitVec.ofNat 8))) ((List.range 16).map (fun k => k * 17)))
      = [0x8E, 0xA2, 0xB7, 0xCA, 0x51, 0x67, 0x45, 0xBF, 0xEA, 0xFC, 0x49, 0x90, 0x4B, 0x49, 0x60, 0x89] := by
  decide +kernel

end Sys2Proof.Tests
end

section
/-! SUPPORT and proofs: the timebase (R16 to R21, R274, R595). -/

namespace Sys2Proof.Machine

open Sys2Proof.Safety

/-! ### The free-running counter -/

theorem step_of_pending_nil {s : State} (h : s.pending = []) : step s = .next (tick s) := by
  simp [step, h]

theorem tick_of_aonOk {s : State} (h : s.power.aonOk = true) : tick s = { s with time := tickTime s.time } := by
  simp [tick, h]

theorem tick_of_not_aonOk {s : State} (h : s.power.aonOk = false) : tick s = s := by
  simp [tick, h]

theorem slewStep_of_slew_zero {t : TimeSt} (h : t.slew = 0) : slewStep t = 0 := by
  simp [slewStep, h]

theorem tickTime_master_refclk {t : TimeSt} (hr : t.refclk = true) (hs : t.slew = 0) (hlt : t.master.toNat + 40000 < 2 ^ 64) :
    (tickTime t).master.toNat = t.master.toNat + 1 := by
  simp only [tickTime, hr, if_true, slewStep_of_slew_zero hs, BitVec.toNat_add, BitVec.toNat_ofNat]
  omega

/-- The accumulator of 37/64 loses nothing: counter and fraction together advance by 30,517 + 37/64 ticks (R17). -/
theorem tickTime_exact_clk32k {t : TimeSt} (hr : t.refclk = false) (hlt : t.master.toNat + 40000 < 2 ^ 64) :
    64 * (tickTime t).master.toNat + (tickTime t).frac.toNat = 64 * t.master.toNat + t.frac.toNat + 64 * 30517 + 37 := by
  have hf := t.frac.isLt
  simp only [tickTime, hr, Bool.false_eq_true, if_false, BitVec.toNat_add, BitVec.toNat_ofNat]
  omega

/-! ### Island copies (R18) -/

theorem exec_islandTimeCorrection {s : State} {i : Nat} (v : Qword) (hi : i < 178) (hc : clockRuns s i = true) :
    exec (.islandTimeCorrection i v) s
      = .next { s with time := { s.time with copyOff := tabSet 0 s.time.copyOff i (copyError s v) } } := by
  change execIslandTimeCorrection i v s = _
  simp [execIslandTimeCorrection, hi, hc]

theorem islandTime_setCopy_same (s : State) (i : Nat) (e : Int) (hw : tabWf s.time.copyOff = true)
    (hs : tabGet s.time.stopAt i = none) :
    islandTime { s with time := { s.time with copyOff := tabSet 0 s.time.copyOff i e } } i = ((now s : Int) + e).toNat := by
  simp [islandTime, hs, tabAt_set_same 0 _ i e hw, now]

theorem islandTime_setCopy_other (s : State) (i j : Nat) (e : Int) (h : j ≠ i) :
    islandTime { s with time := { s.time with copyOff := tabSet 0 s.time.copyOff i e } } j = islandTime s j := by
  simp [islandTime, tabAt_set_other 0 _ i j e h, now]

/-- A corrected copy is the sample, held to within two ticks of the master value. -/
theorem now_add_copyError (s : State) (v : Qword) (h : 2 ≤ now s) :
    (((now s : Int) + copyError s v).toNat : Int) = Max.max ((now s : Int) - 2) (Min.min ((now s : Int) + 2) v.toNat) := by
  simp only [copyError]
  omega

/-! ### Steps and slews of the counter (R21) -/

/-- A step changes the windows it passes and their event register; it changes no time. -/
theorem noteStep_time (s : State) (old new : Nat) : (noteStep s old new).time = s.time := by
  refine List.foldlRecOn _ _ (motive := fun t : State => t.time = s.time) rfl ?_
  intro t ih e _
  simpa using ih

theorem rsqAt_noteStep_other (s : State) (old new off : Nat) (h : off ≠ evStw) :
    rsqAt (noteStep s old new) off = rsqAt s off := by
  refine List.foldlRecOn _ _ (motive := fun t : State => rsqAt t off = rsqAt s off) rfl ?_
  intro t ih e _
  rw [rsqAt_raise_other _ _ _ _ h]
  exact ih

theorem stepTime_of_lt {s : State} {v : Nat} (h : now s < v) :
    stepTime s v = noteStep { s with time := { s.time with master := BitVec.ofNat 64 v } } (now s) v := by
  simp [stepTime, stepForward, h]

theorem alignTime_forward {s : State} {off : Int} (ha : s.time.aligned = false) (ho : off < 0) :
    (alignTime s off).time
      = { s.time with master := BitVec.ofNat 64 (now s + off.natAbs), aligned := true, stepped := true, slew := 0 } := by
  simp [alignTime, ha, ho, stepTime_of_lt (show now s < now s + off.natAbs by omega), noteStep_time]

theorem rsqAt_alignTime (s : State) (off : Int) (k : Nat) (h : k ≠ evStw) : rsqAt (alignTime s off) k = rsqAt s k := by
  simp only [alignTime]
  split
  · simp only [stepTime, stepForward]
    split
    · exact rsqAt_noteStep_other _ _ _ k h
    · rfl
  · rfl

theorem alignTime_slew {s : State} {off : Int} (h : s.time.aligned = true ∨ 0 ≤ off) :
    alignTime s off = { s with time := { s.time with aligned := true, slew := -off } } := by
  have : (!s.time.aligned && decide (off < 0)) = false := by
    rcases h with h | h
    · simp [h]
    · simp [Int.not_lt.mpr h]
  simp [alignTime, this]

/-! ### PTM (R274) -/

/-- How far the counter is ahead of a host's time. -/
def ptmOff (s : State) (h : Qword) : Int := (now s : Int) - (h.toNat : Int)

/-- The state once an exchange has aligned the counter, where ALIGN_EN is set. -/
def ptmAligned (s : State) (h : Qword) : State := if ptmAligns s then alignTime s (ptmOff s h) else s

/-- The state after an exchange that is due: the offset is kept, and the first step of the counter is an event. -/
def ptmExchanged (s : State) (h : Qword) : State :=
  let s2 := raiseIf ((ptmAligned s h).time.stepped && !s.time.stepped) (ptmAligned s h) evHif 3
  { s2 with time := { s2.time with ptmValid := true, ptmOffset := ptmOff s h, ptmAt := now s2 } }

theorem exec_ptmExchange_due {s : State} (h : Qword) (hp : s.power.pwrOk = true) (hd : isDue s s.time.ptmAt (ptmPeriod s) = true) :
    exec (.ptmExchange h) s = .next (ptmExchanged s h) := by
  change execPtmExchange h s = _
  simp only [execPtmExchange, hp, hd, Bool.not_true, Bool.or_false, Bool.false_eq_true, if_false]
  rfl

theorem now_ptmExchanged (s : State) (h : Qword) : now (ptmExchanged s h) = now (ptmAligned s h) := by
  simp [ptmExchanged, now]

theorem ptmExchanged_slew (s : State) (h : Qword) : (ptmExchanged s h).time.slew = (ptmAligned s h).time.slew := by
  simp [ptmExchanged]

theorem rsqAt_ptmExchanged_of_stepped {s : State} {h : Qword} (h1 : (ptmAligned s h).time.stepped = true)
    (h0 : s.time.stepped = false) : rsqAt (ptmExchanged s h) evHif = rsqSet (rsqAt (ptmAligned s h) evHif) [3] := by
  rw [← rsqAt_raise_same]
  simp [ptmExchanged, h1, h0, raiseIf, rsqAt]

theorem ptmAligned_of_off {s : State} (h : Qword) (ha : ptmAligns s = false) : ptmAligned s h = s := by
  simp [ptmAligned, ha]

/-- The first alignment to a later time sets the counter to it. -/
theorem ptmAligned_time_forward {s : State} {h : Qword} (ha : ptmAligns s = true) (hf : s.time.aligned = false)
    (hlt : now s < h.toNat) :
    (ptmAligned s h).time = { s.time with master := h, aligned := true, stepped := true, slew := 0 } := by
  have hsum : now s + (ptmOff s h).natAbs = h.toNat := by simp only [ptmOff]; omega
  simp only [ptmAligned, ha, if_true]
  rw [alignTime_forward hf (by simp only [ptmOff]; omega), hsum, BitVec.ofNat_toNat, BitVec.setWidth_eq]

/-- Every other alignment is a slew and leaves the counter. -/
theorem ptmAligned_slew {s : State} {h : Qword} (ha : ptmAligns s = true) (hf : s.time.aligned = true ∨ h.toNat ≤ now s) :
    ptmAligned s h = { s with time := { s.time with aligned := true, slew := -ptmOff s h } } := by
  simp only [ptmAligned, ha, if_true]
  exact alignTime_slew (hf.imp id fun hle => by simp only [ptmOff]; omega)

theorem rsqAt_ptmAligned (s : State) (h : Qword) : rsqAt (ptmAligned s h) evHif = rsqAt s evHif := by
  unfold ptmAligned
  split
  · exact rsqAt_alignTime s _ evHif (by decide)
  · rfl

/-- An exchange never sets the counter back (R21). -/
theorem now_le_now_ptmAligned (s : State) (h : Qword) : now s ≤ now (ptmAligned s h) := by
  cases ha : ptmAligns s with
  | false => exact Nat.le_of_eq (congrArg now (ptmAligned_of_off h ha).symm)
  | true =>
    by_cases hf : s.time.aligned = true ∨ h.toNat ≤ now s
    · rw [ptmAligned_slew ha hf]
      exact Nat.le_refl _
    · obtain ⟨hna, hlt⟩ := not_or.mp hf
      simp only [now, ptmAligned_time_forward ha (by simpa using hna) (Nat.lt_of_not_le hlt)]
      exact Nat.le_of_lt (Nat.lt_of_not_le hlt)

theorem exec_ptmLost {s : State} (hp : s.power.pwrOk = true) (hd : Nat.max s.time.ptmAt s.power.startAt + 10 * ptmPeriod s ≤ now s) :
    exec .ptmLost s = .next (raise { s with time := { s.time with ptmValid := false } } evHif 4) := by
  change execPtmLost s = _
  simp only [execPtmLost, hp, Bool.true_and, decide_eq_true hd, if_true]

theorem exec_aonTimebaseLoss {s : State} (hp : s.power.pwrOk = false) :
    exec .aonTimebaseLoss s = .next { takeFree s with
      time := { s.time with aonLost := true, master := freeNow s, frac := 0 }, therm := { s.therm with held := [] } } := by
  change execAonTimebaseLoss s = _
  simp [execAonTimebaseLoss, hp]

/-- Settles O26: an idle step is one advance, and each correction moves the counter forward, slews it, or leaves it. -/
theorem timebaseAdvancesAndIsCorrected : Obligations.TimebaseAdvancesAndIsCorrected := by
  unfold Obligations.TimebaseAdvancesAndIsCorrected
  intro s t
  refine ⟨?advance, ?stopped, fun _ => rfl, ?copy, ?ptm, exec_ptmLost, ?loss, rfl⟩
  case advance =>
    intro hq hon hlt
    have hstep : step s = .next { s with time := tickTime s.time } := by rw [step_of_pending_nil hq, tick_of_aonOk hon]
    refine ⟨fun hr hs => ⟨_, hstep, ?_, rfl⟩, fun hr => ⟨_, hstep, rfl, ?_⟩⟩
    · exact tickTime_master_refclk hr hs hlt
    · exact tickTime_exact_clk32k hr hlt
  case stopped =>
    intro hq hon
    rw [step_of_pending_nil hq, tick_of_not_aonOk hon]
  case copy =>
    intro i v hi hc hs hw h2
    refine ⟨_, exec_islandTimeCorrection v hi hc, rfl, ?_, fun j hj => islandTime_setCopy_other s i j _ hj, rfl⟩
    rw [islandTime_setCopy_same s i _ hw hs, now_add_copyError s v h2]
  case ptm =>
    intro h hp hd
    refine ⟨_, exec_ptmExchange_due h hp hd, ?_, rfl, rfl, ?first, ?later, ?unaligned⟩
    · rw [now_ptmExchanged]
      exact now_le_now_ptmAligned s h
    case first =>
      intro ha hf hlt
      have htime := ptmAligned_time_forward ha hf hlt
      refine ⟨?_, ?_, fun h0 => ?_⟩
      · rw [now_ptmExchanged, now, htime]
      · rw [ptmExchanged_slew, htime]
      · rw [rsqAt_ptmExchanged_of_stepped (by rw [htime]) h0, rsqAt_ptmAligned]
    case later =>
      intro ha hf
      rw [now_ptmExchanged, ptmExchanged_slew, ptmAligned_slew ha (.inl hf)]
      exact ⟨rfl, by simp only [ptmOff]; omega⟩
    case unaligned =>
      intro ha
      rw [now_ptmExchanged, ptmExchanged_slew, ptmAligned_of_off h ha]
      exact ⟨rfl, rfl⟩
  case loss =>
    intro hp
    exact ⟨_, exec_aonTimebaseLoss hp, rfl⟩

end Sys2Proof.Machine
end

section
/-! SUPPORT and proofs: PWR_OK, device resets, controller resets and shutdown (R39, R86, R225, R228, R239 to R241, R270, R597). -/

namespace Sys2Proof.Machine

open Sys2Proof.Safety

/-! ### Starts from stage 0 (R39, R228) -/

theorem coldFacts_coldState (s : State) : coldFacts s (coldState s) :=
  ⟨rfl, rfl, rfl, rfl, rfl, rfl, rfl, rfl, rfl, fun _ => rfl, rfl, rfl, rfl, rfl, rfl, rfl, rfl, rfl, rfl⟩

/-- `u` is a cold state of `s` in which a start runs in stage 0, with its cause. -/
def begunFrom (s u : State) (cause : Nat) : Prop :=
  coldFacts s u ∧ u.power.pwrOk = true ∧ u.power.stage = some 0 ∧ u.power.cause.toNat = cause ∧ u.power.fence = true
    ∧ u.power.started = false ∧ u.power.unclean = (s.power.ranBefore && !s.power.cleanRecord)
    ∧ u.power.readyDeadline = u.power.startAt + 1000000000
    ∧ (s.time.aonLost = false → now u = now s)
    ∧ (s.time.aonLost = true → latestTime s + 1000000000 < 2 ^ 64 → now u = latestTime s + 1000000000)

theorem now_beginStart_of_kept {s : State} (cause : BitVec 4) (h : s.time.aonLost = false) : now (beginStart s cause) = now s := by
  simp [beginStart, now, h]

/-- A counter that was lost restarts one second past the latest time found (R20). -/
theorem now_beginStart_of_lost {s : State} (cause : BitVec 4) (h : s.time.aonLost = true)
    (hlt : latestTime s + 1000000000 < 2 ^ 64) : now (beginStart s cause) = latestTime s + 1000000000 := by
  simpa [beginStart, now, h, secTicks] using hlt

theorem begunFrom_beginStart (s : State) (cause : BitVec 4) : begunFrom s (beginStart s cause) cause.toNat :=
  ⟨coldFacts_coldState s, rfl, rfl, rfl, rfl, rfl, rfl, rfl, now_beginStart_of_kept cause, now_beginStart_of_lost cause⟩

/-- An ALARM is a frame in the queue of the coordination bus and nothing else. -/
theorem sendAlarm_eq (was s : State) (code : Byte) : ∃ q, sendAlarm was s code = { s with cas := { s.cas with tcbQueue := q } } := by
  unfold sendAlarm
  split
  · exact ⟨_, rfl⟩
  · exact ⟨s.cas.tcbQueue, rfl⟩

theorem begunFrom_resetDevice (s : State) (cause : BitVec 4) : begunFrom s (resetDevice s cause) cause.toNat := by
  obtain ⟨q, hq⟩ := sendAlarm_eq s
    { beginStart s cause with cam := { (beginStart s cause).cam with epoch := s.cam.epoch + 1 } } 3
  rw [resetDevice, hq]
  exact begunFrom_beginStart s cause

/-- After a cold state GLB_RESET_CTL holds no KIND. -/
theorem regFld_resetCtl_of_coldFacts {s u : State} (h : coldFacts s u) : regFld u 0x40 0 4 = 0 := by
  obtain ⟨-, -, -, -, -, -, -, -, -, hreg, -⟩ := h
  rw [regFld, hreg]
  decide

theorem exec_pwrOkRise {s : State} (pins : SampledPins) (h : s.power.pwrOk = false) :
    exec (.pwrOkRise pins) s
      = .next (beginStart { s with power := { s.power with casRole := pins.casRole, vioHigh := pins.vioHigh } } 0) := by
  change execPwrOkRise pins s = _
  simp [execPwrOkRise, h]

theorem exec_pwrOkFall_short (s : State) {ns : Nat} (h : ns < 1000) : exec (.pwrOkFall ns) s = .next s := by
  change execPwrOkFall ns s = _
  simp [execPwrOkFall, h]

theorem exec_pwrOkFall_long {s : State} {ns : Nat} (hp : s.power.pwrOk = true) (h : 10000 ≤ ns) :
    exec (.pwrOkFall ns) s = .next (coldState s) := by
  change execPwrOkFall ns s = _
  simp [execPwrOkFall, hp, h, show ¬ ns < 1000 by omega]

theorem exec_deviceReset (s : State) :
    exec .deviceReset s = .next (if regFld s 0x40 0 4 = 2 then resetDevice s 2 else s) := by
  change execDeviceReset s = _
  unfold execDeviceReset
  split <;> rfl

theorem exec_keeperWatchdog {s : State} (hp : s.power.pwrOk = true) (hs : s.power.shutdown = false) :
    exec .keeperWatchdog s = .next (resetDevice s 4) := by
  change execKeeperWatchdog s = _
  simp [execKeeperWatchdog, hp, hs]

/-! ### Controller resets (R86, R239, R241) -/

/-- The controllers of some functions bare, with no events and no import assemblies of theirs. -/
def bareCtrls (t : State) (p : Nat → Bool) : State :=
  { t with
    cry := { t.cry with assemblies := t.cry.assemblies.filter (fun e => !p e.1) }
    host := { t.host with
      asyncEvents := t.host.asyncEvents.filter (fun e => !p e.1)
      ctrls := t.host.ctrls.map (fun e =>
        if p e.1 then (e.1, { ({} : Ctrl) with flexQ := e.2.flexQ, flexI := e.2.flexI, online := e.2.online }) else e) } }

theorem resetFns_eq (s : State) (p : Nat → Bool) :
    resetFns s p = resumeJobs (resumeCmds (bareCtrls (discardRwb (dropAll (killChannels s p) (fun id => p id.fn))) p)) := rfl

theorem eq_false_of_mem_filter_not {α : Type} {q : α → Bool} {l : List α} {a : α} (h : a ∈ l.filter (fun x => !q x)) : q a = false := by
  simpa using (List.mem_filter.mp h).2

/-- No command, completion, drain or destruction of the commands given up is left. -/
theorem dropAll_drops (s : State) (mine : CmdId → Bool) :
    (∀ e ∈ (dropAll s mine).host.exec, mine e.cmd.id = false)
      ∧ (∀ c ∈ (dropAll s mine).host.waiting, mine c.id = false)
      ∧ (∀ d ∈ (dropAll s mine).chn.drains, mine d.id = false)
      ∧ (∀ d ∈ (dropAll s mine).chn.destroys, mine d.id = false) := by
  simp only [dropAll, dropCmds]
  exact ⟨fun _ => eq_false_of_mem_filter_not (q := fun e : ExecCmd => mine e.cmd.id),
    fun _ => eq_false_of_mem_filter_not (q := fun c : Completion => mine c.id),
    fun _ => eq_false_of_mem_filter_not (q := fun d : Drain => mine d.id),
    fun _ => eq_false_of_mem_filter_not (q := fun d : Destroy => mine d.id)⟩

theorem mem_bareCtrls_ctrls {t : State} {p : Nat → Bool} {e : Nat × Ctrl} (he : e ∈ (bareCtrls t p).host.ctrls) (hp : p e.1 = true) :
    e.2 = { ({} : Ctrl) with flexQ := e.2.flexQ, flexI := e.2.flexI, online := e.2.online } := by
  obtain ⟨e0, -, rfl⟩ := List.mem_map.mp he
  cases h0 : p e0.1 with
  | true => rfl
  | false => simp [h0] at hp

theorem controllersReset_bareCtrls {t : State} {p : Nat → Bool}
    (he : ∀ e ∈ t.host.exec, p e.cmd.id.fn = false) (hw : ∀ c ∈ t.host.waiting, p c.id.fn = false)
    (hr : ∀ d ∈ t.chn.drains, p d.id.fn = false) (hy : ∀ d ∈ t.chn.destroys, p d.id.fn = false) :
    controllersReset (bareCtrls t p) p :=
  ⟨he, hw, fun _ => mem_bareCtrls_ctrls, hr, hy, fun _ => eq_false_of_mem_filter_not (q := fun a : Nat × Assembly => p a.1)⟩

/-- `u` is a state in which the controllers of some functions have been reset and work that waited for them has gone on. -/
def fnsResetIn (u : State) (p : Nat → Bool) : Prop :=
  ∃ v, u = resumeJobs (resumeCmds v) ∧ controllersReset v p ∧ v.bus.rwb = []

theorem fnsResetIn_resetFns (s : State) (p : Nat → Bool) : fnsResetIn (resetFns s p) p := by
  rw [resetFns_eq]
  obtain ⟨he, hw, hr, hy⟩ := dropAll_drops (killChannels s p) (fun id => p id.fn)
  generalize dropAll (killChannels s p) (fun id => p id.fn) = t at he hw hr hy ⊢
  exact ⟨bareCtrls (discardRwb t) p, rfl, controllersReset_bareCtrls he hw hr hy, rfl⟩

theorem vfEnable_resetPort (s : State) (port : Nat) : (tabAt ({} : Port) (resetPort s port).host.ports port).vfEnable = false := by
  simp [resetPort]

theorem speed_dropLink (s : State) (port : Nat) : (tabAt ({} : Port) (dropLink s port).host.ports port).speed = 0 := by
  simp [dropLink]

theorem exec_controllerReset {s : State} (h : regFld s 0x40 0 4 = 1) :
    exec .controllerReset s = .next (resetControllers (setReg s 0x40 0)) := by
  change execControllerReset s = _
  simp [execControllerReset, h]

theorem exec_ccEnClear {s : State} {fn : Nat} (h : (ctrlAt s fn).en = true) :
    exec (.ccEnClear fn) s = .next (resetFns s (fun f => f == fn)) := by
  change execCcEnClear fn s = _
  simp [execCcEnClear, h]

theorem exec_functionLevelReset_physical {s : State} {fn : Nat} (h : isPhysical s fn = true) :
    exec (.functionLevelReset fn) s = .next (raise (resetPort s (fnPort s fn)) evHif 6) := by
  change execFunctionLevelReset fn s = _
  simp [execFunctionLevelReset, h]

theorem exec_functionLevelReset_virtual {s : State} {fn : Nat} (h : isPhysical s fn = false) :
    exec (.functionLevelReset fn) s = .next (raise (resetFns s (fun f => f == fn)) evHif 6) := by
  change execFunctionLevelReset fn s = _
  simp [execFunctionLevelReset, h]

theorem exec_pcieHotReset_perstAsserted {s : State} {port : Nat} (hlt : port < portCount s) (hp : s.power.perstN = false) :
    exec (.pcieHotReset port) s = .next (raise (dropLink (resetPort s port) port) evHif 5) := by
  change execPcieHotReset port s = _
  simp [execPcieHotReset, Nat.not_le.mpr hlt, hp]

/-! ### Enable (R40) -/

/-- A controller just enabled: its admin queues exist (log 51). -/
def enabledCtrl (started : Bool) (k : Ctrl) : Ctrl :=
  { k with
    en := true, rdy := started
    sqs := tabPut k.sqs 0 { size := 4096, cqid := 0, entries := [], tail := 0 }
    cqs := tabPut k.cqs 0 { size := 4096, head := 0, vector := 0, ien := true, posted := [] } }

theorem exec_ccEnSet {s : State} {fn : Nat} (he : (ctrlAt s fn).en = false) (hm : mayEnable s fn = true)
    (hn : s.power.noImage = false) (hp : s.power.pwrOk = true) (hlt : fnPort s fn < portCount s) :
    exec (.ccEnSet fn) s = .next (updCtrl s fn (enabledCtrl s.power.started)) := by
  change execCcEnSet fn s = _
  simp only [execCcEnSet, he, hm, hn, hp, decide_eq_false (Nat.not_le.mpr hlt), Bool.not_true, Bool.or_false,
    Bool.false_eq_true, if_false]
  rfl

/-! ### Shutdown (R270) -/

theorem exec_shutdownRequest {s : State} {fn : Nat} (he : (ctrlAt s fn).en = true) (hn : (ctrlAt s fn).shn = false) :
    exec (.shutdownRequest fn) s = .next (updCtrl s fn (fun k => { k with shn := true, shst := 1 })) := by
  change execShutdownRequest fn s = _
  simp [execShutdownRequest, he, hn]

/-- Every other controller is disabled or has shut down. -/
def lastUp (s : State) (fn : Nat) : Bool := s.host.ctrls.all (fun e => e.1 == fn || !e.2.en || e.2.shst == 2)

theorem lastUp_iff (s : State) (fn : Nat) :
    lastUp s fn = true ↔ ∀ e ∈ s.host.ctrls, e.1 = fn ∨ e.2.en = false ∨ e.2.shst = 2 := by
  simp [lastUp, or_assoc]

/-- A controller that shuts down has no command left but asynchronous event requests. -/
def drained (s : State) (fn : Nat) : Prop :=
  (ctrlAt s fn).shn = true ∧ (ctrlAt s fn).shst = 1
    ∧ ∀ e ∈ s.host.exec, e.cmd.id.fn = fn → e.cmd.id ∈ (ctrlAt s fn).aers

/-- The state with the root checkpoint of the last shutdown asked for, where it is still missing. -/
def rooted (s : State) : State := if rootDone s then s else shutdownRoot s

/-- The end of the shutdown of a controller whose commands have finished. -/
theorem exec_shutdownComplete {s : State} {fn : Nat} (h : drained s fn) :
    exec (.shutdownComplete fn) s
      = .next (
          let s1 := if lastUp s fn && !rootDone s then shutdownRoot s else s
          if lastUp s fn && !rootDone s1 then s1
          else updCtrl (if lastUp s fn then cleanShutdown s1 else s1) fn (fun k => { k with shst := 2 })) := by
  obtain ⟨hn, h1, hleft⟩ := h
  have hleft : (s.host.exec.any fun e => e.cmd.id.fn == fn && !(ctrlAt s fn).aers.contains e.cmd.id) = false := by
    simpa using hleft
  change execShutdownComplete fn s = _
  rw [execShutdownComplete, if_neg (by simp only [hn, h1, hleft]; decide), apply_ite Host.Outcome.next]
  rfl

theorem exec_shutdownComplete_notLast {s : State} {fn : Nat} (h : drained s fn) (hl : lastUp s fn = false) :
    exec (.shutdownComplete fn) s = .next (updCtrl s fn (fun k => { k with shst := 2 })) := by
  simp [exec_shutdownComplete h, hl]

theorem exec_shutdownComplete_last {s : State} {fn : Nat} (h : drained s fn) (hl : lastUp s fn = true)
    (hr : rootDone (rooted s) = true) :
    exec (.shutdownComplete fn) s = .next (updCtrl (cleanShutdown (rooted s)) fn (fun k => { k with shst := 2 })) := by
  have hs1 : (if lastUp s fn && !rootDone s then shutdownRoot s else s) = rooted s := by
    cases hd : rootDone s <;> simp [rooted, hl, hd]
  rw [exec_shutdownComplete h, hs1]
  simp [hl, hr]

theorem cleanRecord_cleanShutdown (s : State) : (cleanShutdown s).power.cleanRecord = (canRecord s || s.power.cleanRecord) := by
  cases h : canRecord s <;> simp [cleanShutdown, h]

theorem fence_of_canRecord {s : State} (h : canRecord s = true) : s.power.fence = false := by
  simp only [canRecord, Bool.and_eq_true, Bool.not_eq_true'] at h
  exact h.1.2

theorem settingsRecovery_of_canRecord {s : State} (h : canRecord s = true) : s.power.settingsRecovery = false := by
  simp only [canRecord, Bool.and_eq_true, Bool.not_eq_true'] at h
  exact h.2

theorem updRoot_power (s : State) (b : Bool) (g : RootImg → RootImg) : (updRoot s b g).power = s.power := by
  cases b <;> rfl

theorem updRoot_etch_lost0 (s : State) (b : Bool) (g : RootImg → RootImg) : (updRoot s b g).etch.lost0 = s.etch.lost0 := by
  cases b <;> rfl

/-- With both Etch dies the checkpoint of the last shutdown is in the Etch buffer at once. -/
theorem shutdownRoot_of_dies {s : State} (hc : canRecord s = true) (h0 : s.etch.lost0 = false) (h1 : s.etch.lost1 = false) :
    rootDone (shutdownRoot s) = true ∧ canRecord (shutdownRoot s) = true := by
  have hf := fence_of_canRecord hc
  have hs : s.power.settingsRecovery = false := settingsRecovery_of_canRecord hc
  simp [shutdownRoot, h0, h1, rootDone, canRecord, etchGone, discardRecs, updRoot_power, updRoot_etch_lost0, hf, hs]

theorem rooted_of_dies {s : State} (hc : canRecord s = true) (h0 : s.etch.lost0 = false) (h1 : s.etch.lost1 = false) :
    rootDone (rooted s) = true ∧ canRecord (rooted s) = true := by
  unfold rooted
  split
  · exact ⟨‹_›, hc⟩
  · exact shutdownRoot_of_dies hc h0 h1

theorem rootDone_of_recorded {s : State} (hc : canRecord s = true) (hs : s.etch.shutRoot = true) (ho : s.etch.cpOpen = none) :
    rootDone s = true := by
  simp [rootDone, hs, ho, fence_of_canRecord hc]

theorem rootDone_of_unrecordable {s : State} (h : etchGone s = true ∨ s.power.settingsRecovery = true) :
    rootDone s = true ∧ canRecord s = false := by
  rcases h with h | h <;> simp [rootDone, canRecord, h]

theorem rooted_of_rootDone {s : State} (h : rootDone s = true) : rooted s = s := by simp [rooted, h]

/-- `u` ends the shutdown of a controller, with a clean-shutdown record or without. -/
def endsShutdown (u : State) (fn : Nat) (clean : Bool) : Prop := (ctrlAt u fn).shst = 2 ∧ u.power.cleanRecord = clean

theorem endsShutdown_updCtrl (s : State) (fn : Nat) : endsShutdown (updCtrl s fn (fun k => { k with shst := 2 })) fn s.power.cleanRecord :=
  ⟨by rw [ctrlAt_updCtrl_same], rfl⟩

theorem shutdownComplete_notLast {s : State} {fn : Nat} (h : drained s fn) (hl : lastUp s fn = false) :
    ∃ u, exec (.shutdownComplete fn) s = .next u ∧ endsShutdown u fn s.power.cleanRecord :=
  ⟨_, exec_shutdownComplete_notLast h hl, endsShutdown_updCtrl s fn⟩

theorem shutdownComplete_last {s : State} {fn : Nat} {clean : Bool} (h : drained s fn) (hl : lastUp s fn = true)
    (hr : rootDone (rooted s) = true) (hc : (canRecord (rooted s) || (rooted s).power.cleanRecord) = clean) :
    ∃ u, exec (.shutdownComplete fn) s = .next u ∧ endsShutdown u fn clean := by
  rw [← hc, ← cleanRecord_cleanShutdown]
  exact ⟨_, exec_shutdownComplete_last h hl hr, endsShutdown_updCtrl _ fn⟩

/-- Settles O27: every start leaves a cold state in stage 0, every reset of functions drops what is theirs before waiting work goes
on, and the last shutdown leaves a clean-shutdown record once its checkpoint is done, unless no record can be written any more. -/
theorem deviceAndControllerResets : Obligations.DeviceAndControllerResets := by
  unfold Obligations.DeviceAndControllerResets
  refine ⟨fun s => ?device, fun s fn => ?controllers⟩
  case device =>
    refine ⟨?rise, fun ns => exec_pwrOkFall_short s, ?fall, ?reset, ?watchdog, ?none⟩
    case rise =>
      intro role vio hp
      exact ⟨_, exec_pwrOkRise _ hp, begunFrom_beginStart _ 0, rfl, rfl⟩
    case fall =>
      intro ns hp hns
      exact ⟨_, exec_pwrOkFall_long hp hns, coldFacts_coldState s, rfl, rfl⟩
    case reset =>
      intro hk
      have hbegun := begunFrom_resetDevice s 2
      exact ⟨_, by rw [exec_deviceReset, if_pos hk], hbegun, regFld_resetCtl_of_coldFacts hbegun.1⟩
    case watchdog =>
      intro hp hs
      exact ⟨_, exec_keeperWatchdog hp hs, begunFrom_resetDevice s 4⟩
    case none =>
      intro hk
      rw [exec_deviceReset, if_neg hk]
  case controllers =>
    refine ⟨?subsystem, ?controller, ?clear, ?flrVirtual, ?flrPhysical, ?hot, ?enable, ?request, ?complete⟩
    case subsystem => exact ⟨_, _, rfl, fnsResetIn_resetFns s _, rfl⟩
    case controller =>
      intro hk
      exact ⟨_, _, exec_controllerReset hk, fnsResetIn_resetFns _ _, rfl⟩
    case clear =>
      intro he
      exact ⟨_, exec_ccEnClear he, fnsResetIn_resetFns s _⟩
    case flrVirtual =>
      intro hv
      exact ⟨_, exec_functionLevelReset_virtual hv, fnsResetIn_resetFns s _⟩
    case flrPhysical =>
      intro hv
      exact ⟨_, exec_functionLevelReset_physical hv, rsqAt_raise_same _ _ _, by rw [raise_host, vfEnable_resetPort]⟩
    case hot =>
      intro hlt hp
      exact ⟨_, exec_pcieHotReset_perstAsserted hlt hp, by rw [raise_host, speed_dropLink], rsqAt_raise_same _ _ _⟩
    case enable =>
      intro he hm hn hp hlt
      refine ⟨_, exec_ccEnSet he hm hn hp hlt, ?_, ?_, ?_, ?_, fun g hg => ctrlAt_updCtrl_other s fn g _ hg, rfl⟩ <;>
        simp [ctrlAt_updCtrl_same, enabledCtrl]
    case request =>
      intro he hn
      exact ⟨_, exec_shutdownRequest he hn, ctrlAt_updCtrl_same s fn _, fun g hg => ctrlAt_updCtrl_other s fn g _ hg⟩
    case complete =>
      intro hn h1 hleft
      have hd : drained s fn := ⟨hn, h1, hleft⟩
      simp only [← lastUp_iff]
      refine ⟨fun hl => ?_, fun hl hc ⟨h0, h1⟩ => ?_, fun hl hc hs ho => ?_, fun hl hx => ?_⟩
      · exact shutdownComplete_notLast hd (by simpa using hl)
      · obtain ⟨hr, hc'⟩ := rooted_of_dies hc h0 h1
        exact shutdownComplete_last hd hl hr (by rw [hc', Bool.true_or])
      · have hr := rootDone_of_recorded hc hs ho
        exact shutdownComplete_last hd hl (by rwa [rooted_of_rootDone hr]) (by rw [rooted_of_rootDone hr, hc, Bool.true_or])
      · obtain ⟨hr, hc⟩ := rootDone_of_unrecordable hx
        exact shutdownComplete_last hd hl (by rwa [rooted_of_rootDone hr]) (by rw [rooted_of_rootDone hr, hc, Bool.false_or])

end Sys2Proof.Machine
end

section
/-! SUPPORT and proofs: records built, committed and applied, and the holds of admission and of the journal (R191, R203 to R208,
R214, R216, R223, R510). -/

namespace Sys2Proof.Machine

open Sys2Proof.Safety

/-! ### Steps that leave the map, SEQ and the completions -/

/-- `u` has the map, the replay overlay and the journal SEQ of `s`, and no completion that waits in `s` is gone. -/
structure KeepsMap (s u : State) : Prop where
  map : u.ftl.map = s.ftl.map
  overlay : u.ftl.overlay = s.ftl.overlay
  seq : u.etch.seq = s.etch.seq
  waiting : s.host.waiting ⊆ u.host.waiting

theorem KeepsMap.of_eq {s u : State} (hm : u.ftl.map = s.ftl.map) (ho : u.ftl.overlay = s.ftl.overlay)
    (hs : u.etch.seq = s.etch.seq) (hw : u.host.waiting = s.host.waiting) : KeepsMap s u :=
  ⟨hm, ho, hs, hw ▸ List.Subset.refl _⟩

theorem KeepsMap.refl (s : State) : KeepsMap s s := .of_eq rfl rfl rfl rfl

theorem KeepsMap.trans {s t u : State} (h1 : KeepsMap s t) (h2 : KeepsMap t u) : KeepsMap s u :=
  ⟨h2.map.trans h1.map, h2.overlay.trans h1.overlay, h2.seq.trans h1.seq, List.Subset.trans h1.waiting h2.waiting⟩

/-- A step from a state that differs from `s` in other parts alone. -/
theorem KeepsMap.of_start {s t u : State} (h : KeepsMap t u) (hm : t.ftl.map = s.ftl.map) (ho : t.ftl.overlay = s.ftl.overlay)
    (hs : t.etch.seq = s.etch.seq) (hw : t.host.waiting = s.host.waiting) : KeepsMap s u :=
  (KeepsMap.of_eq hm ho hs hw).trans h

theorem KeepsMap.foldl {α : Type} {f : State → α → State} (hf : ∀ t a, KeepsMap t (f t a)) (l : List α) (s : State) :
    KeepsMap s (l.foldl f s) :=
  List.foldlRecOn l f (motive := KeepsMap s) (.refl s) fun t ih a _ => ih.trans (hf t a)

theorem KeepsMap.ite {s t u : State} {c : Prop} [Decidable c] (ht : KeepsMap s t) (hu : KeepsMap s u) :
    KeepsMap s (if c then t else u) := by
  split
  · exact ht
  · exact hu

theorem entryAt_of_tables {s u : State} (hm : u.ftl.map = s.ftl.map) (ho : u.ftl.overlay = s.ftl.overlay) (k : Nat) :
    entryAt u k = entryAt s k := by
  simp only [entryAt, hm, ho]

theorem KeepsMap.entryAt {s u : State} (h : KeepsMap s u) (k : Nat) : entryAt u k = entryAt s k :=
  entryAt_of_tables h.map h.overlay k

theorem keepsMap_raise (s : State) (off bit : Nat) : KeepsMap s (raise s off bit) := .of_eq rfl rfl rfl rfl

theorem keepsMap_raiseIf (s : State) (c : Bool) (off bit : Nat) : KeepsMap s (raiseIf c s off bit) := by
  cases c
  · exact .refl s
  · exact keepsMap_raise s off bit

theorem keepsMap_releaseBlock (s : State) (k : Nat) : KeepsMap s (releaseBlock s k) := .of_eq rfl rfl rfl rfl

theorem keepsMap_freeExtentAt (s : State) (a : Nat) : KeepsMap s (freeExtentAt s a) := by
  unfold freeExtentAt
  split
  · exact .refl s
  · exact .ite (.of_eq rfl rfl rfl rfl) (.of_eq rfl rfl rfl rfl)

theorem keepsMap_countValid (s : State) (e : Qword) (up : Bool) : KeepsMap s (countValid s e up) :=
  .ite (.of_eq rfl rfl rfl rfl) (.refl s)

theorem keepsMap_joinCache (s : State) (page : Nat) : KeepsMap s (joinCache s page) := .ite (.refl s) (.of_eq rfl rfl rfl rfl)

theorem keepsMap_markDirty (s : State) (page seq : Nat) : KeepsMap s (markDirty s page seq) := .of_eq rfl rfl rfl rfl

theorem keepsMap_coverDeferred (s : State) (nsid a b : Nat) : KeepsMap s (coverDeferred s nsid a b) :=
  .ite (.of_eq rfl rfl rfl rfl) (.of_eq rfl rfl rfl rfl)

theorem keepsMap_countHost (s : State) (l : List (Nat × Nat × Nat)) : KeepsMap s (countHost s l) := .of_eq rfl rfl rfl rfl

/-! ### Completions and asynchronous events -/

@[simp] theorem completeWith_waiting (s : State) (id : CmdId) (st : Status) (dw0 dw1 : Dword) (data : List Byte) :
    (completeWith s id st dw0 dw1 data).host.waiting
      = s.host.waiting ++ [{ id := id, sct := st.1, sc := st.2, dw0 := dw0, dw1 := dw1, data := data }] := by
  simp [completeWith]

theorem keepsMap_completeWith (s : State) (id : CmdId) (st : Status) (dw0 dw1 : Dword) (data : List Byte) :
    KeepsMap s (completeWith s id st dw0 dw1 data) :=
  ⟨by simp [completeWith], by simp [completeWith], by simp [completeWith], by simp⟩

theorem keepsMap_asyncEvent (s : State) (f : Nat) (dw : Dword) : KeepsMap s (asyncEvent s f dw) := by
  simp only [asyncEvent]
  split
  · exact .refl s
  · split
    · refine .ite (.of_eq rfl rfl rfl rfl) ?_
      exact .of_start (keepsMap_completeWith _ _ _ _ _ _) rfl rfl rfl rfl
    · exact .ite (.refl s) (.of_eq rfl rfl rfl rfl)

theorem keepsMap_wantFaultEvent (s : State) : KeepsMap s (wantFaultEvent s) :=
  .ite (.foldl (fun t f => keepsMap_asyncEvent t f _) _ s) (.of_eq rfl rfl rfl rfl)

/-! ### Blocks, failed dies and rebuilds -/

theorem keepsMap_wakeOn (old new : State) : KeepsMap new (wakeOn old new) := .ite (.of_eq rfl rfl rfl rfl) (.refl new)

theorem keepsMap_setBlock (s : State) (die block action : Nat) (g : BlockRec → BlockRec) :
    KeepsMap s (setBlock s die block action g) := .of_eq rfl rfl rfl rfl

theorem keepsMap_updDie (s : State) (die : Nat) (g : Die → Die) : KeepsMap s (updDie s die g) := .of_eq rfl rfl rfl rfl

theorem keepsMap_changeRate (s : State) (ch : Nat) : KeepsMap s (changeRate s ch) :=
  .ite (.refl s) (.ite (.of_eq rfl rfl rfl rfl) (.ite (.of_eq rfl rfl rfl rfl) (.of_eq rfl rfl rfl rfl)))

theorem keepsMap_addFault (s : State) (chan die kind pin : Nat) (ident digest : Dword) :
    KeepsMap s (addFault s chan die kind pin ident digest) := .of_eq rfl rfl rfl rfl

theorem keepsMap_settleSpare (s : State) : KeepsMap s (settleSpare s) := by
  refine .trans ?_ (keepsMap_wakeOn s _)
  have hleft : ∀ n c, KeepsMap s (raiseIf c { s with ftl := { s.ftl with spareLeft := n } } evFtl 0) := fun n c =>
    .of_start (keepsMap_raiseIf _ c _ _) rfl rfl rfl rfl
  exact .ite (.trans (hleft _ _) (.of_eq rfl rfl rfl rfl)) (hleft _ _)

theorem keepsMap_closeSwath (s : State) (id : Nat) : KeepsMap s (closeSwath s id) := by
  simp only [closeSwath]
  split
  · exact .refl s
  · refine .ite (.refl s) (.of_start (.foldl ?_ _ _) rfl rfl rfl rfl)
    exact fun t m => .ite (keepsMap_setBlock t _ _ _ _) (.refl t)

theorem keepsMap_startRebuild (s : State) (chan : Nat) (die : Option Nat) : KeepsMap s (startRebuild s chan die) :=
  .ite (.of_eq rfl rfl rfl rfl) (.of_eq rfl rfl rfl rfl)

theorem keepsMap_nextRebuild (s : State) : KeepsMap s (nextRebuild s) := by
  unfold nextRebuild
  split
  · exact .refl s
  · exact .of_start (keepsMap_startRebuild _ _ _) rfl rfl rfl rfl

theorem keepsMap_failDie (s : State) (die : Nat) : KeepsMap s (failDie s die) := by
  refine .trans ?_ (keepsMap_startRebuild _ _ _)
  refine .trans ?_ (keepsMap_wantFaultEvent _)
  refine .trans ?_ (.foldl keepsMap_closeSwath _ _)
  refine .trans ?_ (keepsMap_settleSpare _)
  refine .trans ?_ (keepsMap_addFault _ _ _ _ _ _ _)
  refine .trans ?_ (keepsMap_raise _ _ _)
  exact (keepsMap_updDie s die _).trans (keepsMap_changeRate _ _)

theorem keepsMap_retireBlock (s : State) (die block : Nat) : KeepsMap s (retireBlock s die block) := by
  have h3 : ∀ g x, KeepsMap s (settleSpare (updDie (setBlock s die block 5 g) die x)) := fun g x =>
    ((keepsMap_setBlock s die block 5 g).trans (keepsMap_updDie _ die x)).trans (keepsMap_settleSpare _)
  exact .ite ((h3 _ _).trans (keepsMap_failDie _ _)) (h3 _ _)

theorem keepsMap_retireEmpty (s : State) : KeepsMap s (retireEmpty s) := by
  refine .foldl (fun t e => ?_) _ s
  exact .of_start (keepsMap_retireBlock _ _ _) rfl rfl rfl rfl

theorem keepsMap_dropRecords (s : State) (r : Rebuild) : KeepsMap s (dropRecords s r) := by
  unfold dropRecords
  split
  · exact .ite (.of_eq rfl rfl rfl rfl) (.refl s)
  · exact .refl s

theorem keepsMap_settleRebuilds (n : Nat) (s : State) : KeepsMap s (settleRebuilds n s) := by
  induction n generalizing s with
  | zero => exact .refl s
  | succ n ih =>
    simp only [settleRebuilds]
    split
    · exact .refl s
    · refine .ite (.refl s) (.ite (.of_eq rfl rfl rfl rfl) (.trans ?_ (ih _)))
      refine .trans ?_ (keepsMap_nextRebuild _)
      refine .trans ?_ (keepsMap_wantFaultEvent _)
      refine .trans ?_ (keepsMap_raise _ _ _)
      exact .of_start (keepsMap_dropRecords _ _) rfl rfl rfl rfl

/-! ### Programs and write-back -/

theorem keepsMap_beginBlock (s : State) (m : Nat × Nat) : KeepsMap s (beginBlock s m) := by
  simp only [beginBlock]
  exact .of_start (keepsMap_raiseIf _ _ _ _) rfl rfl rfl rfl

theorem keepsMap_writeParcel (w : Swath) (page : Nat) (s : State) (q : Parcel × Nat × Nat) :
    KeepsMap s (writeParcel w page s q) := .of_eq rfl rfl rfl rfl

theorem keepsMap_writeParity (w : Swath) (s : State) (page : Nat) : KeepsMap s (writeParity w s page) := by
  unfold writeParity
  split
  · exact .refl s
  · exact .of_eq rfl rfl rfl rfl

theorem keepsMap_programStripes (s : State) (w : Swath) (h : Nat) (ps : List Parcel) :
    KeepsMap s (programStripes s w h ps).1 := by
  simp only [programStripes]
  refine .trans (.trans ?_ (.foldl (keepsMap_writeParity w) (List.range' w.next h) _)) (.of_eq rfl rfl rfl rfl)
  refine .trans ?_ (.foldl (keepsMap_writeParcel w w.next) _ _)
  exact .ite (.foldl keepsMap_beginBlock _ s) (.refl s)

theorem keepsMap_openSwath {s t : State} {fam : BitVec 2} {chset : Nat} {fallow : Bool} {w : Swath}
    (h : openSwath s fam chset fallow = some (t, w)) : KeepsMap s t := by
  simp only [openSwath] at h
  split at h
  · cases h
  · cases h
    exact .trans (.foldl (fun u k => keepsMap_setBlock u _ _ _ _) _ s) (.of_eq rfl rfl rfl rfl)

theorem keepsMap_swathFor {s t : State} {fam : BitVec 2} {chset n : Nat} {fallow : Bool} {w : Swath}
    (h : swathFor s fam chset n fallow = some (t, w)) : KeepsMap s t := by
  simp only [swathFor] at h
  split at h
  · split at h
    · cases h
      exact .refl s
    · cases h
  · split at h
    · rename_i ho
      split at h
      · cases h
        exact .trans (.foldl keepsMap_closeSwath _ s) (keepsMap_openSwath ho)
      · cases h
    · cases h

theorem keepsMap_writePages (s : State) (chset : Nat) (pages : List Nat) : KeepsMap s (writePages s chset pages) := by
  simp only [writePages]
  refine .ite (.refl s) ?_
  split
  · exact .refl s
  · rename_i hw
    refine .trans (.trans (keepsMap_swathFor hw) (keepsMap_programStripes _ _ _ _)) (.foldl ?_ _ _)
    exact fun _ _ => .of_eq rfl rfl rfl rfl

theorem keepsMap_startWriteBack (s : State) : KeepsMap s (startWriteBack s) := by
  refine .ite ?_ (.refl s)
  unfold writeBack
  split
  · exact .refl s
  · exact keepsMap_writePages s _ _

theorem keepsMap_trimCache (s : State) : KeepsMap s (trimCache s) := by
  refine .foldl (fun t _ => ?_) _ s
  exact .of_eq rfl rfl rfl rfl

theorem keepsMap_noteShort (s : State) : KeepsMap s (noteShort s) := .of_eq rfl rfl rfl rfl

theorem keepsMap_discardRecs (s : State) : KeepsMap s (discardRecs s) := .of_eq rfl rfl rfl rfl

/-! ### The holds (R214, R216) -/

theorem settleAdmission_of_held {s : State} (h : s.etch.admitHold = true) :
    settleAdmission s
      = if occupancyPct s < admitLow s then { s with etch := { s.etch with admitHold := false } } else s := by
  simp [settleAdmission, h]

theorem settleAdmission_of_open {s : State} (h : s.etch.admitHold = false) :
    settleAdmission s
      = if admitHigh s ≤ occupancyPct s then raise { s with etch := { s.etch with admitHold := true } } evEtb 2 else s := by
  simp [settleAdmission, h]

theorem settleAdmission_host (s : State) : (settleAdmission s).host = s.host := by
  cases h : s.etch.admitHold
  · rw [settleAdmission_of_open h]
    split <;> rfl
  · rw [settleAdmission_of_held h]
    split <;> rfl

theorem keepsMap_settleAdmission (s : State) : KeepsMap s (settleAdmission s) :=
  .ite (.ite (.of_eq rfl rfl rfl rfl) (.refl s)) (.ite (.of_eq rfl rfl rfl rfl) (.refl s))

theorem keepsMap_settleJournal (s : State) : KeepsMap s (settleJournal s) := .ite (.of_eq rfl rfl rfl rfl) (.refl s)

theorem exec_journalHoldRelease_of_below {s : State} (hh : s.etch.jrnlHold = true) (hl : liveBytes s + 16777216 < liveMax s) :
    exec .journalHoldRelease s
      = .next (resumeJobs (resumeCmds (resumeHeld { s with etch := { s.etch with jrnlHold := false } }))) := by
  change execJournalHoldRelease s = _
  simp [execJournalHoldRelease, hh, hl]

theorem exec_journalHoldRelease_of_above {s : State} (hl : liveMax s ≤ liveBytes s + 16777216) :
    exec .journalHoldRelease s = .next s := by
  change execJournalHoldRelease s = _
  simp [execJournalHoldRelease, Nat.not_lt.mpr hl]

theorem findCmd_of_host {s u : State} (h : u.host = s.host) (id : CmdId) : findCmd u id = findCmd s id := by
  simp only [findCmd, h]

theorem exec_admissionResume {s : State} {id : CmdId} {e : ExecCmd} (hf : findCmd s id = some e) (hj : e.job = none) :
    exec (.admissionResume id) s = .next (resumeCmds (ioTry (settleAdmission s) id)) := by
  change execAdmissionResume id s = _
  simp [execAdmissionResume, findCmd_of_host (settleAdmission_host s), hf, hj]

/-! ### Records built (step 5 of R203) -/

theorem find?_updFirst {α : Type} {p : α → Bool} {f : α → α} (hf : ∀ x, p x = true → p (f x) = true) (l : List α) :
    (updFirst p f l).find? p = (l.find? p).map f := by
  induction l with
  | nil => rfl
  | cons x l ih =>
    cases hx : p x
    · simp [updFirst, hx, ih]
    · simp [updFirst, hx, hf x hx]

theorem findCmd_updCmd {s : State} {id : CmdId} {g : ExecCmd → ExecCmd} (hg : ∀ e, (g e).cmd = e.cmd) :
    findCmd (updCmd s id g) id = (findCmd s id).map g :=
  find?_updFirst (fun e h => by rwa [hg e]) s.host.exec

theorem keepsMap_buildRecord (s : State) (p : Built → Bool) : KeepsMap s (buildRecord s p) := .of_eq rfl rfl rfl rfl

/-- A step that lets the holds of blocks go changes neither commands nor the Etch buffer. -/
theorem releaseBlocks_host_etch (bs : List Nat) (s : State) :
    (bs.foldl releaseBlock s).host = s.host ∧ (bs.foldl releaseBlock s).etch = s.etch :=
  List.foldlRecOn bs releaseBlock (motive := fun t : State => t.host = s.host ∧ t.etch = s.etch) ⟨rfl, rfl⟩ fun _ ih _ _ => ih

/-- The state once the record of a command is built. -/
def ackedState (s : State) (id : CmdId) (e : ExecCmd) : State :=
  updCmd (e.blocks.foldl releaseBlock (buildRecord s (fun b => b.cmd == some id))) id
    (fun x => { x with phase := .built, blocks := [] })

theorem exec_etchDataAck {s : State} {id : CmdId} {e : ExecCmd} (hf : findCmd s id = some e) (hj : e.job = none)
    (hm : e.phase = .moving) (hp : e.pend = 0) :
    exec (.etchDataAck id) s = .next (if s.power.fence then s else ackedState s id e) := by
  change execEtchDataAck id s = _
  cases hfence : s.power.fence <;> simp [execEtchDataAck, hf, hj, hm, hp, hfence, ackedState]

theorem findCmd_ackedState {s : State} {id : CmdId} {e : ExecCmd} (hf : findCmd s id = some e) :
    findCmd (ackedState s id e) id = some { e with phase := .built, blocks := [] } := by
  obtain ⟨hhost, -⟩ := releaseBlocks_host_etch e.blocks (buildRecord s (fun b => b.cmd == some id))
  have hfind := (findCmd_of_host hhost id).trans hf
  rw [ackedState, findCmd_updCmd (by intro x; rfl), hfind]
  rfl

theorem ackedState_etch (s : State) (id : CmdId) (e : ExecCmd) :
    (ackedState s id e).etch = (buildRecord s (fun b => b.cmd == some id)).etch := by
  obtain ⟨-, hetch⟩ := releaseBlocks_host_etch e.blocks (buildRecord s (fun b => b.cmd == some id))
  exact hetch

theorem keepsMap_ackedState (s : State) (id : CmdId) (e : ExecCmd) : KeepsMap s (ackedState s id e) :=
  .trans (.trans (keepsMap_buildRecord s _) (.foldl keepsMap_releaseBlock _ _)) (.of_eq rfl rfl rfl rfl)

/-! ### An entry applied (step 7 of R203) -/

theorem entryAt_overlay_put_same (s : State) (k : Nat) (e : Qword) :
    entryAt { s with ftl := { s.ftl with overlay := tabPut s.ftl.overlay k e } } k = e := by
  simp [entryAt]

theorem entryAt_overlay_put_other (s : State) {k j : Nat} (e : Qword) (h : j ≠ k) :
    entryAt { s with ftl := { s.ftl with overlay := tabPut s.ftl.overlay k e } } j = entryAt s j := by
  simp [entryAt, tabGet_put_other _ _ _ _ h]

theorem entryAt_map_set_same {s : State} {k : Nat} (e : Qword) (ho : tabGet s.ftl.overlay k = none) (hw : tabWf s.ftl.map = true) :
    entryAt { s with ftl := { s.ftl with map := tabSet 0 s.ftl.map k e } } k = e := by
  simp only [entryAt, ho]
  exact tabAt_set_same 0 _ k e hw

theorem entryAt_map_set_other (s : State) {k j : Nat} (e : Qword) (h : j ≠ k) :
    entryAt { s with ftl := { s.ftl with map := tabSet 0 s.ftl.map k e } } j = entryAt s j := by
  simp only [entryAt]
  rw [tabAt_set_other 0 _ _ _ _ h]

/-- `u` has the map of `s` but for the unit `k`, whose entry is `new`. -/
def putsEntry (s u : State) (k : Nat) (new : Qword) : Prop := entryAt u k = new ∧ ∀ j, j ≠ k → entryAt u j = entryAt s j

theorem putsEntry_of_keepsMap {s t u v : State} {k : Nat} {new : Qword} (h1 : KeepsMap s t) (h2 : putsEntry t u k new)
    (h3 : KeepsMap u v) : putsEntry s v k new :=
  ⟨(h3.entryAt k).trans h2.1, fun j hj => ((h3.entryAt j).trans (h2.2 j hj)).trans (h1.entryAt j)⟩

theorem putsEntry_applyUnit {s : State} (hw : tabWf s.ftl.map = true) (seq k : Nat) (new : Qword) :
    putsEntry s (applyUnit s seq k new) k new := by
  have hcount : KeepsMap s (countValid (countValid s (entryAt s k) false) new true) :=
    (keepsMap_countValid s _ _).trans (keepsMap_countValid _ _ _)
  have hfree : ∀ (c : Bool) (u : State) (a : Nat), KeepsMap u (if c then freeExtentAt u a else u) := fun c u a =>
    .ite (keepsMap_freeExtentAt u a) (.refl u)
  refine putsEntry_of_keepsMap hcount ?_ (hfree _ _ _)
  split
  · exact ⟨entryAt_overlay_put_same _ k new, fun j hj => entryAt_overlay_put_other _ new hj⟩
  · rename_i ho
    refine putsEntry_of_keepsMap (.refl _) ?_ ((keepsMap_joinCache _ _).trans (keepsMap_markDirty _ _ _))
    exact ⟨entryAt_map_set_same new ho (by rwa [hcount.map]), fun j hj => entryAt_map_set_other _ new hj⟩

@[simp] theorem countValid_host (s : State) (e : Qword) (up : Bool) : (countValid s e up).host = s.host := by
  unfold countValid
  split <;> rfl

@[simp] theorem joinCache_host (s : State) (page : Nat) : (joinCache s page).host = s.host := by
  unfold joinCache
  split <;> rfl

@[simp] theorem markDirty_host (s : State) (page seq : Nat) : (markDirty s page seq).host = s.host := rfl

@[simp] theorem freeExtentAt_host (s : State) (a : Nat) : (freeExtentAt s a).host = s.host := by
  unfold freeExtentAt
  split
  · rfl
  · split <;> rfl

@[simp] theorem coverDeferred_host (s : State) (nsid a b : Nat) : (coverDeferred s nsid a b).host = s.host := by
  simp only [coverDeferred]
  split <;> rfl

theorem applyUnit_host (s : State) (seq k : Nat) (new : Qword) : (applyUnit s seq k new).host = s.host := by
  simp only [applyUnit]
  split <;> split <;> simp

theorem applyUnit_seq (s : State) (seq k : Nat) (new : Qword) : (applyUnit s seq k new).etch.seq = s.etch.seq := by
  have hcount := ((keepsMap_countValid s (entryAt s k) false).trans (keepsMap_countValid _ new true)).seq
  have hmap : ∀ (u : State) (p : Nat), (markDirty (joinCache u p) p seq).etch.seq = u.etch.seq := fun u p =>
    ((keepsMap_joinCache u p).trans (keepsMap_markDirty _ p seq)).seq
  simp only [applyUnit]
  split <;> split <;> simp [hcount, hmap, (keepsMap_freeExtentAt _ _).seq]

/-! ### JOURNAL_COMMIT (R204, R208) -/

/-- The numbers that a record of `len` bytes takes: its own, and that of a pad record before it (R208). -/
def seqsTaken (s : State) (len : Nat) : Nat :=
  if s.etch.tail ≠ journalRegion ∧ journalRegion < s.etch.tail + len then 2 else 1

theorem appendRec_seq (s : State) (type tenant : Nat) (es : List JEntry) :
    (appendRec s type tenant es).etch.seq = s.etch.seq + seqsTaken s (recBytes es.length) := by
  simp only [appendRec, seqsTaken]
  split
  · simp [*]
  · split <;> simp [*]

theorem appendRec_host (s : State) (type tenant : Nat) (es : List JEntry) : (appendRec s type tenant es).host = s.host := by
  simp only [appendRec]
  split
  · rfl
  · split <;> rfl

theorem appendRec_ftl (s : State) (type tenant : Nat) (es : List JEntry) : (appendRec s type tenant es).ftl = s.ftl := by
  simp only [appendRec]
  split
  · rfl
  · split <;> rfl

/-- `u` is a state in which a record of the one entry `e` has taken its SEQ in the journal of `s` and been applied to its map. -/
def appliesRecord (s u : State) (e : JEntry) : Prop :=
  u.etch.seq = s.etch.seq + seqsTaken s (recBytes 1) ∧ putsEntry s u (jUnit e.key) e.new

theorem appliesRecord_of_keepsMap {s u v : State} {e : JEntry} (h : appliesRecord s u e) (hk : KeepsMap u v) : appliesRecord s v e :=
  ⟨hk.seq.trans h.1, putsEntry_of_keepsMap (.refl s) h.2 hk⟩

theorem commitRec_unit (s : State) {type : Nat} (h1 : 1 ≤ type) (h5 : type ≤ 5) (tenant : Nat) (e : JEntry) :
    commitRec s type tenant [e]
      = applyUnit (appendRec s type tenant [e]) (appendRec s type tenant [e]).etch.seq (jUnit e.key) e.new := by
  simp [commitRec, applyEntry, h1, h5]

theorem appliesRecord_commitRec {s : State} (hw : tabWf s.ftl.map = true) {type : Nat} (h1 : 1 ≤ type) (h5 : type ≤ 5) (tenant : Nat)
    (e : JEntry) : appliesRecord s (commitRec s type tenant [e]) e := by
  have hftl := appendRec_ftl s type tenant [e]
  have happ : ∀ k, entryAt (appendRec s type tenant [e]) k = entryAt s k := entryAt_of_tables (by rw [hftl]) (by rw [hftl])
  rw [commitRec_unit s h1 h5]
  obtain ⟨hsame, hother⟩ := putsEntry_applyUnit (s := appendRec s type tenant [e]) (by rwa [hftl])
    (appendRec s type tenant [e]).etch.seq (jUnit e.key) e.new
  exact ⟨(applyUnit_seq _ _ _ _).trans (appendRec_seq s type tenant [e]), hsame, fun k hk => (hother k hk).trans (happ k)⟩

theorem commitRec_unit_host (s : State) {type : Nat} (h1 : 1 ≤ type) (h5 : type ≤ 5) (tenant : Nat) (e : JEntry) :
    (commitRec s type tenant [e]).host = s.host := by
  rw [commitRec_unit s h1 h5, applyUnit_host, appendRec_host]

/-- The state without a record that was built. -/
def unqueued (s : State) (b : Built) : State := { s with etch := { s.etch with built := s.etch.built.erase b } }

theorem keepsMap_unqueued (s : State) (b : Built) : KeepsMap s (unqueued s b) := .of_eq rfl rfl rfl rfl

/-- The state once a record has been committed and applied, with the LBAs that it wrote counted and taken off page 0xC1. -/
def recorded (s : State) (b : Built) : State :=
  let lbas := if decide (1 ≤ b.type) && decide (b.type ≤ 3) then changedLbas s b else []
  let t := lbas.foldl (fun t r => coverDeferred t r.1 r.2.1 (r.2.1 + r.2.2)) (commitRec s b.type b.tenant b.entries)
  if b.type = 1 then countHost t lbas else t

theorem keepsMap_recorded (s : State) (b : Built) : KeepsMap (commitRec s b.type b.tenant b.entries) (recorded s b) := by
  have hcover : ∀ (l : List (Nat × Nat × Nat)) (t : State),
      KeepsMap t (l.foldl (fun t r => coverDeferred t r.1 r.2.1 (r.2.1 + r.2.2)) t) := fun l t =>
    .foldl (fun t r => keepsMap_coverDeferred t _ _ _) l t
  exact .ite ((hcover _ _).trans (keepsMap_countHost _ _)) (hcover _ _)

theorem recorded_host (s : State) (b : Built) : (recorded s b).host = (commitRec s b.type b.tenant b.entries).host := by
  have hcover : ∀ (l : List (Nat × Nat × Nat)) (t : State),
      (l.foldl (fun t r => coverDeferred t r.1 r.2.1 (r.2.1 + r.2.2)) t).host = t.host := fun l t =>
    List.foldlRecOn l _ (motive := fun u : State => u.host = t.host) rfl fun u ih r _ => (coverDeferred_host u _ _ _).trans ih
  simp only [recorded]
  split
  · exact hcover _ _
  · exact hcover _ _

/-- What follows a commit up to where the work that waited goes on. -/
def commitSettled (s : State) : State :=
  settleAdmission (settleJournal (discardRecs (noteShort (trimCache (startWriteBack (settleRebuild (retireEmpty s)))))))

theorem afterCommit_eq (s : State) : afterCommit s = resumeJobs (resumeCmds (commitSettled s)) := rfl

theorem keepsMap_commitSettled (s : State) : KeepsMap s (commitSettled s) := by
  refine .trans ?_ (keepsMap_settleAdmission _)
  refine .trans ?_ (keepsMap_settleJournal _)
  refine .trans ?_ (keepsMap_discardRecs _)
  refine .trans ?_ (keepsMap_noteShort _)
  refine .trans ?_ (keepsMap_trimCache _)
  refine .trans ?_ (keepsMap_startWriteBack _)
  exact (keepsMap_retireEmpty s).trans (keepsMap_settleRebuilds _ _)

theorem exec_journalCommit_of_unrecordable {s : State} (h : canRecord s = false) : exec .journalCommit s = .next s := by
  change execJournalCommit s = _
  simp [execJournalCommit, h]

theorem exec_journalCommit_of_none {s : State} (h : nextBuilt s = none) : exec .journalCommit s = .next s := by
  change execJournalCommit s = _
  simp [execJournalCommit, h]

/-- A record of which no entry is stale commits whole. -/
theorem exec_journalCommit_commits {s : State} {b : Built} (hc : canRecord s = true) (hn : nextBuilt s = some b)
    (hok : ∀ e ∈ b.entries, relocOk s b.type e = true) :
    exec .journalCommit s
      = .next (resumeJobs (resumeCmds (commitSettled (ownerCommitted (recorded (unqueued s b) b) b)))) := by
  have hes : b.entries.filter (relocOk (unqueued s b) b.type) = b.entries := List.filter_eq_self.mpr hok
  change execJournalCommit s = _
  simp only [unqueued] at hes
  simp only [execJournalCommit, hc, hn, hes, Bool.not_true, Bool.false_eq_true, if_false, Bool.and_not_self]
  rfl

/-- A record of which every entry is stale is dropped (R191). -/
theorem exec_journalCommit_drops {s : State} {b : Built} (hc : canRecord s = true) (hn : nextBuilt s = some b)
    (hne : b.entries ≠ []) (hstale : ∀ e ∈ b.entries, relocOk s b.type e = false) :
    exec .journalCommit s = .next (resumeJobs (resumeCmds (commitSettled (unqueued s b)))) := by
  have hes : b.entries.filter (relocOk (unqueued s b) b.type) = [] :=
    List.filter_eq_nil_iff.mpr fun e he => Bool.eq_false_iff.mp (hstale e he)
  change execJournalCommit s = _
  simp only [unqueued] at hes
  simp [execJournalCommit, hc, hn, hes, hne, unqueued, afterCommit_eq]

/-- A relocation may commit while its entry holds the expected value; the record of a write always may. -/
theorem relocOk_relocation {s : State} {type : Nat} (h : type = 4 ∨ type = 5) (e : JEntry) :
    relocOk s type e = (entryAt s (jUnit e.key) == e.old) := by
  rcases h with rfl | rfl <;> rfl

theorem relocOk_write (s : State) (e : JEntry) : relocOk s 1 e = true := rfl

theorem ownerCommitted_of_none {s : State} {b : Built} (hc : b.cmd = none) (hj : b.job = none) : ownerCommitted s b = s := by
  simp [ownerCommitted, hc, hj]

theorem ownerCommitted_of_lastWrite {s : State} {b : Built} {id : CmdId} {x : ExecCmd} (hc : b.cmd = some id) (hl : b.last = true)
    (hf : findCmd s id = some x) (ho : x.opcode = 1) : ownerCommitted s b = complete s id stSuccess := by
  simp [ownerCommitted, pieceCommitted, hc, hl, hf, ho]

/-- A record of one unit, committed: it takes its SEQ, and what then settles leaves the map and every completion. -/
theorem appliesRecord_recorded {s : State} {b : Built} {e : JEntry} (he : b.entries = [e]) (hw : tabWf s.ftl.map = true)
    (h1 : 1 ≤ b.type) (h5 : b.type ≤ 5) : appliesRecord s (recorded (unqueued s b) b) e := by
  have hcommit : appliesRecord s (commitRec (unqueued s b) b.type b.tenant b.entries) e := by
    rw [he]
    exact appliesRecord_commitRec (s := unqueued s b) hw h1 h5 b.tenant e
  exact appliesRecord_of_keepsMap hcommit (keepsMap_recorded _ b)

theorem recorded_unqueued_host {s : State} {b : Built} {e : JEntry} (he : b.entries = [e]) (h1 : 1 ≤ b.type) (h5 : b.type ≤ 5) :
    (recorded (unqueued s b) b).host = s.host := by
  rw [recorded_host, he]
  exact commitRec_unit_host (unqueued s b) h1 h5 b.tenant e

theorem journalCommit_relocates {s : State} {b : Built} {e : JEntry} (hr : canRecord s = true) (hn : nextBuilt s = some b)
    (he : b.entries = [e]) (hw : tabWf s.ftl.map = true) (hc : b.cmd = none) (hj : b.job = none) (ht : b.type = 4 ∨ b.type = 5)
    (hold : entryAt s (jUnit e.key) = e.old) :
    ∃ v, exec .journalCommit s = .next (resumeJobs (resumeCmds v)) ∧ appliesRecord s v e := by
  refine ⟨_, exec_journalCommit_commits hr hn ?_, ?_⟩
  · simp [he, relocOk_relocation ht, hold]
  · rw [ownerCommitted_of_none hc hj]
    exact appliesRecord_of_keepsMap (appliesRecord_recorded he hw (by omega) (by omega)) (keepsMap_commitSettled _)

theorem journalCommit_dropsStale {s : State} {b : Built} {e : JEntry} (hr : canRecord s = true) (hn : nextBuilt s = some b)
    (he : b.entries = [e]) (ht : b.type = 4 ∨ b.type = 5) (hold : entryAt s (jUnit e.key) ≠ e.old) :
    ∃ v, exec .journalCommit s = .next (resumeJobs (resumeCmds v)) ∧ KeepsMap s v := by
  refine ⟨_, exec_journalCommit_drops hr hn (by simp [he]) ?_, (keepsMap_unqueued s b).trans (keepsMap_commitSettled _)⟩
  simp [he, relocOk_relocation ht, hold]

theorem journalCommit_completesWrite {s : State} {b : Built} {e : JEntry} {id : CmdId} {x : ExecCmd} (hr : canRecord s = true)
    (hn : nextBuilt s = some b) (he : b.entries = [e]) (hw : tabWf s.ftl.map = true) (hc : b.cmd = some id) (ht : b.type = 1)
    (hl : b.last = true) (hf : findCmd s id = some x) (ho : x.opcode = 1) :
    ∃ v, exec .journalCommit s = .next (resumeJobs (resumeCmds v)) ∧ appliesRecord s v e
      ∧ ∃ c ∈ v.host.waiting, c.id = id ∧ c.sct = 0 ∧ c.sc = 0 := by
  have hfind : findCmd (recorded (unqueued s b) b) id = some x :=
    (findCmd_of_host (recorded_unqueued_host he (by omega) (by omega)) id).trans hf
  have hsettled := keepsMap_commitSettled (complete (recorded (unqueued s b) b) id stSuccess)
  refine ⟨_, exec_journalCommit_commits hr hn ?_, ?_⟩
  · simp [he, ht, relocOk_write]
  · rw [ownerCommitted_of_lastWrite hc hl hfind ho]
    refine ⟨?_, { id := id, sct := 0, sc := 0, dw0 := 0, dw1 := 0, data := [] }, hsettled.waiting ?_, rfl, rfl, rfl⟩
    · exact appliesRecord_of_keepsMap (appliesRecord_recorded he hw (by omega) (by omega))
        (.trans (keepsMap_completeWith _ _ _ _ _ _) hsettled)
    · simp [complete, stSuccess]

/-- Settles O35: what the steps of a record do to the map, SEQ and the completions, and that all that settles after a commit leaves
these. -/
theorem recordsAreBuiltAndCommitted : Obligations.RecordsAreBuiltAndCommitted := by
  unfold Obligations.RecordsAreBuiltAndCommitted
  intro s goes newSeq
  refine ⟨?ack, exec_journalCommit_of_unrecordable, exec_journalCommit_of_none, ?commit, fun id e => exec_admissionResume,
    ?held, ?opened, ?release⟩
  case ack =>
    intro id e hf hj hm hp
    refine ⟨fun hfence => ?_, fun hfence => ?_⟩
    · refine ⟨ackedState s id e, ?_, findCmd_ackedState hf, ?_, ?_, (keepsMap_ackedState s id e).entryAt⟩
      · simp [exec_etchDataAck hf hj hm hp, hfence]
      · rw [ackedState_etch]
        rfl
      · rw [ackedState_etch]
        rfl
    · simp [exec_etchDataAck hf hj hm hp, hfence]
  case commit =>
    intro b e hr hn he hw
    refine ⟨fun hc hj ht => ⟨fun hold => ?_, fun hold => ?_⟩, fun id x hc ht hl hf ho => ?_⟩
    · obtain ⟨v, hexec, hseq, hsame, hother⟩ := journalCommit_relocates hr hn he hw hc hj ht hold
      exact ⟨v, hexec, hseq, hsame, hother⟩
    · obtain ⟨v, hexec, hkeeps⟩ := journalCommit_dropsStale hr hn he ht hold
      exact ⟨v, hexec, hkeeps.seq, hkeeps.entryAt⟩
    · obtain ⟨v, hexec, ⟨hseq, hsame, hother⟩, hdone⟩ := journalCommit_completesWrite hr hn he hw hc ht hl hf ho
      exact ⟨v, hexec, hseq, hsame, hother, hdone⟩
  case held =>
    intro h
    rw [settleAdmission_of_held h]
    exact ⟨fun hlt => if_pos hlt, fun hle => if_neg (Nat.not_lt.mpr hle)⟩
  case opened =>
    intro h
    rw [settleAdmission_of_open h]
    refine ⟨fun hle => ?_, fun hlt => if_neg (Nat.not_le.mpr hlt)⟩
    rw [if_pos hle]
    exact ⟨rfl, rsqAt_raise_same _ _ _⟩
  case release => exact fun h => ⟨exec_journalHoldRelease_of_below h, exec_journalHoldRelease_of_above⟩

end Sys2Proof.Machine
end

section
/-! SUPPORT and proofs: the host's ports under resets, PERST_N, the Etch fence and the power states (R222 to R225, R239, R240, R266 to
R269, R584, R600). -/

namespace Sys2Proof.Machine

/-! ### Steps repeated -/

/-- What each step of a fold keeps, the fold keeps. -/
theorem foldl_keeps {α β : Type} (part : State → β) {f : State → α → State} (hf : ∀ t a, part (f t a) = part t) (l : List α)
    (s : State) : part (l.foldl f s) = part s :=
  List.foldlRecOn l f (motive := fun t => part t = part s) rfl fun t ih a _ => (hf t a).trans ih

theorem foldl_keeps_ports {α : Type} {f : State → α → State} (hf : ∀ t a, (f t a).host.ports = t.host.ports) (l : List α)
    (s : State) : (l.foldl f s).host.ports = s.host.ports :=
  foldl_keeps (fun t => t.host.ports) hf l s

theorem ite_keeps_ports {c : Prop} [Decidable c] {s t u : State} (ht : t.host.ports = s.host.ports) (hu : u.host.ports = s.host.ports) :
    (if c then t else u).host.ports = s.host.ports := by
  split
  · exact ht
  · exact hu

/-! ### Cores and descriptors leave the host interface -/

@[simp] theorem settlePrefetch_host (s : State) (i : Nat) : (settlePrefetch s i).host = s.host :=
  foldl_keeps State.host (fun _ _ => by rfl) _ s

@[simp] theorem dequeue_host (s : State) (d : Nat) : (dequeue s d).host = s.host := rfl

@[simp] theorem dispatchTo_host (s : State) (c d : Nat) : (dispatchTo s c d).host = s.host := by
  simp only [dispatchTo, updCore_host, updDesc_host]
  split
  · split <;> rfl
  · rfl

@[simp] theorem dispatchIsland_host (s : State) (i : Nat) : (dispatchIsland s i).host = s.host := by
  refine foldl_keeps State.host (fun t c => ?_) _ s
  split
  · split
    · exact dispatchTo_host t c _
    · rfl
  · rfl

@[simp] theorem settleIsland_host (s : State) (i : Nat) : (settleIsland s i).host = s.host := by simp [settleIsland]

@[simp] theorem addCoreTime_host (s : State) (d us : Nat) : (addCoreTime s d us).host = s.host := by
  unfold addCoreTime
  split
  · rfl
  · dsimp only
    split <;> rfl

@[simp] theorem leaveCore_host (s : State) (d : Nat) : (leaveCore s d).host = s.host := by
  unfold leaveCore
  split <;> simp

/-! ### Memory regions, messages and threads leave the host interface -/

@[simp] theorem zeroSpan_host (s : State) (sp base n : Nat) : (zeroSpan s sp base n).host = s.host := by
  unfold zeroSpan
  split <;> rfl

@[simp] theorem freeRegion_host (s : State) (i : Nat) : (freeRegion s i).host = s.host := by
  unfold freeRegion
  split <;> simp

@[simp] theorem freeRegions_host (s : State) (is : List Nat) : (freeRegions s is).host = s.host :=
  foldl_keeps State.host freeRegion_host is s

@[simp] theorem settleDgs_host (s : State) (n : Nat) : (settleDgs s n).host = s.host := by
  induction n generalizing s with
  | zero => rfl
  | succ n ih =>
    unfold settleDgs
    split
    · split
      · rfl
      · rw [ih, setMsg_host]
    · rfl

@[simp] theorem closeMsg_host (s : State) (o : DgsOwner) : (closeMsg s o).host = s.host := by
  simp only [closeMsg, fillDgs, settleDgs_host]
  split <;> simp

@[simp] theorem dropOwner_host (s : State) (o : DgsOwner) : (dropOwner s o).host = s.host := by simp [dropOwner]

@[simp] theorem freeDesc_host (s : State) (d : Nat) : (freeDesc s d).host = s.host := by
  simp only [freeDesc]
  split
  · simp
  · split <;> simp

@[simp] theorem killStage_host (s : State) (j : Nat) : (killStage s j).host = s.host := by
  unfold killStage
  split
  · rfl
  · rw [killThreads, settleIsland_host, foldl_keeps State.host freeDesc_host]

@[simp] theorem leaveCode_host (s : State) (j : Nat) (m : ImStage) : (leaveCode s j m).host = s.host := by
  unfold leaveCode
  dsimp only
  split
  · rfl
  · split <;> simp

/-! ### Jobs and channels leave the host interface, until a command of theirs completes -/

@[simp] theorem fillCodec_host (s : State) (p : Pool) : (fillCodec s p).host = s.host := foldl_keeps State.host (fun _ _ => by rfl) _ s

@[simp] theorem forgetKeys_host (s : State) : (forgetKeys s).host = s.host := rfl

@[simp] theorem clearEngine_host (s : State) (j : Nat) (b : Job) : (clearEngine s j b).host = s.host := by
  simp only [clearEngine, fillCodec_host, apply_ite State.host, forgetKeys_host, ite_self, updJob_host, closeMsg_host, freeRegions_host]
  split <;> simp

@[simp] theorem dropHistories_host (s : State) (head : Nat) : (dropHistories s head).host = s.host := by
  unfold dropHistories
  split
  · rw [raiseIf_host, foldl_keeps State.host (fun t c => updChannel_host t c _)]
  · rfl

@[simp] theorem returnFlows_host (s : State) (slot : Nat) : (returnFlows s slot).host = s.host := by
  unfold returnFlows
  split
  · rfl
  · exact foldl_keeps State.host (fun _ _ => by simp) _ s

@[simp] theorem dropReads_host (s : State) (who : ReadFor) : (dropReads s who).host = s.host := rfl

@[simp] theorem freeChannel_host (s : State) (slot : Nat) : (freeChannel s slot).host = s.host := by
  unfold freeChannel
  split
  · rfl
  · next c _ =>
    have hflows (t : State) : (c.flows.foldl (fun t e => setFlow t e.2 { flowAt t e.2 with chan := none }) t).host = t.host :=
      foldl_keeps State.host (fun _ _ => by rfl) _ t
    cases c.up <;> cases c.down <;> simp [hflows]

@[simp] theorem removeJob_host (s : State) (j : Nat) (b : Job) : (removeJob s j b).host = s.host := by
  simp only [removeJob]
  split <;> simp

@[simp] theorem releaseExtent_host (s : State) (a : Nat) : (releaseExtent s a).host = s.host := by
  unfold releaseExtent
  split
  · rfl
  · dsimp only
    split <;> rfl

@[simp] theorem releaseHolds_host (s : State) (blocks slots : List Nat) : (releaseHolds s blocks slots).host = s.host := by
  rw [releaseHolds, foldl_keeps State.host releaseExtent_host, (releaseBlocks_host_etch blocks s).1]

@[simp] theorem dropJobs_host (s : State) (p : CmdId → Bool) : (dropJobs s p).host = s.host := by
  refine foldl_keeps State.host (fun t e => ?_) _ s
  dsimp only
  split <;> simp

@[simp] theorem dropWrites_host (s : State) (p : CmdId → Bool) : (dropWrites s p).host = s.host := by
  simp only [dropWrites]
  exact foldl_keeps State.host (fun t l => foldl_keeps State.host freeExtentAt_host l t) _ _

@[simp] theorem putDerived_host (s : State) (tenant : Nat) (l : List (Nat × Nat × List Byte)) : (putDerived s tenant l).host = s.host :=
  foldl_keeps State.host (fun _ _ => by rfl) l s

@[simp] theorem moveDown_host (s : State) (j : Nat) (b : Job) (d : Nat) (c : Channel) : (moveDown s j b d c).host = s.host := by
  simp [moveDown]

/-! ### Units placed in the Etch buffer leave the host interface -/

@[simp] theorem freshOverride_host (s : State) (k : Nat) : (freshOverride s k).host = s.host := by
  simp only [freshOverride]
  split <;> rfl

@[simp] theorem startReads_host (s : State) (who : ReadFor) (nsid : Nat) (n : Namespace) (unit : Nat) (e : Qword) (words : List Nat) :
    (startReads s who nsid n unit e words).host = s.host :=
  foldl_keeps State.host (fun t _ => by exact freshOverride_host t _) words s

@[simp] theorem startTaken_host (s : State) (who : ReadFor) (nsid : Nat) (n : Namespace) (ts : List Taken) :
    (startTaken s who nsid n ts).host = s.host :=
  foldl_keeps State.host (fun t _ => startReads_host t ..) ts s

@[simp] theorem holdBlock_host (s : State) (k : Nat) : (holdBlock s k).host = s.host := rfl

@[simp] theorem holdExtent_host (s : State) (a : Nat) : (holdExtent s a).host = s.host := by
  unfold holdExtent
  split <;> rfl

@[simp] theorem takeHolds_host (s : State) (blocks slots : List Nat) : (takeHolds s blocks slots).host = s.host := by
  rw [takeHolds, foldl_keeps State.host holdExtent_host, foldl_keeps State.host holdBlock_host]

theorem placeUnit_host (who : ReadFor) (nsid tenant : Nat) (n : Namespace) (a c : Nat) (data : List Byte) (zero : Bool) (p : Placing)
    (u : Nat) : (placeUnit who nsid tenant n a c data zero p u).st.host = p.st.host := by
  simp only [placeUnit]
  split
  · rfl
  · split
    · rfl
    · split
      · rfl
      · dsimp only
        split
        · rfl
        · rw [startReads_host]
          rfl

@[simp] theorem placePiece_host (s : State) (who : ReadFor) (nsid tenant : Nat) (n : Namespace) (a c : Nat) (data : List Byte)
    (zero : Bool) : (placePiece s who nsid tenant n a c data zero).st.host = s.host :=
  List.foldlRecOn _ _ (motive := fun p : Placing => p.st.host = s.host) rfl fun p ih u _ => (placeUnit_host _ _ _ _ _ _ _ _ p u).trans ih

@[simp] theorem noteAccess_host (s : State) (nsid : Nat) (keys : List Nat) : (noteAccess s nsid keys).host = s.host := rfl

@[simp] theorem wantPages_host (s : State) (pages : List Nat) : (wantPages s pages).host = s.host := rfl

/-! ### Commands that complete or wait leave the ports -/

@[simp] theorem completeWith_ports (s : State) (id : CmdId) (st : Status) (dw0 dw1 : Dword) (data : List Byte) :
    (completeWith s id st dw0 dw1 data).host.ports = s.host.ports := by simp [completeWith]

@[simp] theorem complete_ports (s : State) (id : CmdId) (st : Status) : (complete s id st).host.ports = s.host.ports :=
  completeWith_ports ..

@[simp] theorem failCmd_ports (s : State) (id : CmdId) (st : Status) : (failCmd s id st).host.ports = s.host.ports :=
  completeWith_ports ..

@[simp] theorem completeSaved_ports (s : State) (id : CmdId) (dw0 : Nat) (data : List Byte) :
    (completeSaved s id dw0 data).host.ports = s.host.ports := rfl

@[simp] theorem park_ports (s : State) (id : CmdId) (p : Phase) : (park s id p).host.ports = s.host.ports := rfl

@[simp] theorem forwardCmd_ports (s : State) (id : CmdId) (home : Nat) : (forwardCmd s id home).host.ports = s.host.ports := rfl

@[simp] theorem failJob_ports (s : State) (j : Nat) (b : Job) (st : Status) (bytes : Nat) (data : List Byte) :
    (failJob s j b st bytes data).host.ports = s.host.ports := by
  simp only [failJob, completeWith_ports]
  split
  · simp
  · split <;> simp

@[simp] theorem finishJob_ports (s : State) (j : Nat) (b : Job) (bytes : Nat) (data : List Byte) :
    (finishJob s j b bytes data).host.ports = s.host.ports := by
  unfold finishJob
  exact ite_keeps_ports (by simp) (ite_keeps_ports (failJob_ports ..) (ite_keeps_ports (failJob_ports ..) (by simp)))

@[simp] theorem finishRead_ports (s : State) (id : CmdId) : (finishRead s id).host.ports = s.host.ports := by
  unfold finishRead
  split
  · rfl
  · dsimp only
    split
    · simp
    · exact ite_keeps_ports (by simp) (ite_keeps_ports (by simp) (ite_keeps_ports (by simp) (by simp)))

/-! ### Jobs at their sink leave the ports -/

@[simp] theorem releaseJob_ports (s : State) (j : Nat) (b : Job) (c : Channel) : (releaseJob s j b c).host.ports = s.host.ports := by
  unfold releaseJob
  split
  · exact ite_keeps_ports (failJob_ports ..) (ite_keeps_ports (by simp) (failJob_ports ..))
  · exact ite_keeps_ports (by simp) (by simp)

@[simp] theorem placeSegment_ports (s : State) (j : Nat) (b : Job) (nsid : Nat) (n : Namespace) :
    (placeSegment s j b nsid n).host.ports = s.host.ports := by
  unfold placeSegment
  refine ite_keeps_ports (failJob_ports ..) (ite_keeps_ports rfl (ite_keeps_ports rfl (ite_keeps_ports rfl ?_)))
  split
  case h_1 => exact ite_keeps_ports rfl rfl
  case h_2 => exact (failJob_ports ..).trans (ite_keeps_ports rfl rfl)
  case h_3 => exact ite_keeps_ports rfl (by simp [settleAdmission_host])

@[simp] theorem sinkStep_ports (s : State) (j : Nat) (b : Job) (c : Channel) : (sinkStep s j b c).host.ports = s.host.ports := by
  unfold sinkStep
  refine ite_keeps_ports ?_ (ite_keeps_ports (ite_keeps_ports (finishJob_ports ..) rfl) (ite_keeps_ports (finishJob_ports ..)
    (ite_keeps_ports rfl (ite_keeps_ports ?_ (ite_keeps_ports rfl ?_)))))
  · split
    · simp
    · split <;> simp
  · split <;> simp
  · split <;> simp

@[simp] theorem settleJob_ports (s : State) (j : Nat) : (settleJob s j).host.ports = s.host.ports := by
  unfold settleJob
  split
  · rfl
  · next b _ =>
    split
    · rfl
    · next c _ =>
      have hreleased : (if b.ended && releaseTurn s c j b.stage then releaseJob s j b c else s).host.ports = s.host.ports := by
        split <;> simp
      dsimp only
      split
      · split
        · rw [sinkStep_ports, hreleased]
        · exact hreleased
      · exact hreleased

@[simp] theorem resumeJobs_ports (s : State) : (resumeJobs s).host.ports = s.host.ports :=
  foldl_keeps_ports settleJob_ports _ s

/-! ### Commands tried again leave the ports -/

@[simp] theorem tryRead_ports (s : State) (e : ExecCmd) (n : Namespace) : (tryRead s e n).host.ports = s.host.ports := by
  unfold tryRead
  exact ite_keeps_ports rfl (ite_keeps_ports rfl (ite_keeps_ports (failCmd_ports ..) (ite_keeps_ports rfl
    (ite_keeps_ports (by simp) (by simp)))))

@[simp] theorem tryDealloc_ports (s : State) (e : ExecCmd) (n : Namespace) : (tryDealloc s e n).host.ports = s.host.ports := by
  unfold tryDealloc
  exact ite_keeps_ports rfl (ite_keeps_ports rfl (ite_keeps_ports rfl (complete_ports ..)))

@[simp] theorem tryWrite_ports (s : State) (e : ExecCmd) (n : Namespace) : (tryWrite s e n).host.ports = s.host.ports := by
  unfold tryWrite
  refine ite_keeps_ports rfl (ite_keeps_ports rfl (ite_keeps_ports rfl ?_))
  split
  case h_1 => rfl
  case h_2 => simp
  case h_3 =>
    refine ite_keeps_ports (failCmd_ports ..) (ite_keeps_ports rfl ?_)
    rw [updCmd_host_ports, apply_ite State.host, ite_self]
    simp [settleAdmission_host]

@[simp] theorem ioTry_ports (s : State) (id : CmdId) : (ioTry s id).host.ports = s.host.ports := by
  unfold ioTry
  split
  · rfl
  · split
    · rfl
    · split
      case h_5 => rfl
      all_goals
        split
        · simp
        · exact ite_keeps_ports (ite_keeps_ports (failCmd_ports ..) rfl) (ite_keeps_ports rfl (ite_keeps_ports (tryRead_ports ..)
            (ite_keeps_ports (tryDealloc_ports ..) (ite_keeps_ports rfl (tryWrite_ports ..)))))

@[simp] theorem resumeCmds_ports (s : State) : (resumeCmds s).host.ports = s.host.ports :=
  foldl_keeps_ports (fun t _ => by exact ioTry_ports t _) _ s

/-! ### Controllers and channels that are reset leave the ports -/

@[simp] theorem countDestroyed_ports (s : State) (slot : Nat) : (countDestroyed s slot).host.ports = s.host.ports :=
  foldl_keeps_ports (fun t _ => completeWith_ports t ..) _ _

@[simp] theorem killChannel_ports (s : State) (slot : Nat) : (killChannel s slot).host.ports = s.host.ports := by
  refine (countDestroyed_ports ..).trans ((congrArg HostIf.ports (freeChannel_host ..)).trans ?_)
  refine (foldl_keeps_ports (fun t _ => by exact failCmd_ports t ..) _ _).trans (foldl_keeps_ports (fun t e => ?_) _ s)
  dsimp only
  split <;> simp

@[simp] theorem killChannels_ports (s : State) (p : Nat → Bool) : (killChannels s p).host.ports = s.host.ports :=
  foldl_keeps_ports killChannel_ports _ s

@[simp] theorem dropAll_ports (s : State) (mine : CmdId → Bool) : (dropAll s mine).host.ports = s.host.ports := by
  simp only [dropAll, dropCmds_host_ports, dropWrites_host]
  rw [foldl_keeps_ports (fun t e => by rw [releaseHolds_host]), dropJobs_host]

@[simp] theorem discardRwb_host (s : State) : (discardRwb s).host = s.host := rfl

@[simp] theorem bareCtrls_ports (s : State) (p : Nat → Bool) : (bareCtrls s p).host.ports = s.host.ports := rfl

@[simp] theorem resetFns_ports (s : State) (p : Nat → Bool) : (resetFns s p).host.ports = s.host.ports := by
  rw [resetFns_eq, resumeJobs_ports, resumeCmds_ports, bareCtrls_ports, discardRwb_host, dropAll_ports, killChannels_ports]

/-! ### PERST_N asserted (R239) -/

/-- A port with no link and with VF Enable clear. -/
def portDown (s : State) (port : Nat) : Prop :=
  (tabAt ({} : Port) s.host.ports port).speed = 0 ∧ (tabAt ({} : Port) s.host.ports port).vfEnable = false

/-- What PERST_N does to one port. -/
def perstPort (s : State) (port : Nat) : State := dropLink (resetPort s port) port

theorem portDown_perstPort_same (s : State) (port : Nat) : portDown (perstPort s port) port :=
  ⟨speed_dropLink _ _, by simpa [perstPort, dropLink] using vfEnable_resetPort s port⟩

theorem perstPort_other (s : State) {port q : Nat} (h : q ≠ port) :
    tabAt ({} : Port) (perstPort s port).host.ports q = tabAt ({} : Port) s.host.ports q := by
  simp only [perstPort, dropLink, resetPort, tabAt_upd_other _ _ _ _ _ h, resetFns_ports]

theorem portDown_perstPort {s : State} {q : Nat} (port : Nat) (h : portDown s q) : portDown (perstPort s port) q := by
  by_cases hq : q = port
  · subst hq
    exact portDown_perstPort_same s q
  · simpa only [portDown, perstPort_other s hq] using h

theorem portDown_foldl {q : Nat} (l : List Nat) (s : State) (h : q ∈ l ∨ portDown s q) : portDown (l.foldl perstPort s) q := by
  induction l generalizing s with
  | nil => simpa using h
  | cons port l ih =>
    rw [List.foldl_cons]
    refine ih (perstPort s port) ?_
    rcases h with hmem | hdown
    · rcases List.mem_cons.mp hmem with rfl | hl
      · exact .inr (portDown_perstPort_same s q)
      · exact .inl hl
    · exact .inr (portDown_perstPort port hdown)

/-- The state with PERST_N asserted, before the event. -/
def perstAsserted (s : State) : State :=
  let s1 := (List.range (portCount s)).foldl perstPort s
  { s1 with power := { s1.power with perstN := false } }

theorem portDown_perstAsserted {s : State} {port : Nat} (h : port < portCount s) : portDown (perstAsserted s) port :=
  portDown_foldl _ s (.inl (List.mem_range.mpr h))

theorem exec_perstNAssert {s : State} (h : s.power.perstN = true) :
    exec .perstNAssert s = .next (raiseIf (s.host.ports.any (fun p => p.2.speed ≠ 0)) (perstAsserted s) evHif 5) := by
  change execPerstNAssert s = _
  rw [execPerstNAssert, if_neg (by simp [h])]
  rfl

/-! ### PERST_N deasserted (R39, R240) -/

theorem trainLink_power (s : State) (port : Nat) : (trainLink s port).power = s.power := rfl

theorem trainLinks_power (s : State) : (trainLinks s).power = s.power := by
  unfold trainLinks
  split
  · exact foldl_keeps State.power trainLink_power _ s
  · rfl

/-- Whether PERST_N stays asserted for longer than 100 ms of a start. -/
def perstLate (s : State) : Bool := s.power.pwrOk && !s.power.ready && decide (s.power.startAt + 100 * msTicks < now s)

/-- The state with PERST_N deasserted, before the links train. -/
def perstReleased (s : State) : State :=
  { s with power := { s.power with
      perstN := true, wakeN := false, cause := if s.power.started then 1 else s.power.cause
      readyDeadline := if perstLate s then Nat.max s.power.readyDeadline (now s + 100 * msTicks) else s.power.readyDeadline } }

theorem exec_perstNDeassert {s : State} (h : s.power.perstN = false) :
    exec .perstNDeassert s = .next (trainLinks (perstReleased s)) := by
  change execPerstNDeassert s = _
  rw [execPerstNDeassert, if_neg (by simp [h])]
  rfl

theorem readyDeadline_le_perstReleased (s : State) : s.power.readyDeadline ≤ (perstReleased s).power.readyDeadline := by
  simp only [perstReleased]
  split
  · exact Nat.le_max_left ..
  · exact Nat.le_refl _

/-! ### The Etch fence raised (R222 to R225) -/

theorem freeExtentAt_power (s : State) (a : Nat) : (freeExtentAt s a).power = s.power := by
  unfold freeExtentAt
  split
  · rfl
  · split <;> rfl

theorem releaseBlocks_power (bs : List Nat) (s : State) : (bs.foldl releaseBlock s).power = s.power :=
  foldl_keeps State.power (fun _ _ => by rfl) bs s

theorem restartWrites_power (s : State) : (restartWrites s).power = s.power := by
  refine (foldl_keeps State.power (fun t _ => by exact releaseBlocks_power _ t) _ _).trans ?_
  refine (foldl_keeps State.power (fun t _ => by exact releaseBlocks_power _ t) _ _).trans ?_
  exact (foldl_keeps State.power (fun t l => foldl_keeps State.power freeExtentAt_power l t) _ _).trans rfl

theorem closeSwath_power (s : State) (id : Nat) : (closeSwath s id).power = s.power := by
  unfold closeSwath
  split
  · rfl
  · split
    · rfl
    · refine (foldl_keeps State.power (fun t m => ?_) _ _).trans rfl
      split <;> rfl

theorem stopPrograms_power (s : State) : (stopPrograms s).power = s.power :=
  foldl_keeps State.power (fun t _ => by exact closeSwath_power t _) _ s

theorem sendAlarm_power (was s : State) (code : Byte) : (sendAlarm was s code).power = s.power := by
  obtain ⟨q, hq⟩ := sendAlarm_eq was s code
  rw [hq]

/-- The state in which a fence has just risen, before the steps under way are given up. -/
def fenced (s : State) (rails : BitVec 6) : State :=
  { s with power := { s.power with
      fence := true, fenceAt := now s, fenceRails := rails, fenceCount := Nat.min 65535 (s.power.fenceCount + 1), wpg := 0
      stage := none, earlyMedia := false, abandoned := s.power.abandoned || s.power.stage.isSome } }

theorem exec_etchFenceRaise_low {s : State} (rails : BitVec 6) (hf : s.power.fence = false) (hp : s.power.pwrOk = true)
    (hs : s.power.shutdown = false) :
    exec (.etchFenceRaise rails) s
      = .next (sendAlarm s (restartWrites (stopPrograms (raise (fenced s rails) evEtb 0))) 2) := by
  change execEtchFenceRaise rails s = _
  rw [execEtchFenceRaise, if_neg (by simp [hp, hs]), if_neg (by simp [hf])]
  rfl

theorem exec_etchFenceRaise_up {s : State} (rails : BitVec 6) (hf : s.power.fence = true) (hp : s.power.pwrOk = true)
    (hs : s.power.shutdown = false) :
    exec (.etchFenceRaise rails) s = .next { s with power := { s.power with fenceAt := now s } } := by
  change execEtchFenceRaise rails s = _
  rw [execEtchFenceRaise, if_neg (by simp [hp, hs]), if_pos hf]

theorem power_fenceRaised (s : State) (rails : BitVec 6) :
    (sendAlarm s (restartWrites (stopPrograms (raise (fenced s rails) evEtb 0))) 2).power = (fenced s rails).power := by
  rw [sendAlarm_power, restartWrites_power, stopPrograms_power, raise_power]

/-! ### The Etch fence lowered (R222, R225) -/

/-- Whether a start that the fence broke off begins again. -/
def startsAgain (s : State) : Bool := s.power.abandoned && s.cas.roleCode ≠ 3

theorem startsAgain_iff (s : State) : startsAgain s = true ↔ s.power.abandoned = true ∧ s.cas.roleCode ≠ 3 := by simp [startsAgain]

/-- The state with the fence lowered, before the commands go on. -/
def unfenced (s : State) : State :=
  let p := { s.power with
    fence := false, wpg := if mediaUp s && !startsAgain s then 0xFF else s.power.wpg, abandoned := false
    stage := if startsAgain s then some (if bootEnded s then 1 else 0) else s.power.stage
    startAt := if startsAgain s then now s else s.power.startAt
    readyDeadline := if startsAgain s then now s + againWithin s * msTicks else s.power.readyDeadline }
  raise { s with power := p } evEtb 1

theorem exec_etchFenceLower_early {s : State} (h : now s < s.power.fenceAt + fenceHold s) : exec .etchFenceLower s = .next s := by
  change execEtchFenceLower s = _
  rw [execEtchFenceLower, if_pos (by simp [elapsed, h])]

theorem exec_etchFenceLower_held {s : State} (hf : s.power.fence = true) (hp : s.power.pwrOk = true) (hs : s.power.shutdown = false)
    (h : s.power.fenceAt + fenceHold s ≤ now s) : exec .etchFenceLower s = .next (resumeJobs (resumeCmds (unfenced s))) := by
  change execEtchFenceLower s = _
  rw [execEtchFenceLower, if_neg (by simp [hf, hp, hs, elapsed, h])]
  rfl

/-- A start that begins again does so from stage 1, or from stage 0 while no settings are in force (R225). -/
theorem unfenced_of_startsAgain {s : State} (h : startsAgain s = true) :
    (unfenced s).power.stage = some (if bootEnded s then 1 else 0) ∧ (unfenced s).power.startAt = now s
      ∧ (unfenced s).power.readyDeadline = now s + againWithin s * 1000000 := by
  simp [unfenced, h, msTicks]

theorem wpg_unfenced {s : State} (hm : mediaUp s = true) (h : startsAgain s = false) : (unfenced s).power.wpg = 0xFF := by
  simp [unfenced, hm, h]

/-! ### Entry to a power state (R266 to R268, R584) -/

theorem changeRate_power (s : State) (ch : Nat) : (changeRate s ch).power = s.power := by
  simp only [changeRate]
  split
  · rfl
  · split
    · rfl
    · split <;> rfl

/-- Clocks that stop or start change the time copies of their islands alone. -/
theorem settleClocks_power_cas (was s : State) : (settleClocks was s).power = s.power ∧ (settleClocks was s).cas = s.cas := by
  refine Prod.mk.inj (foldl_keeps (fun t => (t.power, t.cas)) (fun t i => ?_) _ s)
  split
  · split <;> rfl
  · split <;> rfl

/-- No Tabfer link is up. -/
def linksDown (s : State) : Prop := ∀ l ∈ s.cas.links, l.2.st ≠ 2

theorem linksDown_sleepLinks (s : State) : linksDown (sleepLinks s) := by
  intro l hl
  obtain ⟨e, -, rfl⟩ := List.mem_map.mp hl
  dsimp only
  split
  · exact (by decide : (4 : BitVec 3) ≠ 2)
  · assumption

/-- The state asked for in force, before its islands' clocks stop. -/
def enteredState (s : State) (t : Nat) : State :=
  let s1 := { s with power := { s.power with pstate := t, changing := false, lastOp := if t < 3 then t else s.power.lastOp } }
  let s2 := (tabKeys chanServes s1.media.chans).foldl changeRate s1
  if 3 ≤ t then sleepLinks ((List.range 8).foldl selfRefresh s2) else s2

theorem enteredState_power (s : State) (t : Nat) :
    (enteredState s t).power = { s.power with pstate := t, changing := false, lastOp := if t < 3 then t else s.power.lastOp } := by
  have hrates (u : State) (l : List Nat) : (l.foldl changeRate u).power = u.power := foldl_keeps State.power changeRate_power l u
  simp only [enteredState]
  split
  · exact (foldl_keeps State.power (f := selfRefresh) (fun _ _ => rfl) _ _).trans (hrates ..)
  · exact hrates ..

theorem linksDown_enteredState {s : State} {t : Nat} (h : 3 ≤ t) : linksDown (enteredState s t) := by
  rw [enteredState, if_pos h]
  exact linksDown_sleepLinks _

/-- PS4 takes the power from the media (R600). -/
def mediaCut (s : State) : State :=
  gapWindows { s with
    power := { s.power with wpg := 0, mediaPwrEn := false, tested := false }
    media := { s.media with chans := s.media.chans.map (fun e =>
      (e.1, if e.2.st = chanFenced then e.2 else { e.2 with st := chanOff, reqs := [], holder := none, hold := none })) } }

theorem enterState_eq (s : State) (t : Nat) :
    enterState s t = if t = 4 then mediaCut (settleClocks s (enteredState s t)) else settleClocks s (enteredState s t) := rfl

theorem power_settled (s : State) (t : Nat) :
    (settleClocks s (enteredState s t)).power
      = { s.power with pstate := t, changing := false, lastOp := if t < 3 then t else s.power.lastOp } :=
  (settleClocks_power_cas ..).1.trans (enteredState_power s t)

theorem enterState_inForce (s : State) (t : Nat) : (enterState s t).power.pstate = t ∧ (enterState s t).power.changing = false := by
  rw [enterState_eq]
  split
  · simp [mediaCut, gapWindows, power_settled]
  · simp [power_settled]

theorem enterState_mediaOff (s : State) : (enterState s 4).power.mediaPwrEn = false ∧ (enterState s 4).power.wpg = 0 := ⟨rfl, rfl⟩

theorem linksDown_enterState (s : State) {t : Nat} (h : 3 ≤ t) : linksDown (enterState s t) := by
  have hcas : (enterState s t).cas = (enteredState s t).cas := by
    rw [enterState_eq, apply_ite State.cas, show ∀ u, (mediaCut u).cas = u.cas from fun _ => rfl, ite_self, (settleClocks_power_cas ..).2]
  simpa only [linksDown, hcas] using linksDown_enteredState (s := s) h

theorem exec_powerStateEntry {s : State} (hc : s.power.changing = true) (hj : jobsWait s s.power.ptarget = false)
    (hi : s.host.exec.any (·.isIo) = false) : exec .powerStateEntry s = .next (enterState s s.power.ptarget) := by
  change execPowerStateEntry s = _
  rw [execPowerStateEntry, if_pos (by simp only [hc, hj, hi, Bool.and_false, Bool.or_false]; rfl)]

theorem exec_powerStateEntry_idle {s : State} (hc : s.power.changing = false) : exec .powerStateEntry s = .next s := by
  change execPowerStateEntry s = _
  rw [execPowerStateEntry, if_neg (by simp [hc])]

/-! ### Media bring-up after PS4 (R600) -/

/-- Media bring-up is over: program and erase are allowed unless a fence is up. -/
def upAgain (s : State) : State := { s with power := { s.power with bringUp := false, wpg := if s.power.fence then 0 else 0xFF } }

theorem exec_ps4ExitMediaBringUp {s : State} (chans : List ChanFinding) (hb : s.power.bringUp = true) (hs : s.power.started = true)
    (hp : s.power.pstate ≠ 4) (ht : s.power.mediaAt + 5 * msTicks ≤ now s) :
    ∃ v, exec (.ps4ExitMediaBringUp chans) s = .next (upAgain v) := by
  change ∃ v, execPs4ExitMediaBringUp chans s = _
  rw [execPs4ExitMediaBringUp, if_neg (by simp [hb, hs, hp, elapsed, ht])]
  exact ⟨_, rfl⟩

/-- Settles O28: PERST_N resets every port, the fence holds the programs and a start that it broke off begins again, and a power
state comes into force once nothing waits. -/
theorem fencePerstAndPowerStates : Obligations.FencePerstAndPowerStates := by
  unfold Obligations.FencePerstAndPowerStates
  intro s
  refine ⟨?assert, ?deassert, ?raise, fun r => exec_etchFenceRaise_up r, exec_etchFenceLower_early, ?lower, ?entry,
    exec_powerStateEntry_idle, ?bringUp⟩
  case assert =>
    intro h
    refine ⟨_, exec_perstNAssert h, by rw [raiseIf_power]; rfl, fun p hp => ?_⟩
    rw [raiseIf_host]
    exact portDown_perstAsserted hp
  case deassert =>
    intro h
    refine ⟨_, exec_perstNDeassert h, ?_⟩
    rw [trainLinks_power]
    exact ⟨rfl, rfl, fun hs => if_pos hs, readyDeadline_le_perstReleased s⟩
  case raise =>
    intro r hf hp hs
    refine ⟨_, exec_etchFenceRaise_low r hf hp hs, ?_⟩
    rw [power_fenceRaised]
    exact ⟨rfl, rfl, rfl, rfl, rfl, rfl⟩
  case lower =>
    intro hf hp hs ht
    refine ⟨unfenced s, exec_etchFenceLower_held hf hp hs ht, rfl, rsqAt_raise_same _ _ _, fun ha hr => ?_, fun hm ha => ?_⟩
    · obtain ⟨hstage, hrest⟩ := unfenced_of_startsAgain ((startsAgain_iff s).mpr ⟨ha, hr⟩)
      exact ⟨fun hb => by simp [hstage, hb], fun hb => by simp [hstage, hb], hrest⟩
    · exact wpg_unfenced hm (by simp [startsAgain, ha])
  case entry =>
    intro hc hj hi
    obtain ⟨hstate, hdone⟩ := enterState_inForce s s.power.ptarget
    exact ⟨_, exec_powerStateEntry hc hj hi, hstate, hdone, fun h4 => h4 ▸ enterState_mediaOff s, linksDown_enterState s⟩
  case bringUp =>
    intro hb hs hp ht
    obtain ⟨v, hv⟩ := exec_ps4ExitMediaBringUp [] hb hs hp ht
    exact ⟨upAgain v, hv, rfl, rfl⟩

end Sys2Proof.Machine
end
